-- ==== Sys2Proof/Word.lean ====
section
/-!
DEFINITION. Words, bytes and their plainest arithmetic: bits, slices, extension, little-endian bytes (R6).
-/
namespace Sys2Proof

/-- A scalar register value, 64 bits (R23). -/
abbrev Word := BitVec 64
/-- A lane register value or a parcel, 32 bits (R23, R46). -/
abbrev W32 := BitVec 32
abbrev Byte := BitVec 8

/-- Bit `i` of a natural number. -/
def natBit (n i : Nat) : Bool := n / 2 ^ i % 2 == 1

/-- The field `[hi:lo]` of a natural number, both ends included (R6). -/
def bits (n hi lo : Nat) : Nat := n / 2 ^ lo % 2 ^ (hi + 1 - lo)

/-- `n` with its field of `w` bits from `lo` replaced by the low `w` bits of `v`. -/
def setBits (n lo w v : Nat) : Nat :=
  n / 2 ^ (lo + w) * 2 ^ (lo + w) + v % 2 ^ w * 2 ^ lo + n % 2 ^ lo

/-- `sint` of a `w`-bit value held in a natural number (R22). -/
def sintN (w n : Nat) : Int :=
  if n % 2 ^ w < 2 ^ (w - 1) then (n % 2 ^ w : Nat) else ((n % 2 ^ w : Nat) : Int) - (2 ^ w : Nat)

/-- The low `w` bits of an integer in two's complement, as a natural number. -/
def wrapN (w : Nat) (i : Int) : Nat := (i % ((2 ^ w : Nat) : Int)).toNat

/-- Sign extension of a `w`-bit value to 64 bits (R22: sext64). -/
def sext64 (w n : Nat) : Word := BitVec.ofNat 64 (wrapN 64 (sintN w n))

/-- The `k` bytes of `n`, lowest first (R6). -/
def toBytes : Nat → Nat → List Byte
  | 0, _ => []
  | k + 1, n => BitVec.ofNat 8 n :: toBytes k (n / 256)

/-- The natural number whose bytes, lowest first, are given (R6). -/
def ofBytes : List Byte → Nat
  | [] => 0
  | b :: bs => b.toNat + 256 * ofBytes bs

/-- Number of one bits among the low `w` bits. -/
def popN : Nat → Nat → Nat
  | 0, _ => 0
  | w + 1, n => n % 2 + popN w (n / 2)

/-- Index of the lowest one bit among the low `w` bits, `w` when there is none. -/
def lowestBit : Nat → Nat → Nat
  | 0, _ => 0
  | w + 1, n => if n % 2 = 1 then 0 else lowestBit w (n / 2) + 1

/-- The positions of the one bits below `w`, ascending. -/
def onesOf (w n : Nat) : List Nat := (List.range w).filter (natBit n)

/-- The number whose one bits stand at the given positions below `w`. -/
def maskOf (w : Nat) (js : List Nat) : Nat :=
  (List.range w).foldl (fun a j => if js.contains j then a + 2 ^ j else a) 0

end Sys2Proof
end

