-- ==== Sys2Proof/Syntax.lean ====
section
/-!
DEFINITION. The instruction set: one constructor for every row of the opcode table. Control words carry the
fields of R47, R58 and R60, lane words the parcel fields of R49, events who and what they concern
(95_what_each_step_holds.md).
-/
namespace Sys2Proof

/-- Who executes words (R256, R259, R305): `c` is the grid context, `p` the pitch and `w` the workgroup within the
grid, `g` the group within the workgroup, `f` the fragment of its lane engine. -/
inductive Agent where
  | grid (c : Nat)
  | pitch (c p : Nat)
  | wg (c w : Nat)
  | group (c w g : Nat)
  | handler (c w : Nat)
  | lane (c w g f : Nat)
  deriving DecidableEq, Repr, Inhabited

/-- The parcel fields of a lane word, without CLASS and OP (R49). -/
structure LaneW where
  va : BitVec 7 := 0
  vd : BitVec 7 := 0
  gneg : Bool := false
  guard : BitVec 3 := 0
  la : BitVec 4 := 0
  mod : BitVec 4 := 0
  bsc : Bool := false
  sat : Bool := false
  rnd : BitVec 3 := 0
  fmt : BitVec 5 := 0
  ty : BitVec 4 := 0
  vc : BitVec 7 := 0
  vb : BitVec 7 := 0
  p2 : BitVec 32 := 0
  deriving DecidableEq, Repr, Inhabited

/-- Who holds translations and is named by a bit of the translation-sharer bitmap (R366). -/
inductive TAgent where
  | block (die b : Nat)
  | dieCache (die : Nat)
  | front (die : Nat)
  deriving DecidableEq, Repr, Inhabited

/-- A core by die, column and row (R2). -/
structure CoreId where
  die : Nat
  x : Nat
  y : Nat
  deriving DecidableEq, Repr, Inhabited

/-- The ordering attribute of a host request (R400). -/
inductive HostAttr where
  | rlx | rel | acq
  deriving DecidableEq, Repr, Inhabited

/-- A request from outside a job's words: of a host agent, through a port of a die, for a line of the directory protocol
(R399, R400) or for a device address of context `c`, which it translates (R365); `own` asks for a line, alone or to share,
and `drop` gives it up, which acknowledges an invalidation (R396, R399); `peerAck` is a peer's acknowledgement of the remote
transfer that stands `k`th (R206). Or of a firmware core (R1, R279): `core` 0 is the
policy core, which addresses physical memory, 1 to 6 are the runners, which address their own tightly coupled memory and,
from 65536 on, physical memory through their windows (R430); `orphan` is the host's reclaiming of a line that a hung device
does not answer for (R401). -/
inductive HostReq where
  | read (agent die pa len : Nat) (attr : HostAttr)
  | write (agent die pa len value : Nat) (attr : HostAttr)
  | vread (agent die c va len : Nat) (attr : HostAttr)
  | vwrite (agent die c va len value : Nat) (attr : HostAttr)
  | own (line : Nat) (alone : Bool)
  | drop (line : Nat)
  | peerAck (k : Nat)
  | firmRead (core addr len : Nat)
  | firmWrite (core addr len value : Nat)
  | orphan (line : Nat)
  deriving DecidableEq, Repr, Inhabited

/-- The storage in which an error is detected (R415). -/
inductive ErrUnit where
  | mem (pa : Nat)                       -- HBM: the granule of a physical address
  | l2 (pa : Nat)                        -- an L2 slice or a cache chiplet: the granule of a physical address
  | l1 (core : CoreId) (pa : Nat)        -- core SRAM: a granule of a line that the core's L1 holds
  | scratch (c w off : Nat)              -- core SRAM: a granule of a workgroup's scratchpad
  | slot (c w m off : Nat)               -- an operand slot
  | acc (c w a off : Nat)                -- an accumulator tile
  | vreg (c w g r : Nat)                 -- a vector register of a group
  | mask (c w g q : Nat)                 -- a mask register of a group
  | sreg (a : Agent) (r : Nat)           -- a scalar register of a sequencer
  | receipt (a : Agent) (k : Nat)        -- receipt `k` of a receiver's queue, or of the script in flight to a pitch
  | laneEntry (c w g k : Nat)            -- entry `k` of a lane queue
  | bank (c w b : Nat)                   -- a stationary bank (parity)
  | tcache (t : TAgent) (k : Nat)        -- entry `k` of a translation cache
  | dirEntry (line : Nat)                -- a directory entry
  | codeTable (c w t : Nat)              -- a code table
  | icache (core : CoreId) (line : Nat)  -- an instruction cache or buffer of a core
  | flit (die unit loc : Nat)            -- a flit of a link, retried
  deriving DecidableEq, Repr, Inhabited

/-- The registers and control blocks that REGISTER_WRITE reaches: those with no row of their own. -/
inductive RegName where
  | desc (pq off : Nat)                  -- bytes of a queue descriptor, offset and 4 or 8 bytes (R332)
  | ringCI (ring : Nat)                  -- CI of a ring control block (R331)
  | ringOVF (ring : Nat)                 -- OVF of a ring control block
  | ringBase (ring : Nat)                -- LG and BASE of a ring control block
  | vfStage1 (vf : Nat)                  -- S1EN and the stage-1 table address (R329)
  | fthr                                 -- footfall threshold (R373)
  | pway (die p : Nat)                   -- PWAY (R403)
  | pcap (die p : Nat)                   -- PCAP (R406)
  | porterLow (die : Nat)                -- the first 8-byte store of a porter command (R381)
  | vfPartition (vf : Nat)               -- the partition of a virtual function (R402)
  | record (pq : Nat)                    -- record mode of a queue (R423)
  | capSize (pq : Nat)                   -- size of the capture buffers of a queue's nodes, in captured inputs (R423)
  | rerun (pq : Nat)                     -- 1 plus the capture that the queue's next node re-runs, 0 none (R424)
  | wakeBase (vf : Nat)                  -- physical address of a wake aperture, 0 none (R329)
  | handlerTable (c w i : Nat)           -- entry of a workgroup's handler table, as firmware installs it (R305)
  | peer (job n : Nat)                   -- entry of a job's peer table (R408)
  | endpoint (n : Nat)                   -- an Ethernet endpoint: port mask, UDP port, MAC and IPv6 address (R408)
  | window (n : Nat)                     -- entry of the runners' window table, which the monitor writes (R430)
  | watch (set : Bool)                   -- an address of the debug facilities (R300, WATCH)
  deriving DecidableEq, Repr, Inhabited

/-- One constructor per row of spec/opcode_table.json. -/
inductive Instr where
  -- scalar arithmetic (R101, R102)
  | add (d a b : BitVec 6) | sub (d a b : BitVec 6) | mul (d a b : BitVec 6)
  | mulhI (d a b : BitVec 6) | mulhN (d a b : BitVec 6)
  | divI (d a b : BitVec 6) | divN (d a b : BitVec 6) | remI (d a b : BitVec 6) | remN (d a b : BitVec 6)
  | and (d a b : BitVec 6) | or (d a b : BitVec 6) | xor (d a b : BitVec 6)
  | shl (d a b : BitVec 6) | shr (d a b : BitVec 6) | sar (d a b : BitVec 6)
  | mov (d a : BitVec 6)
  | minI (d a b : BitVec 6) | minN (d a b : BitVec 6) | maxI (d a b : BitVec 6) | maxN (d a b : BitVec 6)
  | cmpI (d a b : BitVec 6) (cc : BitVec 3) | cmpN (d a b : BitVec 6) (cc : BitVec 3)
  | sel (d c a b : BitVec 6)
  | addi (d a : BitVec 6) (imm : BitVec 14) | andi (d a : BitVec 6) (imm : BitVec 14)
  | ori (d a : BitVec 6) (imm : BitVec 14) | xori (d a : BitVec 6) (imm : BitVec 14)
  | shli (d a : BitVec 6) (imm : BitVec 14) | shri (d a : BitVec 6) (imm : BitVec 14)
  | sari (d a : BitVec 6) (imm : BitVec 14)
  | movi (d : BitVec 6) (imm : BitVec 20) | movh (d : BitVec 6) (imm : BitVec 20)
  | ldk (d : BitVec 6) (k : BitVec 20)
  | rdsr (d : BitVec 6) (n : BitVec 10) | wrsr (d : BitVec 6) (n : BitVec 10)
  -- branches, loops, calls (R105 to R107)
  | br (sc : BitVec 3) (off : BitVec 14) | bz (sc : BitVec 3) (a : BitVec 6) (off : BitVec 14)
  | bnz (sc : BitVec 3) (a : BitVec 6) (off : BitVec 14)
  | call (sc : BitVec 3) (off : BitVec 14) | callReg (sc : BitVec 3) (a : BitVec 6) | ret (sc : BitVec 3)
  | loop (sc n : BitVec 3) (a : BitVec 6) | loopi (sc n : BitVec 3) (t : BitVec 9)
  | next (sc n : BitVec 3) (off : BitVec 14)
  -- handing down and raising (R108 to R118)
  | down (off : BitVec 13) | downReg (r : BitVec 6)
  | downv (a b : BitVec 6) (off : BitVec 13) | downvReg (a b r : BitVec 6)
  | raise (n : BitVec 2) (a : BitVec 6) (la : BitVec 4) (fn : BitVec 3)
  | await (d : BitVec 6) (n : BitVec 2) (la : BitVec 4)
  | bar (sc : BitVec 3)
  | signalSet (a b : BitVec 6) (sc : BitVec 3) | signalAdd (a b : BitVec 6) (sc : BitVec 3)
  -- regions, hints, traps (R119 to R121)
  | trap (imm : BitVec 20)
  | icp (sec : BitVec 3) (a : BitVec 6) (n : BitVec 8)
  -- the group scalar stream (R122 to R137)
  | run (off : BitVec 26) | bind (n : BitVec 3) (a : BitVec 6) | unbind (n : BitVec 3)
  | draw (u : BitVec 11) | undraw (u : BitVec 11)
  | sld (d b : BitVec 6) (la : BitVec 4) (sz : BitVec 2) (off : BitVec 8)
  | sst (d b : BitVec 6) (la : BitVec 4) (sz : BitVec 2) (off : BitVec 8)
  | satom (d a : BitVec 6) (la op : BitVec 4) (ord sc : BitVec 2) (w : BitVec 1)
  | swaita (b a : BitVec 6) (la : BitVec 4) (sz : BitVec 2) (cc : BitVec 3) (n : BitVec 1)
  | phase (sc : BitVec 3) (k : BitVec 2) | waitb (imm : BitVec 20)
  | waitt (tl : BitVec 2) (a : BitVec 6) | waitany (a : BitVec 6) | waitall (a : BitVec 6)
  | ffr (d a : BitVec 6) | tagclr (a : BitVec 6) | rwmode (k : BitVec 1)
  -- handler words (R138 to R143)
  | gstate (d a : BitVec 6) (sel : BitVec 14) | gset (b a : BitVec 6) (sel : BitVec 14)
  | resumePr (a : BitVec 6) | resumeRg (a : BitVec 6) | rules (a : BitVec 6) | fctl (a : BitVec 6)
  -- lane words, class 00 (R149 to R169)
  | laneAdd (w : LaneW) | laneSub (w : LaneW) | laneMul (w : LaneW) | mulh (w : LaneW) | mad (w : LaneW)
  | adds (w : LaneW) | subs (w : LaneW) | div (w : LaneW) | rem (w : LaneW)
  | laneAnd (w : LaneW) | laneOr (w : LaneW) | laneXor (w : LaneW) | not (w : LaneW) | lop3 (w : LaneW)
  | laneShl (w : LaneW) | laneShr (w : LaneW) | laneSar (w : LaneW) | rot (w : LaneW)
  | laneMin (w : LaneW) | laneMax (w : LaneW) | abs (w : LaneW) | neg (w : LaneW)
  | clz (w : LaneW) | popc (w : LaneW) | brev (w : LaneW) | bext (w : LaneW) | bins (w : LaneW)
  | laneSel (w : LaneW) | laneCmp (w : LaneW)
  | fadd (w : LaneW) | fsub (w : LaneW) | fmul (w : LaneW) | fma (w : LaneW) | fdiv (w : LaneW)
  | fmin (w : LaneW) | fmax (w : LaneW) | fabs (w : LaneW) | fneg (w : LaneW) | fsgn (w : LaneW)
  | frcp (w : LaneW) | frsq (w : LaneW) | fsqrt (w : LaneW) | fexp2 (w : LaneW) | flog2 (w : LaneW)
  | fsinp (w : LaneW) | fcosp (w : LaneW) | ftanh (w : LaneW) | frnd (w : LaneW) | fcmp (w : LaneW)
  | fclass (w : LaneW) | cvt (w : LaneW) | pack (w : LaneW) | unpack (w : LaneW)
  | laneMov (w : LaneW) | laneMovi (w : LaneW) | movs (w : LaneW) | laneid (w : LaneW)
  | shfl (w : LaneW) | bcast (w : LaneW) | redc (w : LaneW) | scan (w : LaneW) | vote (w : LaneW)
  | laneRaise (w : LaneW)
  | qand (w : LaneW) | qor (w : LaneW) | qxor (w : LaneW) | qnot (w : LaneW) | qmov (w : LaneW)
  | qpop (w : LaneW) | qff (w : LaneW)
  -- lane words, class 01 (R180 to R193)
  | ld (w : LaneW) | st (w : LaneW) | lds (w : LaneW) | sts (w : LaneW) | atom (w : LaneW) | atoms (w : LaneW)
  | prf (w : LaneW)
  -- lane words, class 10 (R215 to R237)
  | sclaim (w : LaneW) | srel (w : LaneW) | ldslot (w : LaneW) | stslot (w : LaneW) | trans (w : LaneW)
  | scale (w : LaneW) | ldw (w : LaneW) | mma (w : LaneW) | aclaim (w : LaneW) | arel (w : LaneW)
  | aload (w : LaneW) | adrainSp (w : LaneW) | adrainReg (w : LaneW) | tblw (w : LaneW)
  -- lane words, class 11 (R171 to R175)
  | brLn (w : LaneW) | join (w : LaneW) | lend (w : LaneW)
  -- events: streams and waits
  | longLatencyComplete (a : Agent) (k : Nat) | waitComplete (a : Agent) | swaitaComplete (a : Agent)
  | awaitComplete (a : Agent) | barComplete (a : Agent) | signalWrite (a : Agent)
  | queuedBlocksDrained (a : Agent) | linkRoom (a : Agent) | drawGrant (die : Nat) | claimGrant (c w k : Nat)
  | bindComplete (a : Agent)
  -- events: matrix window
  | tblwGenerationFree (c w g n : Nat) | matrixIssue (c w g n : Nat) | mmaRowEntry (c w g n rows : Nat)
  | commandRetire (c w g n : Nat)
  -- events: lane engine, receipts, pitches
  | laneBlockStart (c w g : Nat) | fragmentRotation (c w g : Nat) | receiptTake (a : Agent) | pitchFinish (c p : Nat)
  -- events: copy engine
  | notifyRecord (c w : Nat) | entryConsume (c w : Nat) | chitStart (c w k : Nat) | chitStep (c w k : Nat)
  | chitComplete (c w k : Nat)
  -- events: translation service and coherence
  | replayServiced (h : Nat) (trickle : Bool) | replayDeclined (h : Nat) | replayNoframe (h : Nat)
  | asidkill (asid : Nat) | tinval (t : TAgent) (line : Nat) | pageTableStorePerform (k : Nat)
  | l1Invalidation (core : CoreId) (line : Nat) | hostSnoop (line : Nat) (invalidate : Bool) | hostRequest (r : HostReq)
  | remoteTransferArrival (job bit fmt : Nat) (reduce : Bool) (elems : List (Nat × Bool))
  | footfallThreshold (unit region : Nat)
  -- events: front end
  | wakeWrite (vf off size value : Nat) | poolAging (node : Nat) | pitchPlace (c : Nat)
  | placeWaitExpiry (c : Nat) | scriptResume (c : Nat) | nodeComplete (node : Nat)
  | drawPoolChange (die : Nat) (units : Int)
  -- events: porter
  | porterStage (die cmd : Nat) | porterSwap (die cmd : Nat) | porterSpill (die cmd : Nat)
  | porterUnstage (die cmd : Nat) | porterKill (die cmd : Nat)
  -- events: partitions, resets, reliability
  | rwaysWrite (die value : Nat) | pmaskWrite (die slice p mask : Nat) | utilityInterval (die slice : Nat)
  | partitionReset (p : Nat) | scrub (line : Nat)
  | eccError (u : ErrUnit) (corrected : Bool) | linkFail (die unit loc : Nat) (lines : List Nat)
  -- events: monitor calls
  | setStage2Entry (vf iq value : Nat) | setTroot (vf ctx value : Nat) | assignFrame (frame owner : Nat)
  | setHostRange (vf idx base len : Nat) | checkCodeObject (pq code : Nat)
  | stageUpdate (kind : Nat) (image : List Byte) | commitUpdate (kind : Nat) | retireCore (core : CoreId)
  | attest (vf nonce dest : Nat) | registerCodeKey (vf pa : Nat)
  -- events: the rest
  | registerWrite (r : RegName) (value : Nat) | writePerform (k : Nat) | l1Eviction (core : CoreId) (line : Nat)
  | directoryEviction (line : Nat) | coreGating (core : CoreId) | cacheChipletGating (die chiplet : Nat)
  | l2WayRetire (die slice way : Nat) | hbmRowRepair (die row : Nat)
  -- rows with no field, last: words, then events
  | endW | halt | region | yield | nop | seal | flushw | abort | wake | dispatch | deviceReset
  deriving DecidableEq, Repr

end Sys2Proof
end

