-- ==== Sys2Proof/Config.lean ====
section
/-!
DEFINITION. Constants of the part (R1 and the rules cited), and the free values: constants with no body, which
nothing can evaluate (log entries 4 and 9).
-/
namespace Sys2Proof.Config

/-- A value the spec leaves open, number `n` of the run (log entry 4). -/
opaque freeValue : Nat → BitVec 64

/-- The fused digest of the vendor's key pairs, the fused secret and the serial number of a package (R428, R429, R433; log
entry 8). -/
opaque fusedDigest : List Byte
opaque fusedSecret : BitVec 384
opaque serial : Nat
/-- The image of a KIND that the flash holds at manufacture (log entry 8). -/
opaque shipped : Nat → List Byte
/-- The private identity key that the boot ROM derives from the fused secret, and the secret number of report `n`'s signature:
R429 and R433 give neither (log entry 9). -/
opaque deriveKey : BitVec 384 → Nat
opaque signNonce : Nat → Nat
/-- The manufacturing authority's signature block over a message (R433, log entry 9). -/
opaque caSign : List Byte → List Byte

/-- Draw units of a die's pool (R3). -/
def poolUnits : Nat := 1600
/-- Grid contexts (R1, R343). -/
def gridContexts : Nat := 64
/-- Column and row of a die in the package (R1). -/
def dieAt (d : Nat) : Nat × Nat := (d % 2, d / 2)
/-- Nodes that may wait for predecessors (R341), and nodes of the ready pool (R342). -/
def waitingNodes : Nat := 6144
def readyPool : Nat := 2048
/-- Stale-area slots that evicted copies may occupy (R287). -/
def staleEvict : Nat := 2048

/-- The eight spare cores of each die at manufacture (R2); which ones they are is the model's choice (log entry 7). -/
def spareCores : List (Nat × Nat) := [(4, 11), (5, 11), (6, 11), (7, 11), (8, 11), (9, 11), (10, 11), (11, 11)]

end Sys2Proof.Config
end

