-- ==== Sys2Proof/Machine/Num.lean ====
section
/-!
DEFINITION. Number formats to the bit and the one exact rule of conversion (R71 to R88): every element decodes to an
exact value, and every result is one rounding of an exact value. Flags are numbers laid out as FFLAGS (R42).
-/
namespace Sys2Proof.Machine

def fNV : Nat := 1
def fDZ : Nat := 2
def fOF : Nat := 4
def fUF : Nat := 8
def fNX : Nat := 16

/-- A finite value: `(-1)^neg * m * 2^e`, or, with `st`, a magnitude strictly between that of `m` and of `m + 1`. -/
structure Dy where
  neg : Bool := false
  m : Nat := 0
  e : Int := 0
  st : Bool := false
  deriving DecidableEq, Repr, Inhabited

/-- An exact intermediate value (R82). A NaN carries whether it sets NV when read: signalling or reserved. -/
inductive Num where
  | fin (d : Dy)
  | inf (neg : Bool)
  | nan (nv : Bool)
  deriving DecidableEq, Repr, Inhabited

/-- The signed integer `m` of a value. -/
def Dy.int (d : Dy) : Int := if d.neg then -(d.m : Int) else d.m

/-- `z * 2^e` as a value; zero is +0. -/
def Dy.of (z : Int) (e : Int) : Dy := { neg := decide (z < 0), m := z.natAbs, e := e }

/-- The value scaled to exponent `e`, which is at most its own. -/
def Dy.at (d : Dy) (e : Int) : Int := d.int * (2 ^ (d.e - e).toNat : Nat)

/-- Exact sum; an exact zero is +0. -/
def Dy.add (a b : Dy) : Dy :=
  if a.m = 0 then (if b.m = 0 then {} else b)
  else if b.m = 0 then a
  else let e := min a.e b.e; Dy.of (a.at e + b.at e) e

def Dy.mul (a b : Dy) : Dy := { neg := a.neg != b.neg, m := a.m * b.m, e := if a.m * b.m = 0 then 0 else a.e + b.e }

def Dy.negate (a : Dy) : Dy := { a with neg := !a.neg }

/-- Sign of `a - b`, both exact: -1, 0 or 1. -/
def Dy.cmp (a b : Dy) : Int := (a.add b.negate).int.sign

/-! ### Rounding (R83, R88) -/

/-- Rounding modes of RND (R52), dyn resolved. -/
inductive Rnd where
  | rne | rz | rp | rm | rna
  deriving DecidableEq, Repr, Inhabited

/-- RND code to mode, with FCTL.DRND for dyn (R41, R52). -/
def Rnd.ofCode (dyn c : Nat) : Rnd :=
  match if c = 5 then dyn else c with
  | 1 => .rz | 2 => .rp | 3 => .rm | 4 => .rna | _ => .rne

/-- Whether the magnitude `k + rest` moves up to `k + 1`: `lt`, `eq`, `gt` compare the rest with one half. -/
def Rnd.up (r : Rnd) (neg odd exact : Bool) (half : Ordering) : Bool :=
  !exact && (match r with
    | .rne => half == .gt || (half == .eq && odd)
    | .rna => half != .lt
    | .rz => false
    | .rp => !neg
    | .rm => neg)

/-- Position of the leading one: `m < 2 ^ len m`. -/
def len (m : Nat) : Nat := if m = 0 then 0 else Nat.log2 m + 1

/-- Round a magnitude to a multiple of `2^q`: the multiple and whether it differs from the value. -/
def roundAt (r : Rnd) (d : Dy) (q : Int) : Nat × Bool :=
  if d.e + len d.m < q - 1 then
    let ex := decide (d.m = 0) && !d.st
    ((if r.up d.neg false ex .lt then 1 else 0), !ex)
  else if q ≤ d.e then
    let k := d.m * 2 ^ (d.e - q).toNat
    (k + (if r.up d.neg (k % 2 == 1) (!d.st) .lt then 1 else 0), d.st)
  else
    let sh := (q - d.e).toNat
    let k := d.m / 2 ^ sh
    let rem := d.m % 2 ^ sh
    let half := 2 ^ (sh - 1)
    let exact := decide (rem = 0) && !d.st
    let cmp : Ordering := if rem < half then .lt else if rem = half && !d.st then .eq else .gt
    (k + (if r.up d.neg (k % 2 == 1) exact cmp then 1 else 0), !exact)

/-- Round to an integer under a mode (R87, R156). -/
def roundInt (r : Rnd) (d : Dy) : Int × Bool :=
  let (k, nx) := roundAt r d 0
  ((if d.neg then -(k : Int) else k), nx)

/-! ### Floating-point formats (R71 to R74) -/

/-- A floating-point format: exponent and mantissa widths, bias, infinities, the canonical NaN, and the low bits of
the container that are ignored (f19). -/
structure FF where
  e : Nat
  m : Nat
  bias : Nat
  ieee : Bool := false
  nan : Option Nat := none
  shift : Nat := 0
  deriving DecidableEq, Repr, Inhabited

def ffF32 : FF := { e := 8, m := 23, bias := 127, ieee := true, nan := some 0x7FC00000 }
def ffF19 : FF := { e := 8, m := 10, bias := 127, ieee := true, nan := some 0x3FE00, shift := 13 }
def ffBf16 : FF := { e := 8, m := 7, bias := 127, ieee := true, nan := some 0x7FC0 }
def ffF16 : FF := { e := 5, m := 10, bias := 15, ieee := true, nan := some 0x7E00 }

/-- The table of R72, by FMT code 0x00 to 0x0B. -/
def ffOf (f : Nat) : FF :=
  match f with
  | 0x00 => ffF32
  | 0x01 => ffF19
  | 0x02 => ffBf16
  | 0x03 => ffF16
  | 0x04 => { e := 4, m := 3, bias := 7, nan := some 0x7F }
  | 0x05 => { e := 5, m := 2, bias := 15, ieee := true, nan := some 0x7E }
  | 0x06 => { e := 3, m := 4, bias := 3 }
  | 0x07 => { e := 2, m := 5, bias := 1 }
  | 0x08 => { e := 3, m := 2, bias := 3 }
  | 0x09 => { e := 2, m := 3, bias := 1 }
  | 0x0A => { e := 2, m := 1, bias := 1 }
  | _ => { e := 3, m := 0, bias := 3 }

/-- Exponent of the subnormal spacing. -/
def FF.q0 (f : FF) : Int := 1 - f.bias - f.m

/-- Code of the largest finite magnitude (R72). -/
def FF.big (f : FF) : Nat :=
  if f.ieee then (2 ^ f.e - 1) * 2 ^ f.m - 1 else if f.nan.isSome then 2 ^ (f.e + f.m) - 2 else 2 ^ (f.e + f.m) - 1

/-- Decode a floating-point element (R71, R73, R74). -/
def FF.decode (f : FF) (code : Nat) : Num :=
  let n := code / 2 ^ f.shift
  let m := n % 2 ^ f.m
  let e := n / 2 ^ f.m % 2 ^ f.e
  let s := natBit n (f.e + f.m)
  if e = 2 ^ f.e - 1 ∧ f.ieee then
    if m = 0 then .inf s else .nan (m < 2 ^ (f.m - 1))
  else if !f.ieee && f.nan == some (n % 2 ^ (f.e + f.m)) then .nan false
  else if e = 0 then .fin { neg := s, m := m, e := f.q0 }
  else .fin { neg := s, m := 2 ^ f.m + m, e := f.q0 + (e - 1 : Nat) }

/-- A magnitude code with its sign, in the container. -/
def FF.sign (f : FF) (neg : Bool) (mag : Nat) : Nat := (mag + (if neg then 2 ^ (f.e + f.m) else 0)) * 2 ^ f.shift

/-- The result of an overflow (R84). -/
def FF.overflow (f : FF) (r : Rnd) (sat neg : Bool) : Nat :=
  let toInf := f.ieee && !sat && (r == .rne || r == .rna || (r == .rp && !neg) || (r == .rm && neg))
  f.sign neg (if toInf then f.big + 1 else f.big)

/-- Whether a nonzero value is tiny: rounded with an unbounded exponent range it is below the smallest normal (R88). -/
def FF.tiny (f : FF) (r : Rnd) (d : Dy) : Bool :=
  let top : Int := d.e + len d.m - 1
  let emin : Int := 1 - f.bias
  decide (top < emin) &&
    !(decide (top + 1 = emin) && decide ((roundAt r d (top - f.m)).1 = 2 ^ (f.m + 1)))

/-- Encode into a floating-point destination (R83, R84, R86, R88): code and flags. -/
def FF.encode (f : FF) (r : Rnd) (sat : Bool) : Num → Nat × Nat
  | .nan nv =>
    match f.nan with
    | some c => (f.sign false c, if nv then fNV else 0)
    | none => (0, fNV)
  | .inf s => if f.ieee then (f.sign s (if sat then f.big else f.big + 1), 0) else (f.sign s f.big, fOF + fNX)
  | .fin d =>
    if d.m = 0 ∧ !d.st then (f.sign d.neg 0, 0)
    else
      let top : Int := d.e + len d.m - 1
      let q : Int := if d.m = 0 then f.q0 else max f.q0 (top - f.m)
      let (k, nx) := roundAt r d q
      let code := (q - f.q0).toNat * 2 ^ f.m + k
      if f.big < code then (f.overflow r sat d.neg, fOF + fNX)
      else
        (f.sign d.neg code, (if nx then fNX else 0) + (if nx && (decide (d.m = 0) || f.tiny r d) then fUF else 0))

/-! ### Logarithmic formats (R75 to R77, R85) -/

/-- Bits of L, fraction bits and bias of lg8, lg6, lg5, lg4. -/
def lgSpec (f : Nat) : Nat × Nat × Nat :=
  match f with
  | 0x0C => (7, 3, 64)
  | 0x0D => (5, 2, 16)
  | 0x0E => (4, 1, 8)
  | _ => (3, 1, 4)

/-- The constants of R76. -/
def lgC (f : Nat) : Nat :=
  match f with
  | 0 => 0x1000000
  | 1 => 0x1172B84
  | 2 => 0x1306FE1
  | 3 => 0x14BFDAD
  | 4 => 0x16A09E6
  | 5 => 0x18ACE54
  | 6 => 0x1AE89FA
  | _ => 0x1D5818E

/-- Exponent in eighths of a nonzero logarithmic element (R75). -/
def lgX (f L : Nat) : Int := let (_, k, b) := lgSpec f; ((L : Int) - b) * (2 ^ (3 - k) : Nat)

/-- The magnitude `2^i * Cf` with `8 i + f = x` (R75, R77). -/
def lgVal (neg : Bool) (x : Int) : Dy := { neg := neg, m := lgC (x % 8).toNat, e := x / 8 - 24 }

/-- The representable magnitude of log field `L`, zero for 0. -/
def lgMag (f L : Nat) : Dy := if L = 0 then {} else lgVal false (lgX f L)

def lgDecode (f code : Nat) : Num :=
  let (w, _, _) := lgSpec f
  let s := natBit code w
  let L := code % 2 ^ w
  if L = 0 then (if s then .nan true else .fin {}) else .fin (lgVal s (lgX f L))

/-- Compare the magnitude of `d` (with its sticky part) with the exact magnitude `c`. -/
def Dy.magCmp (d c : Dy) : Ordering :=
  let z := Dy.cmp { d with neg := false, st := false } { c with neg := false }
  if z < 0 then .lt else if z = 0 then (if d.st then .gt else .eq) else .gt

/-- The largest log field below `n` whose magnitude does not exceed that of `d`. -/
def lgFloor (f : Nat) (d : Dy) : Nat → Nat
  | 0 => 0
  | n + 1 => if Dy.magCmp d (lgMag f n) != .lt then n else lgFloor f d n

/-- Encode into a logarithmic destination (R84 to R86, R88). -/
def lgEncode (f : Nat) (r : Rnd) : Num → Nat × Nat
  | .nan nv => (2 ^ (lgSpec f).1, if nv then fNV else 0)
  | .inf s => ((if s then 2 ^ (lgSpec f).1 else 0) + (2 ^ (lgSpec f).1 - 1), fOF + fNX)
  | .fin d =>
    if d.m = 0 ∧ !d.st then (0, 0)
    else
      let w := (lgSpec f).1
      let big := 2 ^ w - 1
      let sg := if d.neg then 2 ^ w else 0
      let L := lgFloor f d (2 ^ w)
      if Dy.magCmp d (lgMag f L) == .eq then (sg + L, 0)
      else if L = big then (sg + big, fOF + fNX)
      else
        let half := Dy.magCmp { d with e := d.e + 1 } ((lgMag f L).add (lgMag f (L + 1)))
        let k := L + (if r.up d.neg (L % 2 == 1) false half then 1 else 0)
        ((if k = 0 then 0 else sg + k), fNX + (if L = 0 then fUF else 0))

/-! ### Integers (R78, R87) -/

/-- Encode into an integer destination of range `lo` to `hi` and width `w`; `isInt` tells an integer source. A value or
an infinity outside the range sets NV by R87 and, since the result differs from it, NX by R88 (log entry 49). -/
def intEncode (lo hi : Int) (w : Nat) (r : Rnd) (sat isInt : Bool) : Num → Nat × Nat
  | .nan _ => (0, fNV)
  | .inf s => (wrapN w (if s then lo else hi), fNV ||| fNX)
  | .fin d =>
    let (z, nx) := roundInt r d
    let c := max lo (min hi z)
    let fl := if nx then fNX else 0
    if isInt then (wrapN w (if sat then c else z), 0)
    else if z ≠ c ∨ Dy.magCmp d (Dy.of (if d.neg then lo else hi) 0) == .gt then
      (wrapN w c, fNV ||| fNX)
    else (wrapN w z, fl)

/-- Encode into bin1: code 0 is +1, code 1 is -1 (R86, R87). -/
def binEncode : Num → Nat × Nat
  | .nan _ => (0, fNV)
  | .inf s => ((if s then 1 else 0), fNX)
  | .fin d =>
    let unit := Dy.magCmp d { m := 1 } == .eq
    ((if d.neg ∧ (d.m ≠ 0 ∨ d.st) then 1 else 0), if unit then 0 else fNX)

/-! ### Operand formats and lane types (R52, R53, R79) -/

/-- Width and signedness of the integer formats 0x10 to 0x15. -/
def intFmt (f : Nat) : Nat × Bool :=
  match f with
  | 0x10 => (16, true)
  | 0x11 => (8, true)
  | 0x12 => (8, false)
  | 0x13 => (4, true)
  | 0x14 => (4, false)
  | _ => (2, true)

def intLo (w : Nat) (s : Bool) : Int := if s then -(2 ^ (w - 1) : Nat) else 0
def intHi (w : Nat) (s : Bool) : Int := if s then (2 ^ (w - 1) - 1 : Nat) else (2 ^ w - 1 : Nat)

/-- A `w`-bit integer element as a number. -/
def intDecode (w : Nat) (s : Bool) (code : Nat) : Int := if s then sintN w code else ((code % 2 ^ w : Nat) : Int)

/-- The dense counterpart of a sparse format (R80). -/
def denseOf (f : Nat) : Nat :=
  match f with
  | 0x1C => 0x04
  | 0x1D => 0x0A
  | 0x1E => 0x0D
  | 0x1F => 0x11
  | _ => f

/-- An f16 table entry with its sign changed (R79). -/
def codeEntry (f : Nat) (table : Nat → Nat) (code : Nat) : Num :=
  if f = 0x19 then
    let en := table (code % 8)
    ffF16.decode (if natBit code 3 then (en + 0x8000) % 0x10000 else en)
  else ffF16.decode (table (code % 2 ^ (if f = 0x18 then 4 else if f = 0x1A then 6 else 8)))

/-- Decode an element of format `f` (R71 to R81); `table` gives the entries of the code table. -/
def fmtDecode (table : Nat → Nat) (f code : Nat) : Num :=
  if f ≤ 0x0B then (ffOf f).decode code
  else if f ≤ 0x0F then lgDecode f code
  else if f ≤ 0x15 then let (w, s) := intFmt f; .fin (Dy.of (intDecode w s code) 0)
  else if f = 0x16 then
    (match code % 4 with
     | 0 => .fin {}
     | 1 => .fin { m := 1 }
     | 3 => .fin { neg := true, m := 1 }
     | _ => .nan true)
  else if f = 0x17 then .fin { neg := natBit code 0, m := 1 }
  else if f ≤ 0x1B then codeEntry f table code
  else if f = 0x1C then (ffOf 4).decode code
  else if f = 0x1D then (ffOf 0x0A).decode code
  else if f = 0x1E then lgDecode 0x0D code
  else .fin (Dy.of (intDecode 8 true code) 0)

/-- Whether a format holds integers, for R87. -/
def fmtIsInt (f : Nat) : Bool := (0x10 ≤ f && f ≤ 0x17) || f == 0x1F

/-- Encode into format `f`, 0x00 to 0x17 (R82 to R88). -/
def fmtEncode (f : Nat) (r : Rnd) (sat isInt : Bool) (v : Num) : Nat × Nat :=
  if f ≤ 0x0B then (ffOf f).encode r sat v
  else if f ≤ 0x0F then lgEncode f r v
  else if f ≤ 0x15 then let (w, s) := intFmt f; intEncode (intLo w s) (intHi w s) w r sat isInt v
  else if f = 0x16 then intEncode (-1) 1 2 r sat isInt v
  else binEncode v

/-- Width and signedness of the integer lane types (R52). -/
def tyInt (t : Nat) : Nat × Bool := (8 * 2 ^ (t % 4), decide (t < 4))

/-- The floating-point format of a float lane type; a packed type gives that of its halves (R52). -/
def tyFF (t : Nat) : FF :=
  match t with
  | 8 => ffF16
  | 9 => ffBf16
  | 10 => ffF32
  | 11 => ffF16
  | 12 => ffBf16
  | _ => ffF19

def tyIsInt (t : Nat) : Bool := t < 8
def tyIsFloat (t : Nat) : Bool := 8 ≤ t && t ≤ 13
def tyPacked (t : Nat) : Bool := t == 11 || t == 12

/-- Bits a lane type reads (R52, R146). -/
def tyBits (t : Nat) : Nat :=
  if t < 8 then (tyInt t).1 else if t = 8 ∨ t = 9 then 16 else 32

/-- Decode a value of an integer or single float lane type. -/
def tyDecode (t code : Nat) : Num :=
  if t < 8 then let (w, s) := tyInt t; .fin (Dy.of (intDecode w s code) 0) else (tyFF t).decode (code % 2 ^ tyBits t)

/-- Encode into an integer or single float lane type. -/
def tyEncode (t : Nat) (r : Rnd) (sat isInt : Bool) (v : Num) : Nat × Nat :=
  if t < 8 then let (w, s) := tyInt t; intEncode (intLo w s) (intHi w s) w r sat isInt v else (tyFF t).encode r sat v

end Sys2Proof.Machine
end

