-- ==== Sys2Proof/Machine/Func.lean ====
section
/-!
DEFINITION. Exact results of the floating-point operations (R89, R90, R153 to R158) before the one rounding. The
function words are evaluated in fixed point with `fxF` fraction bits and end in a sticky part (log entry 10).
-/
namespace Sys2Proof.Machine

/-! ### Sums, products, quotients, roots -/

/-- Whether a value is NaN; whether reading it sets NV. -/
def Num.isNan : Num → Bool
  | .nan _ => true
  | _ => false
def Num.nv : Num → Bool
  | .nan nv => nv
  | _ => false

def Num.neg : Num → Num
  | .fin d => .fin d.negate
  | .inf s => .inf (!s)
  | .nan nv => .nan nv

/-- Sign of a number that is no NaN. -/
def Num.sign : Num → Bool
  | .fin d => d.neg
  | .inf s => s
  | .nan _ => false

def Num.isZero : Num → Bool
  | .fin d => d.m == 0 && !d.st
  | _ => false

/-- Exact sum with the IEEE zero signs under `r` (R89, R153). -/
def addNum (r : Rnd) (x y : Num) : Num :=
  match x, y with
  | .fin a, .fin b =>
    let s := a.add b
    if s.m = 0 then .fin { neg := if a.m = 0 ∧ b.m = 0 ∧ a.neg = b.neg then a.neg else r == .rm } else .fin s
  | .inf s, .fin _ => .inf s
  | .fin _, .inf s => .inf s
  | .inf s, .inf t => if s = t then .inf s else .nan true
  | x, y => .nan (x.nv || y.nv)

/-- Exact product (R89, R94). -/
def mulNum (x y : Num) : Num :=
  match x, y with
  | .fin a, .fin b => .fin { a.mul b with neg := a.neg != b.neg }
  | .inf s, .fin b => if b.m = 0 then .nan true else .inf (s != b.neg)
  | .fin a, .inf t => if a.m = 0 then .nan true else .inf (a.neg != t)
  | .inf s, .inf t => .inf (s != t)
  | x, y => .nan (x.nv || y.nv)

/-- `(±)(a * b) + (±)c` (R153); an invalid product answers NaN with NV whatever `c` is. -/
def fmaNum (r : Rnd) (np nc : Bool) (a b c : Num) : Num :=
  let p := mulNum a b
  let p' := if np then p.neg else p
  let c' := if nc then c.neg else c
  if p'.isNan ∨ c'.isNan then .nan (p'.nv || c'.nv) else addNum r p' c'

/-- Exact quotient and whether it divides by zero (R153). -/
def divNum (x y : Num) : Num × Nat :=
  match x, y with
  | .fin a, .fin b =>
    if b.m = 0 then (if a.m = 0 then (.nan true, 0) else (.inf (a.neg != b.neg), fDZ))
    else
      let n := a.m * 2 ^ (80 + len b.m)
      (.fin { neg := a.neg != b.neg, m := n / b.m, e := if a.m = 0 then 0 else a.e - b.e - (80 + len b.m : Nat),
              st := decide (n % b.m ≠ 0) }, 0)
  | .inf s, .fin b => (.inf (s != b.neg), 0)
  | .fin a, .inf t => (.fin { neg := a.neg != t }, 0)
  | .inf _, .inf _ => (.nan true, 0)
  | x, y => (.nan (x.nv || y.nv), 0)

/-- Integer square root, from bit `k` down. -/
def isqrtFrom : Nat → Nat → Nat → Nat
  | 0, n, r => if (r + 1) * (r + 1) ≤ n then r + 1 else r
  | k + 1, n, r =>
    let t := r + 2 ^ (k + 1)
    isqrtFrom k n (if t * t ≤ n then t else r)

def isqrt (n : Nat) : Nat := isqrtFrom (len n / 2 + 1) n 0

/-- Square root of a positive magnitude. -/
def sqrtDy (d : Dy) : Dy :=
  let k : Nat := 160 + (if d.e % 2 = 0 then 0 else 1)
  let n := d.m * 2 ^ k
  let r := isqrt n
  { m := r, e := (d.e - k) / 2, st := decide (r * r ≠ n) }

/-- Reciprocal square root of a positive magnitude. -/
def rsqrtDy (d : Dy) : Dy :=
  let k : Nat := 320 + (if d.e % 2 = 0 then 0 else 1)
  let r := isqrt (2 ^ k / d.m)
  { m := r, e := -((d.e + k) / 2), st := decide (r * r * d.m ≠ 2 ^ k) }

/-! ### Fixed point -/

/-- Fraction bits of the fixed-point evaluation. -/
def fxF : Nat := 640
def fxOne : Nat := 2 ^ fxF

/-- Sum of `t/n + t*y/(n+2) + ...`, `k` terms, with `y` a fixed-point factor and signs alternating when `alt`. -/
def oddSeries (alt : Bool) (y : Nat) : Nat → Nat → Nat → Bool → Int
  | 0, _, _, _ => 0
  | k + 1, t, n, neg =>
    (if neg then -((t / n : Nat) : Int) else ((t / n : Nat) : Int)) +
      oddSeries alt y k (t * y / fxOne) (n + 2) (if alt then !neg else false)

/-- Inverse hyperbolic tangent of `z / 2^fxF`, below 1/3 in magnitude. -/
def atanhFx (z : Int) : Int :=
  let a := z.natAbs
  let s := oddSeries false (a * a / fxOne) 210 a 1 false
  if z < 0 then -s else s

/-- Inverse tangent of `1 / n`. -/
def atanInv (n : Nat) : Int := oddSeries true (fxOne / (n * n)) 150 (fxOne / n) 1 false

def ln2Fx : Nat := (2 * atanhFx (fxOne / 3 : Nat)).toNat
def piFx : Nat := (16 * atanInv 5 - 4 * atanInv 239).toNat

/-- Taylor sum of the exponential of `y` below 1: terms `t`, `t y / n`, ... -/
def expSeries (y : Nat) : Nat → Nat → Nat → Nat
  | 0, _, _ => 0
  | k + 1, t, n => t + expSeries y k (t * y / fxOne / n) (n + 1)

def expFx (y : Nat) : Nat := expSeries y 150 fxOne 1

/-- Alternating Taylor sum in `y^2`, from term `t` with next divisors `n (n+1)`. -/
def trigSeries (y2 : Nat) : Nat → Nat → Nat → Bool → Int
  | 0, _, _, _ => 0
  | k + 1, t, n, neg =>
    (if neg then -(t : Int) else t) + trigSeries y2 k (t * y2 / fxOne / (n * (n + 1))) (n + 2) (!neg)

def sinFx (y : Nat) : Nat := (trigSeries (y * y / fxOne) 90 y 2 false).toNat
def cosFx (y : Nat) : Nat := (trigSeries (y * y / fxOne) 90 fxOne 1 false).toNat

/-- A fixed-point magnitude as an inexact value. -/
def ofFx (neg : Bool) (n : Nat) : Num := .fin { neg := neg, m := n / 2 ^ (fxF - 512), e := -512, st := true }

/-! ### The function words (R155) -/

def exp2Num : Num → Num
  | .nan nv => .nan nv
  | .inf s => if s then .fin {} else .inf false
  | .fin d =>
    if d.m = 0 then .fin { m := 1 }
    else
      let x := Dy.at d (-(fxF : Int))
      let x := if d.e < -(fxF : Int) then 0 else x
      let i := x / (fxOne : Int)
      let f := (x % (fxOne : Int)).toNat
      if f = 0 then .fin { m := 1, e := i }
      else .fin { m := expFx (f * ln2Fx / fxOne) / 2 ^ (fxF - 512), e := i - 512, st := true }

def log2Num : Num → Num × Nat
  | .nan nv => (.nan nv, 0)
  | .inf s => (if s then .nan true else .inf false, 0)
  | .fin d =>
    if d.m = 0 then (.inf true, fDZ)
    else if d.neg then (.nan true, 0)
    else
      let l := len d.m - 1
      let k := d.e + l
      if d.m = 2 ^ l then (.fin (Dy.of k 0), 0)
      else
        let u := d.m * fxOne / 2 ^ l
        let (u, k) := if 3 * fxOne ≤ 2 * u then (u / 2, k + 1) else (u, k)
        let z : Int := ((u : Int) - fxOne) * fxOne / ((u + fxOne : Nat) : Int)
        let v := k * fxOne + 2 * atanhFx z * fxOne / (ln2Fx : Int)
        (ofFx (decide (v < 0)) v.natAbs, 0)

/-- Quadrant of `pi * x` and the rest below one half, in fixed point. -/
def quadrant (d : Dy) : Nat × Nat :=
  let r := (Dy.at d (-(fxF : Int)) % (2 * fxOne : Nat)).toNat
  (r / 2 ^ (fxF - 1), r % 2 ^ (fxF - 1))

/-- `sin(pi (q/2 + t))`. -/
def sinPart (zero : Bool) (q t : Nat) : Num :=
  if t = 0 then
    (match q with
     | 1 => .fin { m := 1 }
     | 3 => .fin { neg := true, m := 1 }
     | _ => .fin { neg := zero })
  else
    let y := t * piFx / fxOne
    ofFx (decide (2 ≤ q)) (if q % 2 = 0 then sinFx y else cosFx y)

def sinpNum : Num → Num
  | .nan nv => .nan nv
  | .inf _ => .nan true
  | .fin d => let (q, t) := quadrant d; sinPart d.neg q t

def cospNum : Num → Num
  | .nan nv => .nan nv
  | .inf _ => .nan true
  | .fin d => let (q, t) := quadrant { d with neg := false }; sinPart false ((q + 1) % 4) t

def tanhNum : Num → Num
  | .nan nv => .nan nv
  | .inf s => .fin { neg := s, m := 1 }
  | .fin d =>
    if d.m = 0 then .fin d
    else if 6 < d.e + len d.m then ofFx d.neg (fxOne - 1)
    else
      let w := (Dy.at { d with neg := false } (-(fxF : Int))).toNat * 2
      let i := w / ln2Fx
      let ex := expFx (w % ln2Fx) * 2 ^ i
      ofFx d.neg ((ex - fxOne) * fxOne / (ex + fxOne))

def sqrtNum : Num → Num
  | .nan nv => .nan nv
  | .inf s => if s then .nan true else .inf false
  | .fin d => if d.m = 0 then .fin d else if d.neg then .nan true else .fin (sqrtDy d)

def rsqrtNum : Num → Num × Nat
  | .nan nv => (.nan nv, 0)
  | .inf s => (if s then .nan true else .fin {}, 0)
  | .fin d =>
    if d.m = 0 then (.inf d.neg, fDZ) else if d.neg then (.nan true, 0) else (.fin (rsqrtDy d), 0)

/-- Round to an integral value, keeping the sign (R156). -/
def rndNum (r : Rnd) : Num → Num × Nat
  | .fin d =>
    let (k, nx) := roundAt r d 0
    if d.m = 0 then (.fin d, 0) else (.fin { neg := d.neg, m := k }, if nx then fNX else 0)
  | x => (x, 0)

/-- Order of two numbers that are no NaN; -0 equals +0. -/
def cmpNum (x y : Num) : Int :=
  match x, y with
  | .fin a, .fin b => Dy.cmp a b
  | .inf s, .inf t => if s = t then 0 else if s then -1 else 1
  | .inf s, _ => if s then -1 else 1
  | _, .inf t => if t then 1 else -1
  | _, _ => 0

/-- A condition code on an order (R58). -/
def ccHolds (cc : Nat) (c : Int) : Bool :=
  match cc with
  | 0 => c == 0
  | 1 => c != 0
  | 2 => c < 0
  | 3 => c ≤ 0
  | 4 => 0 < c
  | _ => 0 ≤ c

/-! ### Operations on codes -/

/-- Round an exact result into a format, adding flags known before the rounding. -/
def fin1 (f : FF) (r : Rnd) (v : Num) (fl : Nat := 0) : Nat × Nat :=
  let (c, g) := f.encode r false v
  (c, g ||| fl)

/-- FMIN and FMAX on codes (R154): the operand's bits unchanged. -/
def fminCode (f : FF) (max : Bool) (a b : Nat) : Nat × Nat :=
  let x := f.decode a
  let y := f.decode b
  let fl := if x.nv || y.nv then fNV else 0
  let clean (c : Nat) := c / 2 ^ f.shift % 2 ^ (1 + f.e + f.m) * 2 ^ f.shift
  if x.isNan ∧ y.isNan then (f.sign false (f.nan.getD 0), fl)
  else if x.isNan then (clean b, fl)
  else if y.isNan then (clean a, fl)
  else
    let c := cmpNum x y
    let less := c < 0 ∨ (c = 0 ∧ x.sign)
    (clean (if (decide less) != max then a else b), fl)

/-- FABS (0), FNEG (1) and FSGN (2) on codes: `a` with its sign bit changed (R90, R154). -/
def signCode (f : FF) (op : Nat) (a b : Nat) : Nat :=
  let w := f.e + f.m
  let mag := a / 2 ^ f.shift % 2 ^ w
  let s := if op = 0 then false else if op = 1 then !natBit a (w + f.shift) else natBit b (w + f.shift)
  f.sign s mag

/-- FCLASS of a code (R158). -/
def classCode (f : FF) (a : Nat) : Nat :=
  let e := a / 2 ^ (f.shift + f.m) % 2 ^ f.e
  match f.decode a with
  | .inf s => if s then 1 else 128
  | .nan nv => if nv then 256 else 512
  | .fin d =>
    if d.m = 0 then (if d.neg then 8 else 16)
    else if e = 0 then (if d.neg then 4 else 32)
    else (if d.neg then 2 else 64)

/-- FCMP of two codes: truth and flags (R157). -/
def fcmpCode (f : FF) (cc : Nat) (unord : Bool) (a b : Nat) : Bool × Nat :=
  let x := f.decode a
  let y := f.decode b
  if x.isNan ∨ y.isNan then
    (unord, if 2 ≤ cc || x.nv || y.nv then fNV else 0)
  else (ccHolds cc (cmpNum x y), 0)

end Sys2Proof.Machine
end

