-- ==== Sys2Proof/Machine/Check.lean ====
section
/-!
DEFINITION. The fate of every encoding (R65, R66): which check a raw word fails at a level, in the order of R65, with
the check code of R66. Control words here; lane words after them.
-/
namespace Sys2Proof.Machine

/-- Executing levels (R37, R58): grid, pitch, workgroup, group stream, and the trap handler. -/
inductive Lvl where
  | G | P | W | S | H
  deriving DecidableEq, Repr, Inhabited

/-- SCOPE code of a level (R13): the lane engine is 000. -/
def Lvl.scope : Lvl → Nat
  | .G => 4 | .P => 3 | .W => 2 | .S => 1 | .H => 1

/-- Why a word may not execute (R65): ILLENC with its parcel and check code, PRIV or SCOPECLASS. -/
inductive Bad where
  | illenc (parcel code : Nat)
  | priv
  | scopeClass
  deriving DecidableEq, Repr, Inhabited

/-- What the fields of a control word must satisfy at a level, besides its MAJOR and level. -/
structure CtlSpec where
  reserved : List (Nat × Nat) := []                  -- fields [hi:lo] that must be zero: check 0x03
  badCode : Bool := false                            -- a reserved or unaccepted code: check 0x04
  src : List Nat := []                               -- source register fields
  dst : List Nat := []                               -- destination register fields
  badPair : Bool := false                            -- check 0x05 for a pair
  la : Option Nat := none                            -- LA of a fixed-latency word: check 0x06
  badImm : Bool := false                             -- check 0x08
  badSr : Bool := false                              -- check 0x09

/-- Levels at which a MAJOR is allowed (R58); the handler runs group-level words but for those of R307. -/
def majorLevels (m : Nat) : List Lvl :=
  if m = 0x15 ∨ m = 0x16 then [.G, .P, .W]
  else if m = 0x17 then [.P, .W, .S, .H]
  else if m = 0x18 then [.G]
  else if m = 0x19 then [.W, .S]
  else if m = 0x1A then [.P, .W, .S]
  else if m = 0x1B then [.W, .S]
  else if m = 0x1D ∨ m = 0x22 ∨ m = 0x23 ∨ m = 0x24 ∨ m = 0x2C ∨ m = 0x2D ∨ m = 0x2E ∨ m = 0x2F ∨ m = 0x30 then [.S]
  else if m = 0x25 ∨ m = 0x26 then [.W]
  else if m = 0x1E ∨ (0x27 ≤ m ∧ m ≤ 0x34) then [.S, .H]
  else if 0x35 ≤ m ∧ m ≤ 0x3A then [.H]
  else [.G, .P, .W, .S, .H]

/-- Whether a register source code is a name of the level (R24). -/
def srcOk (l : Lvl) (f : Nat) : Bool :=
  match l with
  | .G | .P => f < 32
  | _ => f < 64

/-- Whether a destination code is a name of the level; h0 and h1 are not (R24). -/
def dstOk (l : Lvl) (f : Nat) : Bool :=
  match l with
  | .G | .P => f < 30
  | _ => f < 62

/-- Access of a special register (R37). -/
inductive SrAcc where
  | ro | rw | roH | h
  deriving DecidableEq, Repr, Inhabited

/-- Levels and access of a special register by index, none when unassigned (R37). -/
def srInfo (n : Nat) : Option (List Lvl × SrAcc) :=
  let all := [Lvl.G, .P, .W, .S, .H]
  if n = 0x001 then some ([.S, .H], .ro)
  else if n = 0x002 ∨ n = 0x004 then some ([.W, .S, .H], .ro)
  else if n = 0x003 ∨ n = 0x005 then some ([.P, .W, .S, .H], .ro)
  else if n = 0x006 ∨ n = 0x007 ∨ n = 0x008 then some (all, .ro)
  else if n = 0x010 then some ([.S, .H], .ro)
  else if n = 0x011 then some (all, .ro)
  else if n = 0x012 then some (all, .rw)
  else if n = 0x013 then some (all, .roH)
  else if n = 0x020 ∨ n = 0x021 ∨ n = 0x022 ∨ n = 0x024 then some ([.S, .H], .ro)
  else if n = 0x023 then some ([.W, .S, .H], .ro)
  else if n = 0x030 ∨ n = 0x031 then some ([.S, .H], .rw)
  else if n = 0x032 ∨ n = 0x033 then some ([.W, .S, .H], .ro)
  else if n = 0x034 then some ([.S, .H], .ro)
  else if 0x040 ≤ n ∧ n ≤ 0x047 then some (all, .ro)
  else if 0x100 ≤ n ∧ n ≤ 0x107 then some ([.S, .H], .h)
  else none

/-- Check 0x09 of RDSR and WRSR (R36). -/
def srBad (l : Lvl) (write : Bool) (n : Nat) : Bool :=
  match srInfo n with
  | none => true
  | some (ls, acc) => !ls.contains l || (write && acc == .ro)

/-- The PRIV of R36, judged last. -/
def srPriv (l : Lvl) (write : Bool) (n : Nat) : Bool :=
  match srInfo n with
  | some (_, .h) => l != .H
  | some (_, .roH) => write && l != .H
  | _ => false

/-- Whether a condition code is assigned (R58). -/
def ccOk (c : Nat) : Bool := c < 6

/-- The fields of a control word (R47, R58, R60) at level `l`. A MAJOR 0x11 word of the unassigned KINDs 110 and 111 has
no fields that the spec names: field a is taken as reserved (0x03 when nonzero) and OFF14 as free, so such a word is
otherwise 0x04. DESIGN CHOICE, log entry 68. -/
def ctlSpec (l : Lvl) (w : Nat) : CtlSpec :=
  let m := bits w 31 26
  let d := bits w 25 20
  let a := bits w 19 14
  let b := bits w 13 8
  let la := bits w 7 4
  let fn := bits w 3 0
  let sc := bits w 25 23
  let kind := bits w 22 20
  if m = 0x01 then
    { dst := [d], src := if fn = 0xF then [a] else [a, b], la := some la,
      reserved := if fn = 0xF then [(13, 8)] else [] }
  else if m = 0x02 then { dst := [d], src := [a, b], la := some la, badCode := decide (3 < fn) }
  else if m = 0x03 then { dst := [d], src := [a, b], la := some la, badCode := !ccOk (fn % 8) }
  else if m = 0x04 then { dst := [d], src := [a, b, bits w 7 2], reserved := [(1, 0)] }
  else if 0x05 ≤ m ∧ m ≤ 0x08 then { dst := [d], src := [a] }
  else if 0x09 ≤ m ∧ m ≤ 0x0B then { dst := [d], src := [a], badImm := decide (63 < bits w 13 0) }
  else if 0x0C ≤ m ∧ m ≤ 0x0E then { dst := [d], src := if m = 0x0D then [d] else [] }
  else if m = 0x0F then { dst := [d], reserved := [(19, 10)], badSr := srBad l false (bits w 9 0) }
  else if m = 0x10 then { src := [d], reserved := [(19, 10)], badSr := srBad l true (bits w 9 0) }
  else if m = 0x11 then
    { src := if kind = 1 ∨ kind = 2 ∨ kind = 4 then [a] else [],
      reserved := (if kind = 1 ∨ kind = 2 ∨ kind = 4 then [] else [(19, 14)]) ++
        (if kind = 4 ∨ kind = 5 then [(13, 0)] else []),
      badCode := decide (5 < kind) || decide (sc ≠ l.scope) }
  else if m = 0x12 then { src := [a], reserved := [(13, 0)], badCode := decide (sc ≠ l.scope) }
  else if m = 0x13 then { reserved := [(19, 14), (13, 9)], badCode := decide (sc ≠ l.scope) }
  else if m = 0x14 then { reserved := [(19, 14)], badCode := decide (sc ≠ l.scope) }
  else if m = 0x15 then
    { reserved := (25, 14) :: (if bits w 13 13 = 1 then [(6, 0)] else []),
      src := if bits w 13 13 = 1 then [bits w 12 7] else [] }
  else if m = 0x16 then
    { reserved := if bits w 13 13 = 1 then [(6, 0)] else [],
      src := [d, a] ++ (if bits w 13 13 = 1 then [bits w 12 7] else []) }
  else if m = 0x17 ∨ m = 0x18 ∨ m = 0x1D ∨ m = 0x1E ∨ m = 0x1F ∨ m = 0x2C ∨ m = 0x34 ∨ m = 0x38 then
    { reserved := [(25, 0)] }
  else if m = 0x19 then { src := [a], reserved := [(25, 22), (13, 8)], badCode := decide (7 < fn) }
  else if m = 0x1A then { dst := [d], reserved := [(19, 16), (13, 8), (3, 0)] }
  else if m = 0x1B then
    { reserved := [(22, 20), (19, 14), (13, 0)],
      badCode := if l = .S then decide (sc ≠ 2 ∧ sc ≠ 3) else decide (sc ≠ 3) }
  else if m = 0x1C then
    { src := [a, b], reserved := [(25, 20)], la := some la, badCode := decide (fn % 8 ≠ 5 ∧ fn % 8 ≠ 6) }
  else if m = 0x20 then { reserved := [(25, 20)] }
  else if m = 0x21 then { src := [a], reserved := [(22, 20), (13, 8)], badCode := decide (4 < sc) }
  else if m = 0x22 then {}
  else if m = 0x23 then { src := [a], reserved := [(25, 23), (13, 8), (3, 0)], la := some la }
  else if m = 0x24 then { reserved := [(25, 23), (19, 14), (13, 8), (3, 0)], la := some la }
  else if m = 0x25 ∨ m = 0x26 then { reserved := [(25, 20), (19, 11)] }
  else if m = 0x27 then { dst := [d], src := [a] }
  else if m = 0x28 then { src := [d, a] }
  else if m = 0x29 then
    { dst := [d], src := [a, d] ++ (if bits w 9 6 = 9 then [d + 1] else []), reserved := [(0, 0)],
      badCode := decide (11 < bits w 9 6),
      badPair := decide (bits w 9 6 = 9) && (decide (d % 2 = 1) || decide (60 < d)) }
  else if m = 0x2A then
    { src := [d, a], reserved := [(3, 0)], badCode := decide (bits w 9 8 < 2) || !ccOk (bits w 7 5) }
  else if m = 0x2B then
    { reserved := [(20, 0)],
      badCode := decide (bits w 22 21 = 0) || !([2, 3, 5, 6].contains sc) }
  else if m = 0x2D then { reserved := [(25, 20)] }
  else if m = 0x2E then { src := [a], reserved := [(23, 20), (13, 0)], badCode := decide (bits w 25 24 = 3) }
  else if m = 0x2F ∨ m = 0x30 ∨ m = 0x32 ∨ m = 0x39 ∨ m = 0x3A then
    { src := [a], reserved := [(25, 20), (13, 0)] }
  else if m = 0x31 then { dst := [d], src := [a], reserved := [(13, 8), (3, 0)], la := some la }
  else if m = 0x33 then { reserved := [(25, 20), (19, 1)] }
  else if m = 0x35 then { dst := [d], src := [a] }
  else if m = 0x36 then { src := [d, a] }
  else if m = 0x37 then { src := [a], reserved := [(23, 20), (13, 0)], badCode := decide (1 < bits w 25 24) }
  else {}

/-- The lowest check code that the fields offend (R66), none when every field is legal. -/
def CtlSpec.code (l : Lvl) (w : Nat) (s : CtlSpec) : Option Nat :=
  if s.reserved.any (fun r => bits w r.1 r.2 != 0) then some 3
  else if s.badCode then some 4
  else if s.src.any (fun f => !srcOk l f) || s.dst.any (fun f => !dstOk l f) || s.badPair then some 5
  else if s.la.any (· != 0) then some 6
  else if s.badImm then some 8
  else if s.badSr then some 9
  else none

/-- The checks of R65 on a control word at level `l`, in their order. -/
def ctlCheck (l : Lvl) (w : Nat) : Option Bad :=
  let m := bits w 31 26
  if m = 0 ∨ 0x3B ≤ m then some (.illenc 0 1)
  else if 0x35 ≤ m ∧ m ≤ 0x3A ∧ l ≠ .H then some .priv
  else if m = 0x19 ∧ l = .P ∨ m = 0x1A ∧ l = .G then some .scopeClass
  else if !(majorLevels m).contains l then some (.illenc 0 2)
  else if m = 0x1B ∧ (4 ≤ bits w 25 23 ∧ bits w 25 23 ≤ 6) then some .scopeClass
  else match (ctlSpec l w).code l w with
    | some c => some (.illenc 0 c)
    | none =>
      if (m = 0x0F ∨ m = 0x10) ∧ srPriv l (m = 0x10) (bits w 9 0) then some .priv else none

/-! ### Lane words (R49 to R64, R144 to R180, R216, R217) -/

/-- How a register field of a lane word is used. -/
inductive Use where
  | none                                             -- must be zero
  | v                                                -- vector register of the word's type (a pair for 64 bits)
  | v1                                               -- one 32-bit vector register
  | q                                                -- mask source (R30)
  | qd                                               -- mask destination (R30)
  | vb (imm : Bool)                                  -- VB with BSC: vector, scalar, or immediate when `imm` (R50)
  | sc                                               -- scalar required, BSC set (MOVS, valid count)
  | so                                               -- optional scalar in VA or VC of class 10 (R217)
  | free                                             -- any value (shape index, ROW)
  | e                                                -- raise register (R168)
  | dpair                                            -- vd and vd + 1, even (R217)
  deriving DecidableEq, Repr

/-- What a row of the lane-word map accepts (R61 to R64). -/
structure LaneSpec where
  va : Use := .none
  vb : Use := .none
  vc : Use := .none
  vd : Use := .none
  tys : List Nat := [0]
  badMod : Nat → Bool := fun _ => false              -- a MOD code not accepted: check 0x04
  modRes : Nat := 15                                 -- MOD bits that must be zero: check 0x03
  rnd : Bool := false                                -- RND used
  sat : Bool := false
  fmt : Bool := false
  la : Bool := false                                 -- takes a lookahead (R55)
  guard : Bool := true
  p2res : Nat := 0xFFFFFFFF                          -- P2 bits that must be zero
  wide : Bool := true                                -- types 3 and 7 name pairs

def tyI : List Nat := [0, 1, 2, 3, 4, 5, 6, 7]
def tyF : List Nat := [8, 9, 10, 11, 12, 13]
def tyMove : List Nat := [3, 7, 14]

/-- P2 fields of the class-10 words (R216): bits not in the mask must be zero. -/
def p2Tile (used : Nat) : Nat := 0xFFFFFFFF - used
def pdMask : Nat := 0xFFF00000

/-- The row of class 00 with opcode `op` (R61, R147). -/
def aluSpec (op : Nat) : Option LaneSpec :=
  if 0x01 ≤ op ∧ op ≤ 0x04 ∨ op = 0x06 ∨ op = 0x07 ∨ op = 0x08 ∨ op = 0x09 ∨ op = 0x13 ∨ op = 0x14 then
    some { va := .v, vb := .vb true, vd := .v, tys := tyI }
  else if op = 0x05 then some { va := .v, vb := .vb true, vc := .v, vd := .v, tys := tyI }
  else if 0x0A ≤ op ∧ op ≤ 0x0C ∨ 0x0F ≤ op ∧ op ≤ 0x12 then
    some { va := .v, vb := .vb true, vd := .v, tys := tyI ++ [14] }
  else if op = 0x0D then some { vb := .vb true, vd := .v, tys := tyI ++ [14] }
  else if op = 0x0E then
    some { va := .v, vb := .vb false, vc := .v, vd := .v, tys := tyI ++ [14], p2res := 0xFFFFFF00 }
  else if op = 0x15 ∨ op = 0x16 then some { vb := .vb true, vd := .v, tys := tyI }
  else if 0x17 ≤ op ∧ op ≤ 0x19 then some { vb := .vb true, vd := .v, tys := [2, 3, 6, 7, 14] }
  else if op = 0x1A then some { va := .v, vb := .vb true, vd := .v, tys := [2, 3, 6, 7, 14] }
  else if op = 0x1B then some { va := .v, vb := .vb true, vc := .v, vd := .v, tys := [2, 3, 6, 7, 14] }
  else if op = 0x1C then
    some { va := .v, vb := .vb true, vc := .q, vd := .v, tys := List.range 15 }
  else if op = 0x1D then
    some { va := .v, vb := .vb true, vd := .qd, tys := tyI, modRes := 8, badMod := fun m => !ccOk (m % 8) }
  else if 0x20 ≤ op ∧ op ≤ 0x22 ∨ op = 0x29 then
    some { va := .v, vb := .vb true, vd := .v, tys := tyF, rnd := true }
  else if op = 0x23 then
    some { va := .v, vb := .vb true, vc := .v, vd := .v, tys := tyF, rnd := true, modRes := 12 }
  else if op = 0x24 ∨ op = 0x25 ∨ op = 0x28 then some { va := .v, vb := .vb true, vd := .v, tys := tyF }
  else if op = 0x26 ∨ op = 0x27 then some { vb := .vb true, vd := .v, tys := tyF }
  else if 0x2A ≤ op ∧ op ≤ 0x31 then some { vb := .vb true, vd := .v, tys := tyF, rnd := true }
  else if op = 0x32 then some { vb := .vb false, vd := .v, tys := tyF, rnd := true }
  else if op = 0x33 then
    some { va := .v, vb := .vb true, vd := .qd, tys := tyF, modRes := 0, badMod := fun m => !ccOk (m % 8) }
  else if op = 0x34 then some { vb := .vb false, vd := .v1, tys := tyF }
  else if op = 0x38 then
    some { vb := .vb false, vd := .v, tys := List.range 11 ++ [13], rnd := true, sat := true, fmt := true,
           modRes := 12, badMod := fun m => m % 4 == 3, p2res := 0xFFFFFF00 }
  else if op = 0x39 then
    some { va := .v1, vb := .vb false, vd := .v1, tys := [0, 1, 4, 5, 11, 12], sat := true, modRes := 14 }
  else if op = 0x3A then some { vb := .vb false, vd := .v1, tys := [0, 1, 4, 5, 11, 12], modRes := 12 }
  else if op = 0x40 then some { vb := .v, vd := .v, tys := tyMove }
  else if op = 0x41 then some { vd := .v, tys := tyMove, p2res := 0 }
  else if op = 0x42 then some { vb := .sc, vd := .v, tys := tyMove }
  else if op = 0x43 then some { vd := .v1, tys := [6] }
  else if op = 0x44 then some { va := .v, vb := .vb true, vd := .v, tys := tyMove, modRes := 14 }
  else if op = 0x45 then some { va := .v, vb := .vb true, vd := .v, tys := tyMove }
  else if op = 0x48 then
    some { vb := .vb false, vd := .v, tys := List.range 15, modRes := 8, badMod := fun m => decide (5 < m % 8),
           rnd := true }
  else if op = 0x49 then
    some { vb := .vb false, vd := .v, tys := List.range 15, modRes := 0, badMod := fun m => decide (5 < m % 8),
           rnd := true }
  else if op = 0x4A then
    some { vb := .q, vd := .qd, modRes := 12, badMod := fun m => m % 4 == 3 }
  else if op = 0x4B then some { vb := .vb false, vd := .e, tys := [14], modRes := 8, la := true }
  else if 0x50 ≤ op ∧ op ≤ 0x52 then some { va := .q, vb := .q, vd := .qd }
  else if op = 0x53 ∨ op = 0x54 then some { vb := .q, vd := .qd }
  else if op = 0x55 ∨ op = 0x56 then some { vb := .q, vd := .v1 }
  else none

/-- The row of class 01 with opcode `op` (R62, R180). -/
def memSpec (op : Nat) (w : LaneW) : Option LaneSpec :=
  let form := w.mod.toNat % 4
  let ord := w.mod.toNat / 4
  let base : LaneSpec :=
    { va := .v1, vb := if form = 1 then .sc else .none, la := true, modRes := 0,
      tys := [0, 1, 2, 3, 4, 5, 6, 7, 14] }
  let glob (m : Nat) := decide (1 < m % 4)
  let win := if form = 0 then 7 else 0
  if op = 0x01 then
    some { base with vd := .v, badMod := fun m => glob m || decide (1 < m / 4), p2res := p2Tile (win + 0xC0) }
  else if op = 0x02 then
    some { base with vc := .v, badMod := fun m => glob m || decide (m / 4 = 1 ∨ m / 4 = 3), p2res := p2Tile (win + 0xC0) }
  else if op = 0x03 then
    some { base with vb := .none, vd := .v, badMod := fun m => m % 4 != 2 || decide (1 < m / 4), p2res := p2Tile 0xC0 }
  else if op = 0x04 then
    some { base with vb := .none, vc := .v, badMod := fun m => m % 4 != 2 || decide (m / 4 = 1 ∨ m / 4 = 3),
                     p2res := p2Tile 0xC0 }
  else if op = 0x05 then
    some { base with vc := .v, vd := .v, badMod := glob, tys := List.range 15, p2res := p2Tile (win + 0xFC0) }
  else if op = 0x06 then
    some { base with vb := .none, vc := .v, vd := .v, badMod := fun m => m % 4 != 2, tys := List.range 15,
                     p2res := p2Tile 0xFC0 }
  else if op = 0x07 then
    some { base with badMod := glob, modRes := 12, tys := [0], p2res := p2Tile (win + 0x1000) }
  else if ord = 0 then none else none

/-- The row of class 10 with opcode `op` (R63, R216). -/
def tileSpec (op : Nat) (w : LaneW) : Option LaneSpec :=
  let b : LaneSpec := { guard := false }
  if op = 0x01 ∨ op = 0x02 then some { b with p2res := p2Tile 0xFF00 }
  else if op = 0x03 then some { b with vd := .free, vb := .sc, vc := .so, la := true, p2res := p2Tile (pdMask + 0xF000) }
  else if op = 0x04 then some { b with vd := .free, vc := .so, la := true, p2res := p2Tile (pdMask + 0xF000) }
  else if op = 0x05 then some { b with la := true, p2res := p2Tile (pdMask + 0xF000) }
  else if op = 0x06 then some { b with va := .so, la := true, modRes := 14, p2res := p2Tile (pdMask + 0xF000) }
  else if op = 0x07 then some { b with va := .so, la := true, modRes := 14, p2res := p2Tile (pdMask + 0xF0F0) }
  else if op = 0x08 then
    some { b with va := .so, vb := .sc, la := true, modRes := 8, p2res := p2Tile (pdMask + 0xFF0F0) }
  else if op = 0x09 ∨ op = 0x0A then some { b with p2res := p2Tile 0xF0F00 }
  else if op = 0x0B then
    some { b with vd := .free, vc := .so, rnd := true, la := true, p2res := p2Tile (pdMask + 0xF0000) }
  else if op = 0x0C then
    if w.mod.toNat % 2 = 0 then
      some { b with vd := .free, vb := .sc, vc := .so, rnd := true, sat := true, fmt := true, la := true, modRes := 14,
                    p2res := p2Tile (pdMask + 0xF0000) }
    else
      some { b with vd := .dpair, vc := .free, rnd := true, sat := true, fmt := true, la := true, modRes := 14,
                    p2res := p2Tile (pdMask + 0xF0000) }
  else if op = 0x0D then some { b with vd := .free, vc := .so, la := true, p2res := p2Tile (pdMask + 0x70) }
  else none

/-- The row of class 11 with opcode `op` (R64). -/
def ctlLaneSpec (op : Nat) : Option LaneSpec :=
  if op = 0x01 then some { va := .q, guard := false, p2res := 0 }
  else if op = 0x02 ∨ op = 0x03 then some { guard := false }
  else none

/-- The row that CLASS and OP select, none when unassigned. -/
def laneSpec (cls op : Nat) (w : LaneW) : Option LaneSpec :=
  if cls = 0 then aluSpec op else if cls = 1 then memSpec op w else if cls = 2 then tileSpec op w else ctlLaneSpec op

/-- Element widths of the operand formats (R53). -/
def fmtBits (f : Nat) : Nat :=
  if f ≤ 0x01 then 32 else if f ≤ 0x03 then 16 else if f ≤ 0x07 then 8 else if f ≤ 0x09 then 6 else if f ≤ 0x0B then 4
  else if f = 0x0C then 8 else if f = 0x0D then 6 else if f = 0x0E then 5 else if f = 0x0F then 4
  else if f = 0x10 then 16 else if f = 0x11 ∨ f = 0x12 then 8 else if f = 0x13 ∨ f = 0x14 then 4
  else if f = 0x15 ∨ f = 0x16 then 2 else if f = 0x17 then 1
  else if f = 0x18 ∨ f = 0x19 then 4 else if f = 0x1A then 6 else if f = 0x1B then 8
  else if f = 0x1C then 8 else if f = 0x1D then 4 else if f = 0x1E then 6 else 8

/-- Offences of a register field, as check codes, in its parcel (R28 to R30, R50, R217). A mask field above 7 is check
0x05, DESIGN CHOICE (log entry 48). -/
def useOff (nv : Nat) (pair : Bool) (parcel : Nat) (f : Nat) (bsc : Bool) : Use → List (Nat × Nat)
  | .none => if f = 0 then [] else [(3, parcel)]
  | .v => if pair then (if f % 2 = 1 ∨ nv ≤ f + 1 then [(5, parcel)] else []) else if nv ≤ f then [(5, parcel)] else []
  | .v1 => if nv ≤ f then [(5, parcel)] else []
  | .q => if 7 < f then [(5, parcel)] else []
  | .qd => if 7 < f ∨ f % 8 = 0 then [(5, parcel)] else []
  | .vb imm =>
    if bsc then
      if f = 0x7F then (if imm then [] else [(4, parcel)])
      else if 0x3D < f then [(5, parcel)] else []
    else if pair then (if f % 2 = 1 ∨ nv ≤ f + 1 then [(5, parcel)] else []) else if nv ≤ f then [(5, parcel)] else []
  | .sc =>
    if !bsc then [(3, 1)] else if f = 0x7F then [(4, parcel)] else if 0x3D < f then [(5, parcel)] else []
  | .so => if 63 < f then [(3, parcel)] else if f = 0x3E ∨ f = 0x3F then [(5, parcel)] else []
  | .free => []
  | .e => if 3 < f then [(3, parcel)] else []
  | .dpair => if f % 2 = 1 ∨ nv ≤ f + 1 then [(5, parcel)] else []

/-- Whether VB with this use may set BSC; otherwise a set BSC is check 0x03 (R50). -/
def Use.mayBsc : Use → Bool
  | .vb _ | .sc => true
  | _ => false

/-- Conditions of single rows beyond the table of uses: (check code, parcel). -/
def laneExtra (nv cls op : Nat) (w : LaneW) : List (Nat × Nat) :=
  let ty := w.ty.toNat
  let m := w.mod.toNat
  let p2 := w.p2.toNat
  let aop := bits p2 11 8
  let sc := bits p2 7 6
  if cls = 0 then
    -- P2 carries the immediate only when VB is 0x7F with BSC (R50)
    (if op = 0x48 ∨ op = 0x49 then
      (if m % 8 ≤ 2 ∧ ty = 14 then [(4, 1)] else []) ++
      (if 3 ≤ m % 8 ∧ 8 ≤ ty ∧ ty ≤ 13 then [(4, 1)] else []) ++
      (if w.rnd ≠ 0 ∧ ¬(m % 8 = 0 ∧ 8 ≤ ty ∧ ty ≤ 13) then [(3, 1)] else [])
    else []) ++
    (if op = 0x38 then
      (if m % 4 = 0 ∧ 15 < w.fmt.toNat then [(3, 1)] else []) ++
      (if m % 4 = 0 ∧ (let t := w.fmt.toNat % 16; t = 11 ∨ t = 12 ∨ 13 < t) then [(4, 1)] else []) ++
      (if m % 4 = 2 ∧ 0x18 ≤ w.fmt.toNat then [(4, 1)] else []) ++
      -- with no format side, e is a field that must be 0 (log entry 24)
      (let e := p2 % 32
       if m % 4 = 0 then (if e ≠ 0 then [(3, 2)] else []) else if 32 / fmtBits w.fmt.toNat ≤ e then [(8, 2)] else []) ++
      (if ¬(m % 4 = 1 ∧ 0x18 ≤ w.fmt.toNat ∧ w.fmt.toNat ≤ 0x1B) ∧ bits p2 7 5 ≠ 0 then [(3, 2)] else []) ++
      -- a 64-bit source or destination names an even pair (R29)
      (let s64 := m % 4 ≠ 1 ∧ (ty = 3 ∨ ty = 7)
       let d64 := (m % 4 = 1 ∧ (ty = 3 ∨ ty = 7)) ∨ (m % 4 = 0 ∧ (w.fmt.toNat = 3 ∨ w.fmt.toNat = 7))
       let pairBad (f : Nat) := f % 2 = 1 ∨ nv ≤ f + 1
       (if s64 ∧ !w.bsc ∧ pairBad w.vb.toNat then [(5, 1)] else []) ++
       (if d64 ∧ pairBad w.vd.toNat then [(5, 0)] else []))
    else []) ++
    (if op = 0x39 then
      (if w.sat ∧ (ty = 11 ∨ ty = 12) then [(3, 1)] else []) ++
      (if m % 2 = 1 ∧ ty ≠ 0 ∧ ty ≠ 4 then [(4, 1)] else [])
    else []) ++
    (if op = 0x3A ∧ 2 ≤ m % 4 ∧ ty ≠ 0 ∧ ty ≠ 4 then [(8, 1)] else [])
  else if cls = 1 then
    (if (op ≤ 0x04) ∧ m / 4 = 0 ∧ sc ≠ 0 then [(3, 2)] else []) ++
    (if (op = 0x03 ∨ op = 0x04) ∧ m / 4 ≠ 0 ∧ 1 < sc then [(4, 2)] else []) ++
    (if op = 0x06 ∧ 1 < sc then [(4, 2)] else []) ++
    (if op = 0x05 ∨ op = 0x06 then
      let ok := if aop ≤ 9 then [2, 3, 6, 7, 14].contains ty
                else if aop = 10 ∨ aop = 11 then [6, 7, 14].contains ty
                else aop == 12 && [10, 12].contains ty
      (if 12 < aop then [(4, 2)] else if ok then [] else [(4, 1)])
    else [])
  else if cls = 2 then
    let slot := bits p2 15 12
    let acc := bits p2 19 16
    let cnt := bits p2 11 8
    (if (op = 0x01 ∨ op = 0x02) ∧ 16 < slot + cnt + 1 then [(8, 2)] else []) ++
    (if (op = 0x09 ∨ op = 0x0A) ∧ 16 < acc + cnt + 1 then [(8, 2)] else []) ++
    (if op = 0x0C ∧ m % 2 = 0 ∧ 0x18 ≤ w.fmt.toNat then [(4, 1)] else []) ++
    (if op = 0x0C ∧ m % 2 = 1 ∧ 3 < w.fmt.toNat then [(4, 1)] else [])
  else []

/-- Every offence of a lane word whose CLASS and OP are assigned, as (check code, parcel) (R66). -/
def laneOffences (nv cls op : Nat) (w : LaneW) (sp : LaneSpec) : List (Nat × Nat) :=
  let ty := w.ty.toNat
  let m := w.mod.toNat
  let pair := sp.wide && (ty == 3 || ty == 7) && !(cls == 0 && op == 0x38)
  let imm := cls == 0 && w.bsc && w.vb.toNat == 0x7F
  let p2res := if imm && sp.vb == .vb true && sp.p2res == 0xFFFFFFFF then 0 else sp.p2res
  let ballot := cls == 0 && op == 0x4A && m % 4 == 2
  useOff nv pair 0 w.va.toNat false sp.va ++
  useOff nv pair 1 w.vb.toNat w.bsc sp.vb ++
  useOff nv pair 1 w.vc.toNat false sp.vc ++
  useOff nv pair 0 w.vd.toNat false (if ballot then .v1 else sp.vd) ++
  (if w.bsc && !sp.vb.mayBsc then [(3, 1)] else []) ++
  (if w.guard = 0 && w.gneg then [(7, 0)] else []) ++
  (if !sp.guard && (w.guard ≠ 0 || w.gneg) then [(7, 0)] else []) ++
  (if !sp.la && w.la ≠ 0 then [(6, 0)] else []) ++
  (if sp.tys == [0] then (if ty = 15 then [(4, 1), (3, 1)] else if ty = 0 then [] else [(3, 1)])
   else if sp.tys.contains ty then [] else [(4, 1)]) ++
  (if sp.rnd then (if 5 < w.rnd.toNat then [(4, 1)] else []) else if 5 < w.rnd.toNat then [(4, 1), (3, 1)]
   else if w.rnd = 0 then [] else [(3, 1)]) ++
  (if !sp.sat && w.sat then [(3, 1)] else []) ++
  (if !sp.fmt && w.fmt ≠ 0 then [(3, 1)] else []) ++
  (if m &&& sp.modRes ≠ 0 then [(3, 1)] else []) ++
  (if sp.badMod m then [(4, 1)] else []) ++
  (if w.p2.toNat &&& p2res ≠ 0 then [(3, 2)] else []) ++
  laneExtra nv cls op w

/-- The lower of two offences: lower code, then lower parcel (R66). -/
def minOff : List (Nat × Nat) → Option (Nat × Nat)
  | [] => none
  | (c, p) :: l =>
    match minOff l with
    | none => some (c, p)
    | some (c', p') => if c < c' ∨ c = c' ∧ p ≤ p' then some (c, p) else some (c', p')

/-- The checks of R65 on a lane word of a group with `nv` vector registers per lane. -/
def laneCheck (nv cls op : Nat) (w : LaneW) : Option Bad :=
  match laneSpec cls op w with
  | none => some (.illenc 0 1)
  | some sp =>
    match minOff (laneOffences nv cls op w sp) with
    | none => none
    | some (c, p) => some (.illenc p c)

end Sys2Proof.Machine
end

