-- ==== Sys2Proof/WellFormed.lean ====
section
/-!
DEFINITION. Static legality: the operand conditions R58 to R64 and R66 put on an instruction at some level, with the
largest register allocation. Levels, privileges and a kernel's own allocation are judged when a word executes.
-/
namespace Sys2Proof

/-- A scalar destination: s0 to s61 (R24). -/
def wfDst (d : BitVec 6) : Bool := d.toNat < 62
/-- An own-level branch scope: group, workgroup, pitch or grid (R54). -/
def wfScope (sc : BitVec 3) : Bool := 1 ≤ sc.toNat && sc.toNat ≤ 4
/-- A condition code (R58). -/
def wfCond (cc : BitVec 3) : Bool := cc.toNat < 6
/-- A shift count (R58). -/
def wfShift (imm : BitVec 14) : Bool := imm.toNat < 64
/-- A lane word of row (`c`, `o`) that passes every check of R66 with 128 vector registers. -/
def wfLane (c o : Nat) (w : LaneW) : Bool := Machine.laneCheck 128 c o w == none

/-- Well-formedness of an instruction. -/
def Instr.wf : Instr → Bool
  | .add d _ _ | .sub d _ _ | .mul d _ _ | .mulhI d _ _ | .mulhN d _ _ | .divI d _ _ | .divN d _ _
  | .remI d _ _ | .remN d _ _ | .and d _ _ | .or d _ _ | .xor d _ _ | .shl d _ _ | .shr d _ _ | .sar d _ _
  | .minI d _ _ | .minN d _ _ | .maxI d _ _ | .maxN d _ _ | .sel d _ _ _ | .mov d _ | .addi d _ _ | .andi d _ _
  | .ori d _ _ | .xori d _ _ | .movi d _ | .movh d _ | .ldk d _ | .sld d _ _ _ _ | .ffr d _ | .await d _ _
  | .gstate d _ _ => wfDst d
  | .rdsr d n => wfDst d && (Machine.srInfo n.toNat).isSome
  | .wrsr _ n => [Machine.Lvl.S, .H].any fun l => !Machine.srBad l true n.toNat
  | .cmpI d _ _ cc | .cmpN d _ _ cc => wfDst d && wfCond cc
  | .shli d _ imm | .shri d _ imm | .sari d _ imm => wfDst d && wfShift imm
  | .br sc _ | .bz sc _ _ | .bnz sc _ _ | .call sc _ | .callReg sc _ | .ret sc | .loop sc _ _ | .loopi sc _ _
  | .next sc _ _ => wfScope sc
  | .bar sc => sc == 2 || sc == 3
  | .signalSet _ _ sc | .signalAdd _ _ sc => sc == 5 || sc == 6
  | .icp sec _ _ => sec.toNat < 5
  | .satom d _ _ op _ _ _ => op.toNat < 12 && (op != 9 || (d.toNat % 2 == 0 && d.toNat ≤ 60))
  | .swaita _ _ _ sz cc _ => 2 ≤ sz.toNat && wfCond cc
  | .phase sc k => [2, 3, 5, 6].contains sc.toNat && k != 0
  | .waitt tl _ => tl != 3
  | .down _ | .downReg _ | .downv _ _ _ | .downvReg _ _ _ | .endW | .halt | .raise _ _ _ _ | .region | .yield | .nop
  | .trap _ | .run _ | .bind _ _ | .unbind _ | .draw _ | .undraw _ | .sst _ _ _ _ _ | .seal | .waitb _ | .waitany _
  | .waitall _ | .tagclr _ | .rwmode _ | .flushw | .gset _ _ _ | .resumePr _ | .resumeRg _ | .abort | .rules _
  | .fctl _ => true
  | .laneAdd w => wfLane 0 0x01 w
  | .laneSub w => wfLane 0 0x02 w
  | .laneMul w => wfLane 0 0x03 w
  | .mulh w => wfLane 0 0x04 w
  | .mad w => wfLane 0 0x05 w
  | .adds w => wfLane 0 0x06 w
  | .subs w => wfLane 0 0x07 w
  | .div w => wfLane 0 0x08 w
  | .rem w => wfLane 0 0x09 w
  | .laneAnd w => wfLane 0 0x0A w
  | .laneOr w => wfLane 0 0x0B w
  | .laneXor w => wfLane 0 0x0C w
  | .not w => wfLane 0 0x0D w
  | .lop3 w => wfLane 0 0x0E w
  | .laneShl w => wfLane 0 0x0F w
  | .laneShr w => wfLane 0 0x10 w
  | .laneSar w => wfLane 0 0x11 w
  | .rot w => wfLane 0 0x12 w
  | .laneMin w => wfLane 0 0x13 w
  | .laneMax w => wfLane 0 0x14 w
  | .abs w => wfLane 0 0x15 w
  | .neg w => wfLane 0 0x16 w
  | .clz w => wfLane 0 0x17 w
  | .popc w => wfLane 0 0x18 w
  | .brev w => wfLane 0 0x19 w
  | .bext w => wfLane 0 0x1A w
  | .bins w => wfLane 0 0x1B w
  | .laneSel w => wfLane 0 0x1C w
  | .laneCmp w => wfLane 0 0x1D w
  | .fadd w => wfLane 0 0x20 w
  | .fsub w => wfLane 0 0x21 w
  | .fmul w => wfLane 0 0x22 w
  | .fma w => wfLane 0 0x23 w
  | .fmin w => wfLane 0 0x24 w
  | .fmax w => wfLane 0 0x25 w
  | .fabs w => wfLane 0 0x26 w
  | .fneg w => wfLane 0 0x27 w
  | .fsgn w => wfLane 0 0x28 w
  | .fdiv w => wfLane 0 0x29 w
  | .frcp w => wfLane 0 0x2A w
  | .frsq w => wfLane 0 0x2B w
  | .fsqrt w => wfLane 0 0x2C w
  | .fexp2 w => wfLane 0 0x2D w
  | .flog2 w => wfLane 0 0x2E w
  | .fsinp w => wfLane 0 0x2F w
  | .fcosp w => wfLane 0 0x30 w
  | .ftanh w => wfLane 0 0x31 w
  | .frnd w => wfLane 0 0x32 w
  | .fcmp w => wfLane 0 0x33 w
  | .fclass w => wfLane 0 0x34 w
  | .cvt w => wfLane 0 0x38 w
  | .pack w => wfLane 0 0x39 w
  | .unpack w => wfLane 0 0x3A w
  | .laneMov w => wfLane 0 0x40 w
  | .laneMovi w => wfLane 0 0x41 w
  | .movs w => wfLane 0 0x42 w
  | .laneid w => wfLane 0 0x43 w
  | .shfl w => wfLane 0 0x44 w
  | .bcast w => wfLane 0 0x45 w
  | .redc w => wfLane 0 0x48 w
  | .scan w => wfLane 0 0x49 w
  | .vote w => wfLane 0 0x4A w
  | .laneRaise w => wfLane 0 0x4B w
  | .qand w => wfLane 0 0x50 w
  | .qor w => wfLane 0 0x51 w
  | .qxor w => wfLane 0 0x52 w
  | .qnot w => wfLane 0 0x53 w
  | .qmov w => wfLane 0 0x54 w
  | .qpop w => wfLane 0 0x55 w
  | .qff w => wfLane 0 0x56 w
  | .ld w => wfLane 1 0x01 w
  | .st w => wfLane 1 0x02 w
  | .lds w => wfLane 1 0x03 w
  | .sts w => wfLane 1 0x04 w
  | .atom w => wfLane 1 0x05 w
  | .atoms w => wfLane 1 0x06 w
  | .prf w => wfLane 1 0x07 w
  | .sclaim w => wfLane 2 0x01 w
  | .srel w => wfLane 2 0x02 w
  | .ldslot w => wfLane 2 0x03 w
  | .stslot w => wfLane 2 0x04 w
  | .trans w => wfLane 2 0x05 w
  | .scale w => wfLane 2 0x06 w
  | .ldw w => wfLane 2 0x07 w
  | .mma w => wfLane 2 0x08 w
  | .aclaim w => wfLane 2 0x09 w
  | .arel w => wfLane 2 0x0A w
  | .aload w => wfLane 2 0x0B w
  | .adrainSp w => wfLane 2 0x0C w && w.mod.toNat % 2 == 0
  | .adrainReg w => wfLane 2 0x0C w && w.mod.toNat % 2 == 1
  | .tblw w => wfLane 2 0x0D w
  | .brLn w => wfLane 3 0x01 w
  | .join w => wfLane 3 0x02 w
  | .lend w => wfLane 3 0x03 w
  | .longLatencyComplete _ _ | .waitComplete _ | .swaitaComplete _ | .awaitComplete _ | .barComplete _
  | .signalWrite _ | .queuedBlocksDrained _ | .linkRoom _ | .drawGrant _ | .claimGrant _ _ _ | .bindComplete _
  | .tblwGenerationFree _ _ _ _ | .matrixIssue _ _ _ _ | .mmaRowEntry _ _ _ _ _ | .commandRetire _ _ _ _
  | .laneBlockStart _ _ _ | .fragmentRotation _ _ _ | .receiptTake _ | .pitchFinish _ _ | .notifyRecord _ _
  | .entryConsume _ _ | .chitStart _ _ _ | .chitStep _ _ _ | .chitComplete _ _ _ | .replayServiced _ _
  | .replayDeclined _ | .replayNoframe _ | .asidkill _ | .tinval _ _ | .pageTableStorePerform _
  | .l1Invalidation _ _ | .hostSnoop _ _ | .hostRequest _ | .remoteTransferArrival _ _ _ _ _
  | .footfallThreshold _ _ | .wakeWrite _ _ _ _ | .wake | .poolAging _ | .dispatch | .pitchPlace _
  | .placeWaitExpiry _ | .scriptResume _ | .nodeComplete _ | .drawPoolChange _ _ | .porterStage _ _
  | .porterSwap _ _ | .porterSpill _ _ | .porterUnstage _ _ | .porterKill _ _ | .rwaysWrite _ _
  | .pmaskWrite _ _ _ _ | .utilityInterval _ _ | .partitionReset _ | .deviceReset | .scrub _ | .eccError _ _
  | .linkFail _ _ _ _ | .setStage2Entry _ _ _ | .setTroot _ _ _ | .assignFrame _ _ | .setHostRange _ _ _ _
  | .checkCodeObject _ _ | .stageUpdate _ _ | .commitUpdate _ | .retireCore _ | .attest _ _ _
  | .registerCodeKey _ _ | .registerWrite _ _ | .writePerform _ | .l1Eviction _ _ | .directoryEviction _
  | .coreGating _ | .cacheChipletGating _ _ | .l2WayRetire _ _ _ | .hbmRowRepair _ _ => true

end Sys2Proof
end

