-- ==== Sys2Proof/Decode.lean ====
section
/-!
DEFINITION. The encoding tables (R46 to R64) both ways: words to instructions, total on any bytes and rejecting by
name, and instructions to words. Codes that R65 judges (scopes, conditions, registers) stay raw fields here.
-/
namespace Sys2Proof

/-- Why bytes are no instruction. -/
inductive Reject where
  /-- Neither 4 nor 12 bytes. -/
  | length
  /-- Unassigned MAJOR, or CLASS and OP pair (R66, 0x01). -/
  | unassigned
  /-- A reserved bit is set, or a reserved sub-code given, where the row of the table has neither (R66, 0x03 to 0x06). -/
  | reserved
  deriving DecidableEq, Repr

/-- An encoding field as a bit vector. -/
def fld (n w lo : Nat) : BitVec n := BitVec.ofNat n (w / 2 ^ lo)

/-- Control word of a control instruction (R47, R58, R60); 0, which is no instruction, for the others. -/
def encodeControl : Instr → Nat
  | .add d a b => 0x04000000 + d.toNat * 0x100000 + a.toNat * 0x4000 + b.toNat * 0x100
  | .sub d a b => 0x04000001 + d.toNat * 0x100000 + a.toNat * 0x4000 + b.toNat * 0x100
  | .mul d a b => 0x04000002 + d.toNat * 0x100000 + a.toNat * 0x4000 + b.toNat * 0x100
  | .mulhI d a b => 0x04000003 + d.toNat * 0x100000 + a.toNat * 0x4000 + b.toNat * 0x100
  | .mulhN d a b => 0x04000004 + d.toNat * 0x100000 + a.toNat * 0x4000 + b.toNat * 0x100
  | .divI d a b => 0x04000005 + d.toNat * 0x100000 + a.toNat * 0x4000 + b.toNat * 0x100
  | .divN d a b => 0x04000006 + d.toNat * 0x100000 + a.toNat * 0x4000 + b.toNat * 0x100
  | .remI d a b => 0x04000007 + d.toNat * 0x100000 + a.toNat * 0x4000 + b.toNat * 0x100
  | .remN d a b => 0x04000008 + d.toNat * 0x100000 + a.toNat * 0x4000 + b.toNat * 0x100
  | .and d a b => 0x04000009 + d.toNat * 0x100000 + a.toNat * 0x4000 + b.toNat * 0x100
  | .or d a b => 0x0400000A + d.toNat * 0x100000 + a.toNat * 0x4000 + b.toNat * 0x100
  | .xor d a b => 0x0400000B + d.toNat * 0x100000 + a.toNat * 0x4000 + b.toNat * 0x100
  | .shl d a b => 0x0400000C + d.toNat * 0x100000 + a.toNat * 0x4000 + b.toNat * 0x100
  | .shr d a b => 0x0400000D + d.toNat * 0x100000 + a.toNat * 0x4000 + b.toNat * 0x100
  | .sar d a b => 0x0400000E + d.toNat * 0x100000 + a.toNat * 0x4000 + b.toNat * 0x100
  | .mov d a => 0x0400000F + d.toNat * 0x100000 + a.toNat * 0x4000
  | .minI d a b => 0x08000000 + d.toNat * 0x100000 + a.toNat * 0x4000 + b.toNat * 0x100
  | .minN d a b => 0x08000001 + d.toNat * 0x100000 + a.toNat * 0x4000 + b.toNat * 0x100
  | .maxI d a b => 0x08000002 + d.toNat * 0x100000 + a.toNat * 0x4000 + b.toNat * 0x100
  | .maxN d a b => 0x08000003 + d.toNat * 0x100000 + a.toNat * 0x4000 + b.toNat * 0x100
  | .cmpI d a b cc => 0x0C000000 + d.toNat * 0x100000 + a.toNat * 0x4000 + b.toNat * 0x100 + cc.toNat
  | .cmpN d a b cc => 0x0C000008 + d.toNat * 0x100000 + a.toNat * 0x4000 + b.toNat * 0x100 + cc.toNat
  | .sel d c a b => 0x10000000 + d.toNat * 0x100000 + c.toNat * 0x4000 + a.toNat * 0x100 + b.toNat * 0x4
  | .addi d a imm => 0x14000000 + d.toNat * 0x100000 + a.toNat * 0x4000 + imm.toNat
  | .andi d a imm => 0x18000000 + d.toNat * 0x100000 + a.toNat * 0x4000 + imm.toNat
  | .ori d a imm => 0x1C000000 + d.toNat * 0x100000 + a.toNat * 0x4000 + imm.toNat
  | .xori d a imm => 0x20000000 + d.toNat * 0x100000 + a.toNat * 0x4000 + imm.toNat
  | .shli d a imm => 0x24000000 + d.toNat * 0x100000 + a.toNat * 0x4000 + imm.toNat
  | .shri d a imm => 0x28000000 + d.toNat * 0x100000 + a.toNat * 0x4000 + imm.toNat
  | .sari d a imm => 0x2C000000 + d.toNat * 0x100000 + a.toNat * 0x4000 + imm.toNat
  | .movi d imm => 0x30000000 + d.toNat * 0x100000 + imm.toNat
  | .movh d imm => 0x34000000 + d.toNat * 0x100000 + imm.toNat
  | .ldk d k => 0x38000000 + d.toNat * 0x100000 + k.toNat
  | .rdsr d n => 0x3C000000 + d.toNat * 0x100000 + n.toNat
  | .wrsr d n => 0x40000000 + d.toNat * 0x100000 + n.toNat
  | .br sc off => 0x44000000 + sc.toNat * 0x800000 + off.toNat
  | .bz sc a off => 0x44100000 + sc.toNat * 0x800000 + a.toNat * 0x4000 + off.toNat
  | .bnz sc a off => 0x44200000 + sc.toNat * 0x800000 + a.toNat * 0x4000 + off.toNat
  | .call sc off => 0x44300000 + sc.toNat * 0x800000 + off.toNat
  | .callReg sc a => 0x44400000 + sc.toNat * 0x800000 + a.toNat * 0x4000
  | .ret sc => 0x44500000 + sc.toNat * 0x800000
  | .loop sc n a => 0x48000000 + sc.toNat * 0x800000 + n.toNat * 0x100000 + a.toNat * 0x4000
  | .loopi sc n t => 0x4C000000 + sc.toNat * 0x800000 + n.toNat * 0x100000 + t.toNat
  | .next sc n off => 0x50000000 + sc.toNat * 0x800000 + n.toNat * 0x100000 + off.toNat
  | .down off => 0x54000000 + off.toNat
  | .downReg r => 0x54002000 + r.toNat * 0x80
  | .downv a b off => 0x58000000 + a.toNat * 0x100000 + b.toNat * 0x4000 + off.toNat
  | .downvReg a b r => 0x58002000 + a.toNat * 0x100000 + b.toNat * 0x4000 + r.toNat * 0x80
  | .endW => 0x5C000000
  | .halt => 0x60000000
  | .raise n a la fn => 0x64000000 + n.toNat * 0x100000 + a.toNat * 0x4000 + la.toNat * 0x10 + fn.toNat
  | .await d n la => 0x68000000 + d.toNat * 0x100000 + n.toNat * 0x4000 + la.toNat * 0x10
  | .bar sc => 0x6C000000 + sc.toNat * 0x800000
  | .signalSet a b sc => 0x70000000 + a.toNat * 0x4000 + b.toNat * 0x100 + sc.toNat
  | .signalAdd a b sc => 0x70000008 + a.toNat * 0x4000 + b.toNat * 0x100 + sc.toNat
  | .region => 0x74000000
  | .yield => 0x78000000
  | .nop => 0x7C000000
  | .trap imm => 0x80000000 + imm.toNat
  | .icp sec a n => 0x84000000 + sec.toNat * 0x800000 + a.toNat * 0x4000 + n.toNat
  | .run off => 0x88000000 + off.toNat
  | .bind n a => 0x8C000000 + n.toNat * 0x100000 + a.toNat * 0x4000
  | .unbind n => 0x90000000 + n.toNat * 0x100000
  | .draw u => 0x94000000 + u.toNat
  | .undraw u => 0x98000000 + u.toNat
  | .sld d b la sz off => 0x9C000000 + d.toNat * 0x100000 + b.toNat * 0x4000 + la.toNat * 0x400 + sz.toNat * 0x100 + off.toNat
  | .sst d b la sz off => 0xA0000000 + d.toNat * 0x100000 + b.toNat * 0x4000 + la.toNat * 0x400 + sz.toNat * 0x100 + off.toNat
  | .satom d a la op ord sc w => 0xA4000000 + d.toNat * 0x100000 + a.toNat * 0x4000 + la.toNat * 0x400 + op.toNat * 0x40 + ord.toNat * 0x10 + sc.toNat * 0x4 + w.toNat * 0x2
  | .swaita b a la sz cc n => 0xA8000000 + b.toNat * 0x100000 + a.toNat * 0x4000 + la.toNat * 0x400 + sz.toNat * 0x100 + cc.toNat * 0x20 + n.toNat * 0x10
  | .phase sc k => 0xAC000000 + sc.toNat * 0x800000 + k.toNat * 0x200000
  | .seal => 0xB0000000
  | .waitb imm => 0xB4000000 + imm.toNat
  | .waitt tl a => 0xB8000000 + tl.toNat * 0x1000000 + a.toNat * 0x4000
  | .waitany a => 0xBC000000 + a.toNat * 0x4000
  | .waitall a => 0xC0000000 + a.toNat * 0x4000
  | .ffr d a => 0xC4000000 + d.toNat * 0x100000 + a.toNat * 0x4000
  | .tagclr a => 0xC8000000 + a.toNat * 0x4000
  | .rwmode k => 0xCC000000 + k.toNat
  | .flushw => 0xD0000000
  | .gstate d a sel => 0xD4000000 + d.toNat * 0x100000 + a.toNat * 0x4000 + sel.toNat
  | .gset b a sel => 0xD8000000 + b.toNat * 0x100000 + a.toNat * 0x4000 + sel.toNat
  | .resumePr a => 0xDC000000 + a.toNat * 0x4000
  | .resumeRg a => 0xDD000000 + a.toNat * 0x4000
  | .abort => 0xE0000000
  | .rules a => 0xE4000000 + a.toNat * 0x4000
  | .fctl a => 0xE8000000 + a.toNat * 0x4000
  | _ => 0

/-- CLASS, OP and parcel fields of a lane word (R61 to R64); none for the other instructions. -/
def laneCode : Instr → Option (Nat × Nat × LaneW)
  | .laneAdd w => some (0, 0x01, w)
  | .laneSub w => some (0, 0x02, w)
  | .laneMul w => some (0, 0x03, w)
  | .mulh w => some (0, 0x04, w)
  | .mad w => some (0, 0x05, w)
  | .adds w => some (0, 0x06, w)
  | .subs w => some (0, 0x07, w)
  | .div w => some (0, 0x08, w)
  | .rem w => some (0, 0x09, w)
  | .laneAnd w => some (0, 0x0A, w)
  | .laneOr w => some (0, 0x0B, w)
  | .laneXor w => some (0, 0x0C, w)
  | .not w => some (0, 0x0D, w)
  | .lop3 w => some (0, 0x0E, w)
  | .laneShl w => some (0, 0x0F, w)
  | .laneShr w => some (0, 0x10, w)
  | .laneSar w => some (0, 0x11, w)
  | .rot w => some (0, 0x12, w)
  | .laneMin w => some (0, 0x13, w)
  | .laneMax w => some (0, 0x14, w)
  | .abs w => some (0, 0x15, w)
  | .neg w => some (0, 0x16, w)
  | .clz w => some (0, 0x17, w)
  | .popc w => some (0, 0x18, w)
  | .brev w => some (0, 0x19, w)
  | .bext w => some (0, 0x1A, w)
  | .bins w => some (0, 0x1B, w)
  | .laneSel w => some (0, 0x1C, w)
  | .laneCmp w => some (0, 0x1D, w)
  | .fadd w => some (0, 0x20, w)
  | .fsub w => some (0, 0x21, w)
  | .fmul w => some (0, 0x22, w)
  | .fma w => some (0, 0x23, w)
  | .fmin w => some (0, 0x24, w)
  | .fmax w => some (0, 0x25, w)
  | .fabs w => some (0, 0x26, w)
  | .fneg w => some (0, 0x27, w)
  | .fsgn w => some (0, 0x28, w)
  | .fdiv w => some (0, 0x29, w)
  | .frcp w => some (0, 0x2A, w)
  | .frsq w => some (0, 0x2B, w)
  | .fsqrt w => some (0, 0x2C, w)
  | .fexp2 w => some (0, 0x2D, w)
  | .flog2 w => some (0, 0x2E, w)
  | .fsinp w => some (0, 0x2F, w)
  | .fcosp w => some (0, 0x30, w)
  | .ftanh w => some (0, 0x31, w)
  | .frnd w => some (0, 0x32, w)
  | .fcmp w => some (0, 0x33, w)
  | .fclass w => some (0, 0x34, w)
  | .cvt w => some (0, 0x38, w)
  | .pack w => some (0, 0x39, w)
  | .unpack w => some (0, 0x3A, w)
  | .laneMov w => some (0, 0x40, w)
  | .laneMovi w => some (0, 0x41, w)
  | .movs w => some (0, 0x42, w)
  | .laneid w => some (0, 0x43, w)
  | .shfl w => some (0, 0x44, w)
  | .bcast w => some (0, 0x45, w)
  | .redc w => some (0, 0x48, w)
  | .scan w => some (0, 0x49, w)
  | .vote w => some (0, 0x4A, w)
  | .laneRaise w => some (0, 0x4B, w)
  | .qand w => some (0, 0x50, w)
  | .qor w => some (0, 0x51, w)
  | .qxor w => some (0, 0x52, w)
  | .qnot w => some (0, 0x53, w)
  | .qmov w => some (0, 0x54, w)
  | .qpop w => some (0, 0x55, w)
  | .qff w => some (0, 0x56, w)
  | .ld w => some (1, 0x01, w)
  | .st w => some (1, 0x02, w)
  | .lds w => some (1, 0x03, w)
  | .sts w => some (1, 0x04, w)
  | .atom w => some (1, 0x05, w)
  | .atoms w => some (1, 0x06, w)
  | .prf w => some (1, 0x07, w)
  | .sclaim w => some (2, 0x01, w)
  | .srel w => some (2, 0x02, w)
  | .ldslot w => some (2, 0x03, w)
  | .stslot w => some (2, 0x04, w)
  | .trans w => some (2, 0x05, w)
  | .scale w => some (2, 0x06, w)
  | .ldw w => some (2, 0x07, w)
  | .mma w => some (2, 0x08, w)
  | .aclaim w => some (2, 0x09, w)
  | .arel w => some (2, 0x0A, w)
  | .aload w => some (2, 0x0B, w)
  | .adrainSp w => some (2, 0x0C, w)
  | .adrainReg w => some (2, 0x0C, w)
  | .tblw w => some (2, 0x0D, w)
  | .brLn w => some (3, 0x01, w)
  | .join w => some (3, 0x02, w)
  | .lend w => some (3, 0x03, w)
  | _ => none

/-- The row of the lane-word map with CLASS `c` and OP `o` (R61 to R64); bit 0 of MOD chooses between the two forms
of ADRAIN (R233, R234). -/
def laneRow (c o : Nat) (w : LaneW) : Option Instr :=
  match c, o with
  | 0, 0x01 => some (.laneAdd w)
  | 0, 0x02 => some (.laneSub w)
  | 0, 0x03 => some (.laneMul w)
  | 0, 0x04 => some (.mulh w)
  | 0, 0x05 => some (.mad w)
  | 0, 0x06 => some (.adds w)
  | 0, 0x07 => some (.subs w)
  | 0, 0x08 => some (.div w)
  | 0, 0x09 => some (.rem w)
  | 0, 0x0A => some (.laneAnd w)
  | 0, 0x0B => some (.laneOr w)
  | 0, 0x0C => some (.laneXor w)
  | 0, 0x0D => some (.not w)
  | 0, 0x0E => some (.lop3 w)
  | 0, 0x0F => some (.laneShl w)
  | 0, 0x10 => some (.laneShr w)
  | 0, 0x11 => some (.laneSar w)
  | 0, 0x12 => some (.rot w)
  | 0, 0x13 => some (.laneMin w)
  | 0, 0x14 => some (.laneMax w)
  | 0, 0x15 => some (.abs w)
  | 0, 0x16 => some (.neg w)
  | 0, 0x17 => some (.clz w)
  | 0, 0x18 => some (.popc w)
  | 0, 0x19 => some (.brev w)
  | 0, 0x1A => some (.bext w)
  | 0, 0x1B => some (.bins w)
  | 0, 0x1C => some (.laneSel w)
  | 0, 0x1D => some (.laneCmp w)
  | 0, 0x20 => some (.fadd w)
  | 0, 0x21 => some (.fsub w)
  | 0, 0x22 => some (.fmul w)
  | 0, 0x23 => some (.fma w)
  | 0, 0x24 => some (.fmin w)
  | 0, 0x25 => some (.fmax w)
  | 0, 0x26 => some (.fabs w)
  | 0, 0x27 => some (.fneg w)
  | 0, 0x28 => some (.fsgn w)
  | 0, 0x29 => some (.fdiv w)
  | 0, 0x2A => some (.frcp w)
  | 0, 0x2B => some (.frsq w)
  | 0, 0x2C => some (.fsqrt w)
  | 0, 0x2D => some (.fexp2 w)
  | 0, 0x2E => some (.flog2 w)
  | 0, 0x2F => some (.fsinp w)
  | 0, 0x30 => some (.fcosp w)
  | 0, 0x31 => some (.ftanh w)
  | 0, 0x32 => some (.frnd w)
  | 0, 0x33 => some (.fcmp w)
  | 0, 0x34 => some (.fclass w)
  | 0, 0x38 => some (.cvt w)
  | 0, 0x39 => some (.pack w)
  | 0, 0x3A => some (.unpack w)
  | 0, 0x40 => some (.laneMov w)
  | 0, 0x41 => some (.laneMovi w)
  | 0, 0x42 => some (.movs w)
  | 0, 0x43 => some (.laneid w)
  | 0, 0x44 => some (.shfl w)
  | 0, 0x45 => some (.bcast w)
  | 0, 0x48 => some (.redc w)
  | 0, 0x49 => some (.scan w)
  | 0, 0x4A => some (.vote w)
  | 0, 0x4B => some (.laneRaise w)
  | 0, 0x50 => some (.qand w)
  | 0, 0x51 => some (.qor w)
  | 0, 0x52 => some (.qxor w)
  | 0, 0x53 => some (.qnot w)
  | 0, 0x54 => some (.qmov w)
  | 0, 0x55 => some (.qpop w)
  | 0, 0x56 => some (.qff w)
  | 1, 0x01 => some (.ld w)
  | 1, 0x02 => some (.st w)
  | 1, 0x03 => some (.lds w)
  | 1, 0x04 => some (.sts w)
  | 1, 0x05 => some (.atom w)
  | 1, 0x06 => some (.atoms w)
  | 1, 0x07 => some (.prf w)
  | 2, 0x01 => some (.sclaim w)
  | 2, 0x02 => some (.srel w)
  | 2, 0x03 => some (.ldslot w)
  | 2, 0x04 => some (.stslot w)
  | 2, 0x05 => some (.trans w)
  | 2, 0x06 => some (.scale w)
  | 2, 0x07 => some (.ldw w)
  | 2, 0x08 => some (.mma w)
  | 2, 0x09 => some (.aclaim w)
  | 2, 0x0A => some (.arel w)
  | 2, 0x0B => some (.aload w)
  | 2, 0x0C => some (if w.mod.toNat % 2 = 0 then .adrainSp w else .adrainReg w)
  | 2, 0x0D => some (.tblw w)
  | 3, 0x01 => some (.brLn w)
  | 3, 0x02 => some (.join w)
  | 3, 0x03 => some (.lend w)
  | _, _ => none

/-- The parcels of a lane word (R49), P0 in the low 32 bits. -/
def packLane (c o : Nat) (w : LaneW) : Nat :=
  o + w.la.toNat * 2 ^ 8 + w.guard.toNat * 2 ^ 12 + w.gneg.toNat * 2 ^ 15 + w.vd.toNat * 2 ^ 16 + w.va.toNat * 2 ^ 23 +
  c * 2 ^ 30 + w.vb.toNat * 2 ^ 32 + w.vc.toNat * 2 ^ 39 + w.ty.toNat * 2 ^ 46 + w.fmt.toNat * 2 ^ 50 +
  w.rnd.toNat * 2 ^ 55 + w.sat.toNat * 2 ^ 58 + w.bsc.toNat * 2 ^ 59 + w.mod.toNat * 2 ^ 60 + w.p2.toNat * 2 ^ 64

/-- The parcel fields of a lane word (R49). -/
def unpackLane (n : Nat) : LaneW :=
  { la := fld 4 n 8, guard := fld 3 n 12, gneg := natBit n 15, vd := fld 7 n 16, va := fld 7 n 23,
    vb := fld 7 n 32, vc := fld 7 n 39, ty := fld 4 n 46, fmt := fld 5 n 50, rnd := fld 3 n 55, sat := natBit n 58,
    bsc := natBit n 59, mod := fld 4 n 60, p2 := fld 32 n 64 }

/-- The lane word in the low 96 bits of `n`. -/
def decodeLane (n : Nat) : Except Reject Instr :=
  match laneRow (bits n 31 30) (bits n 7 0) (unpackLane n) with
  | some i => .ok i
  | none => .error .unassigned

/-- Accept `i` when its own encoding is the word: every bit that its row does not name has the row's value. -/
def exactly (w : Nat) (i : Instr) : Except Reject Instr :=
  if encodeControl i = w then .ok i else .error .reserved

/-- The row of the control-word map that a word's MAJOR and sub-codes select, with its fields (R47, R58, R60). -/
def controlRow (w : Nat) : Option Instr :=
  match bits w 31 26 with
  | 0x01 =>
    match bits w 3 0 with
    | 0 => some (.add (fld 6 w 20) (fld 6 w 14) (fld 6 w 8))
    | 1 => some (.sub (fld 6 w 20) (fld 6 w 14) (fld 6 w 8))
    | 2 => some (.mul (fld 6 w 20) (fld 6 w 14) (fld 6 w 8))
    | 3 => some (.mulhI (fld 6 w 20) (fld 6 w 14) (fld 6 w 8))
    | 4 => some (.mulhN (fld 6 w 20) (fld 6 w 14) (fld 6 w 8))
    | 5 => some (.divI (fld 6 w 20) (fld 6 w 14) (fld 6 w 8))
    | 6 => some (.divN (fld 6 w 20) (fld 6 w 14) (fld 6 w 8))
    | 7 => some (.remI (fld 6 w 20) (fld 6 w 14) (fld 6 w 8))
    | 8 => some (.remN (fld 6 w 20) (fld 6 w 14) (fld 6 w 8))
    | 9 => some (.and (fld 6 w 20) (fld 6 w 14) (fld 6 w 8))
    | 10 => some (.or (fld 6 w 20) (fld 6 w 14) (fld 6 w 8))
    | 11 => some (.xor (fld 6 w 20) (fld 6 w 14) (fld 6 w 8))
    | 12 => some (.shl (fld 6 w 20) (fld 6 w 14) (fld 6 w 8))
    | 13 => some (.shr (fld 6 w 20) (fld 6 w 14) (fld 6 w 8))
    | 14 => some (.sar (fld 6 w 20) (fld 6 w 14) (fld 6 w 8))
    | _ => some (.mov (fld 6 w 20) (fld 6 w 14))
  | 0x02 =>
    match bits w 3 0 with
    | 0 => some (.minI (fld 6 w 20) (fld 6 w 14) (fld 6 w 8))
    | 1 => some (.minN (fld 6 w 20) (fld 6 w 14) (fld 6 w 8))
    | 2 => some (.maxI (fld 6 w 20) (fld 6 w 14) (fld 6 w 8))
    | 3 => some (.maxN (fld 6 w 20) (fld 6 w 14) (fld 6 w 8))
    | _ => none
  | 0x03 =>
    match bits w 3 3 with
    | 0 => some (.cmpI (fld 6 w 20) (fld 6 w 14) (fld 6 w 8) (fld 3 w 0))
    | _ => some (.cmpN (fld 6 w 20) (fld 6 w 14) (fld 6 w 8) (fld 3 w 0))
  | 0x04 => some (.sel (fld 6 w 20) (fld 6 w 14) (fld 6 w 8) (fld 6 w 2))
  | 0x05 => some (.addi (fld 6 w 20) (fld 6 w 14) (fld 14 w 0))
  | 0x06 => some (.andi (fld 6 w 20) (fld 6 w 14) (fld 14 w 0))
  | 0x07 => some (.ori (fld 6 w 20) (fld 6 w 14) (fld 14 w 0))
  | 0x08 => some (.xori (fld 6 w 20) (fld 6 w 14) (fld 14 w 0))
  | 0x09 => some (.shli (fld 6 w 20) (fld 6 w 14) (fld 14 w 0))
  | 0x0A => some (.shri (fld 6 w 20) (fld 6 w 14) (fld 14 w 0))
  | 0x0B => some (.sari (fld 6 w 20) (fld 6 w 14) (fld 14 w 0))
  | 0x0C => some (.movi (fld 6 w 20) (fld 20 w 0))
  | 0x0D => some (.movh (fld 6 w 20) (fld 20 w 0))
  | 0x0E => some (.ldk (fld 6 w 20) (fld 20 w 0))
  | 0x0F => some (.rdsr (fld 6 w 20) (fld 10 w 0))
  | 0x10 => some (.wrsr (fld 6 w 20) (fld 10 w 0))
  | 0x11 =>
    match bits w 22 20 with
    | 0 => some (.br (fld 3 w 23) (fld 14 w 0))
    | 1 => some (.bz (fld 3 w 23) (fld 6 w 14) (fld 14 w 0))
    | 2 => some (.bnz (fld 3 w 23) (fld 6 w 14) (fld 14 w 0))
    | 3 => some (.call (fld 3 w 23) (fld 14 w 0))
    | 4 => some (.callReg (fld 3 w 23) (fld 6 w 14))
    | 5 => some (.ret (fld 3 w 23))
    | _ => none
  | 0x12 => some (.loop (fld 3 w 23) (fld 3 w 20) (fld 6 w 14))
  | 0x13 => some (.loopi (fld 3 w 23) (fld 3 w 20) (fld 9 w 0))
  | 0x14 => some (.next (fld 3 w 23) (fld 3 w 20) (fld 14 w 0))
  | 0x15 =>
    match bits w 13 13 with
    | 0 => some (.down (fld 13 w 0))
    | _ => some (.downReg (fld 6 w 7))
  | 0x16 =>
    match bits w 13 13 with
    | 0 => some (.downv (fld 6 w 20) (fld 6 w 14) (fld 13 w 0))
    | _ => some (.downvReg (fld 6 w 20) (fld 6 w 14) (fld 6 w 7))
  | 0x17 => some .endW
  | 0x18 => some .halt
  | 0x19 => some (.raise (fld 2 w 20) (fld 6 w 14) (fld 4 w 4) (fld 3 w 0))
  | 0x1A => some (.await (fld 6 w 20) (fld 2 w 14) (fld 4 w 4))
  | 0x1B => some (.bar (fld 3 w 23))
  | 0x1C =>
    match bits w 3 3 with
    | 0 => some (.signalSet (fld 6 w 14) (fld 6 w 8) (fld 3 w 0))
    | _ => some (.signalAdd (fld 6 w 14) (fld 6 w 8) (fld 3 w 0))
  | 0x1D => some .region
  | 0x1E => some .yield
  | 0x1F => some .nop
  | 0x20 => some (.trap (fld 20 w 0))
  | 0x21 => some (.icp (fld 3 w 23) (fld 6 w 14) (fld 8 w 0))
  | 0x22 => some (.run (fld 26 w 0))
  | 0x23 => some (.bind (fld 3 w 20) (fld 6 w 14))
  | 0x24 => some (.unbind (fld 3 w 20))
  | 0x25 => some (.draw (fld 11 w 0))
  | 0x26 => some (.undraw (fld 11 w 0))
  | 0x27 => some (.sld (fld 6 w 20) (fld 6 w 14) (fld 4 w 10) (fld 2 w 8) (fld 8 w 0))
  | 0x28 => some (.sst (fld 6 w 20) (fld 6 w 14) (fld 4 w 10) (fld 2 w 8) (fld 8 w 0))
  | 0x29 => some (.satom (fld 6 w 20) (fld 6 w 14) (fld 4 w 10) (fld 4 w 6) (fld 2 w 4) (fld 2 w 2) (fld 1 w 1))
  | 0x2A => some (.swaita (fld 6 w 20) (fld 6 w 14) (fld 4 w 10) (fld 2 w 8) (fld 3 w 5) (fld 1 w 4))
  | 0x2B => some (.phase (fld 3 w 23) (fld 2 w 21))
  | 0x2C => some .seal
  | 0x2D => some (.waitb (fld 20 w 0))
  | 0x2E => some (.waitt (fld 2 w 24) (fld 6 w 14))
  | 0x2F => some (.waitany (fld 6 w 14))
  | 0x30 => some (.waitall (fld 6 w 14))
  | 0x31 => some (.ffr (fld 6 w 20) (fld 6 w 14))
  | 0x32 => some (.tagclr (fld 6 w 14))
  | 0x33 => some (.rwmode (fld 1 w 0))
  | 0x34 => some .flushw
  | 0x35 => some (.gstate (fld 6 w 20) (fld 6 w 14) (fld 14 w 0))
  | 0x36 => some (.gset (fld 6 w 20) (fld 6 w 14) (fld 14 w 0))
  | 0x37 =>
    match bits w 25 24 with
    | 0 => some (.resumePr (fld 6 w 14))
    | 1 => some (.resumeRg (fld 6 w 14))
    | _ => none
  | 0x38 => some .abort
  | 0x39 => some (.rules (fld 6 w 14))
  | 0x3A => some (.fctl (fld 6 w 14))
  | _ => none

/-- The control word in the low 32 bits of `w`. -/
def decodeControl (w : Nat) : Except Reject Instr :=
  match controlRow w with
  | some i => exactly w i
  | none => .error .unassigned

/-- Bytes to an instruction: a control word in 4 bytes or a lane word in 12, little-endian (R46). -/
def decode (bs : List Byte) : Except Reject Instr :=
  if bs.length = 4 then decodeControl (ofBytes bs) else if bs.length = 12 then decodeLane (ofBytes bs) else .error .length

/-- The bytes of an instruction; events have none (R46). -/
def encode (i : Instr) : List Byte :=
  match laneCode i with
  | some (c, o, w) => toBytes 12 (packLane c o w)
  | none => if encodeControl i = 0 then [] else toBytes 4 (encodeControl i)

/-- The instruction whose bits, numbered as the opcode table numbers them, are `w`: the bytes as memory holds them,
lowest first, given to the decoder. A row of up to 32 bits is a control word, a longer one a lane word. -/
def decodeTableWord (nbits w : Nat) : Option Instr :=
  let k := if nbits ≤ 32 then 4 else 12
  match decode (toBytes k (w % 2 ^ nbits)) with
  | .ok i => some i
  | .error _ => none

end Sys2Proof
end

