-- ==== Sys2Proof/Machine/Cells.lean ====
section
/-!
DEFINITION. Sparse data by key. `Cells` is sorted by key, without repeats, and lists no entry equal to what an
unlisted key reads as, so equal contents are equal lists. `Assoc` holds the objects of the machine by name.
-/
namespace Sys2Proof.Machine

/-- Sparse data keyed by natural numbers; memory is `Cells Byte`, a list of `Host.Cell`. -/
abbrev Cells (α : Type) := List (Nat × α)

/-- What key `k` reads as, with `d` for an unlisted key. -/
def cget {α : Type} (d : α) : Cells α → Nat → α
  | [], _ => d
  | (i, v) :: m, k => if i = k then v else cget d m k

/-- Remove key `k`. -/
def cdel {α : Type} : Cells α → Nat → Cells α
  | [], _ => []
  | (i, v) :: m, k => if i = k then cdel m k else (i, v) :: cdel m k

/-- Put `v` at key `k` of sorted cells, whatever `v` is. -/
def cput {α : Type} : Cells α → Nat → α → Cells α
  | [], k, v => [(k, v)]
  | (i, u) :: m, k, v => if i < k then (i, u) :: cput m k v else if i = k then (k, v) :: m else (k, v) :: (i, u) :: m

/-- Write `v` at key `k`, keeping the canonical form: the default value is not listed. -/
def cset {α : Type} [DecidableEq α] (d : α) (m : Cells α) (k : Nat) (v : α) : Cells α :=
  if v = d then cdel m k else cput m k v

/-- Write consecutive keys from `k`. -/
def csetList {α : Type} [DecidableEq α] (d : α) : Cells α → Nat → List α → Cells α
  | m, _, [] => m
  | m, k, v :: vs => csetList d (cset d m k v) (k + 1) vs

/-- Read `n` consecutive keys from `k`. -/
def cgetList {α : Type} (d : α) (m : Cells α) (k : Nat) : Nat → List α
  | 0 => []
  | n + 1 => cget d m k :: cgetList d m (k + 1) n

/-- The canonical form: keys strictly rising, no entry equal to the default. -/
def cwf {α : Type} [DecidableEq α] (d : α) : Cells α → Bool
  | [] => true
  | [(_, v)] => decide (v ≠ d)
  | (i, v) :: (j, u) :: m => decide (v ≠ d) && decide (i < j) && cwf d ((j, u) :: m)

/-- Objects by name. -/
abbrev Assoc (κ α : Type) := List (κ × α)

def aget? {κ α : Type} [DecidableEq κ] : Assoc κ α → κ → Option α
  | [], _ => none
  | (i, v) :: m, k => if i = k then some v else aget? m k

/-- The object named `k`, or `d`. -/
def agetD {κ α : Type} [DecidableEq κ] (d : α) (m : Assoc κ α) (k : κ) : α := (aget? m k).getD d

/-- Replace the object named `k`, or add it at the end. -/
def aput {κ α : Type} [DecidableEq κ] : Assoc κ α → κ → α → Assoc κ α
  | [], k, v => [(k, v)]
  | (i, u) :: m, k, v => if i = k then (i, v) :: m else (i, u) :: aput m k v

def adel {κ α : Type} [DecidableEq κ] : Assoc κ α → κ → Assoc κ α
  | [], _ => []
  | (i, u) :: m, k => if i = k then adel m k else (i, u) :: adel m k

/-- Replace element `k` of a list, when there is one. -/
def lset {α : Type} : List α → Nat → α → List α
  | [], _, _ => []
  | _ :: l, 0, v => v :: l
  | u :: l, k + 1, v => u :: lset l k v

/-- Remove element `k` of a list, when there is one. -/
def ldel {α : Type} : List α → Nat → List α
  | [], _ => []
  | _ :: l, 0 => l
  | u :: l, k + 1 => u :: ldel l k

end Sys2Proof.Machine
end

