-- ==== Sys2Proof/Machine/State.lean ====
section
/-!
DEFINITION. The state of the machine as plain data: everything the spec names (INVENTORY.md, State), and the model's
own scheduling fields. Reset values are those of the rules cited; where the spec gives none, the log entry named.
-/
namespace Sys2Proof.Machine

/-- Memory: bytes by physical address (R359); an unlisted byte reads 0x00 (log entry 1). -/
abbrev Memory := Cells Byte

/-- Why the machine stops. -/
inductive Fault where
  /-- Raised by `step` alone: the boot of R429 rejected an image, so nothing of the machine runs until the next device
  reset; the host is still answered. Safe: the manual says the boot stops, and no state is invented. -/
  | bootStopped
  deriving DecidableEq, Repr

/-- Why an instruction has no meaning. -/
inductive Refusal where
  /-- Raised by an arm of `exec` that has no meaning yet. Safe: no state follows. -/
  | notModelled (mnemonic : String)
  deriving DecidableEq, Repr

/-- A workgroup's context, and a group of it. -/
structure WgId where
  c : Nat
  w : Nat
  deriving DecidableEq, Repr, Inhabited

structure GrpId where
  c : Nat
  w : Nat
  g : Nat
  deriving DecidableEq, Repr, Inhabited

/-- A register named by a word, for the dependences of R56. -/
inductive RegRef where
  | s (n : Nat) | v (n : Nat) | q (n : Nat) | w (n : Nat) | e (n : Nat) | lc (n : Nat)
  deriving DecidableEq, Repr

/-- An operand-log entry (R192, R304): operand `o` of lane `j` at key 32 o + j. -/
structure LogEntry where
  handle : Nat := 0
  word : Instr := .nop
  waddr : Nat := 0
  mask : Nat := 0
  ops : Cells Nat := []
  base : Nat := 0
  frag : Option Nat := none                          -- the fault fragment; none for a scalar word
  declined : Bool := false
  cancelled : Bool := false                          -- retranslated with no report of PAGE (R368)
  pageLanes : Nat := 0                               -- lanes whose cause is PAGE
  deriving DecidableEq, Repr, Inhabited

/-- The kind of an access (R363, R374). -/
inductive Acc4 where
  | read | write | atomic | fetch | bindOnly
  deriving DecidableEq, Repr, Inhabited

/-- Where an access lands: a physical address, whether its leaf is tracked and the page-table lines that the walk read, or
a byte of a reservation. -/
inductive Target where
  | mem (pa : Nat) (trk : Bool) (lines : List Nat)
  | sp (w : WgId) (off : Nat)
  deriving DecidableEq, Repr, Inhabited

/-- What an outstanding long-latency word still does when it completes (R98). -/
inductive OutKind where
  /-- An access that may still perform (R280): its kind, operands, size, when its address was known (R291), the lanes that
  have not performed and the values of those that have. -/
  | deferred (k : Acc4) (e : LogEntry) (n since : Nat) (ts : List (Nat × Target)) (vals : List (Nat × Nat))
  | done                                             -- nothing more
  | raise (tgt : Agent) (n : Nat)                    -- a contribution not yet awaited (R113)
  | heldRaise (tgt : Agent) (n : Nat)                -- one that a differing AWAIT holds (R115)
  | await (d n : Nat)                                -- AWAIT not yet complete (R114)
  | swaita (e : LogEntry)                            -- the condition does not hold yet (R129)
  | notify (id : Nat)                                -- a store to NOTIFY not yet recorded (R199)
  | tile (num : Nat)                                 -- a numbered tile word not yet retired (R223)
  | paged (handle : Nat)                             -- an access held for service (R302)
  deriving DecidableEq, Repr

/-- An outstanding long-latency word with the words of its window still to issue (R17, R56). -/
structure Outst where
  pc : Nat
  left : Nat
  kind : OutKind
  rd : List RegRef := []
  wr : List RegRef := []
  bytes : List (Bool × Nat × Nat) := []              -- scratchpad?, first byte, length (R57)
  deriving DecidableEq, Repr

/-- A receipt (R109). -/
structure Receipt where
  seq : BitVec 32 := 0
  off : BitVec 13 := 0
  stamp : Word := 0
  h0 : Word := 0
  h1 : Word := 0
  since : Nat := 0                                   -- when the newest read behind h0 and h1 returned (R291)
  bad : Bool := false                                -- an uncorrected error (R415)
  deriving DecidableEq, Repr, Inhabited

/-- A raise register (R26): empty when `mask` is empty. A lane contribution lists its lanes' values. -/
structure EReg where
  op : Nat := 0
  mask : List Nat := []
  vals : List (Nat × Word × Bool) := []              -- member or lane, value, NU mark
  lanes : Bool := false                              -- members of `vals` are lanes (R168)
  known : Nat := 0                                   -- when the newest read behind a contribution returned (R291)
  deriving DecidableEq, Repr, Inhabited

/-- What a differing AWAIT records (R115). -/
structure NonUni where
  x0 : Word
  x1 : Word
  mask : Nat
  notX0 : Nat
  deriving DecidableEq, Repr

/-- Run states of a control sequencer (R260). -/
inductive Run where
  | idle | running | waiting | stopped | halted | finished
  deriving DecidableEq, Repr, Inhabited

/-- A control sequencer (R259): grid, pitch, workgroup, group stream or handler bank (R306). -/
structure Seq where
  s : Cells Word := []                               -- s1.., unlisted reads 0 (R23)
  nu : Cells Bool := []                              -- NU marks (R25)
  rc : Receipt := {}                                 -- receipt being run; h0 and h1 (R24)
  e : Assoc Nat EReg := []                           -- e0..e3 (R26)
  nonuni : Option NonUni := none
  heldRaise : List (Agent × Nat) := []               -- raises held by R115
  lc : Cells (BitVec 32) := []                       -- lc0..lc7 (R27)
  pc : Nat := 0
  stack : List Word := []                            -- call stack, top first (R107)
  run : Run := .idle
  prior : Run := .idle                               -- run state before it was stopped (R138, R306)
  held : Option Instr := none                        -- the word a Waiting sequencer waits at (R99)
  atEnd : Bool := false                              -- an END or HALT waits for the long-latency words before it (R17)
  out : List Outst := []
  slip : Word := 0
  slipped : Bool := false                            -- the wait of the next word has been counted (R274)
  dbg : Bool := false                                -- MODE.DBG (R37)
  sent : Nat := 0                                    -- receipts sent on the outgoing link (R108)
  inq : List Receipt := []                           -- receipts waiting (R110)
  ended : Nat := 0                                   -- receipts of the incoming link ended (R259)
  barCount : Assoc Nat Nat := []                     -- barriers completed, by scope (R117)
  barAt : Option Nat := none                         -- the scope of the barrier waited at
  badRegs : List Nat := []                           -- scalar registers in error (R415)
  known : Cells Nat := []                            -- when the newest read behind s(n) returned (R291)
  vals : List Word := []                             -- operands that the word waited at read when it issued (R98)
  decided : Bool := false                            -- the condition of that word held at one instant (R133)
  blocked : Bool := false                            -- its next word could not issue yet (R99)
  viol : Option (Nat × Nat) := none                  -- a LAVIOL that waits: the word and the earlier one (R17, R299)
  deriving DecidableEq, Repr, Inhabited

/-- STATE of a window record (R31). -/
inductive WinSt where
  | unbound | bound | dropped
  deriving DecidableEq, Repr, Inhabited

/-- A base window with the covered run recorded beside it (R31). -/
structure Window where
  st : WinSt := .unbound
  perm : BitVec 3 := 0                               -- R, W, X from bit 2 down
  trk : Bool := false
  vbase : BitVec 57 := 0
  frame : Nat := 0                                   -- physical address of the start of the run
  start : Nat := 0                                   -- virtual address of the start of the run
  len : Nat := 0
  ff : Bool := false                                 -- footfall counted, and the home hint (R371)
  hv : Bool := false
  hdie : Nat := 0
  lines : List Nat := []                             -- page-table lines the translation came from
  since : Nat := 0                                   -- when its base was known (R291)
  deriving DecidableEq, Repr, Inhabited

/-- A lane-queue entry (R266). -/
structure LaneBlk where
  off : Nat := 0
  wins : List Window := []
  perm : Bool := false
  flush : Bool := false
  saddr : Nat := 0                                   -- address of the RUN (R148)
  bad : Bool := false                                -- uncorrected error (R415)
  deriving DecidableEq, Repr, Inhabited

/-- State of a fragment (R170, R174). -/
inductive FragSt where
  | runnable | waiting | asleep | converge
  deriving DecidableEq, Repr, Inhabited

/-- A fragment of the running lane block (R170). -/
structure Frag where
  fid : Nat := 0
  lanes : W32 := 0
  pc : Nat := 0
  level : Option Nat := none
  st : FragSt := .runnable
  split : Option Nat := none                         -- a fault fragment: the fragment it split from (R191)
  fault : Bool := false                              -- a whole fragment that faulted (R174)
  since : Nat := 0                                   -- clock when it took a slot (R178)
  slipped : Bool := false                            -- the wait of the next word has been counted (R274)
  viol : Option (Nat × Nat) := none                  -- as of a sequencer
  out : List Outst := []
  deriving DecidableEq, Repr, Inhabited

/-- A divergence level (R170). -/
structure Level where
  lid : Nat := 0
  join : Nat := 0
  lanes : W32 := 0
  arrived : W32 := 0
  parent : Option Nat := none
  deriving DecidableEq, Repr, Inhabited

/-- The record of a fault (R44). -/
structure FaultRec where
  cause : Nat := 0
  level : Nat := 0
  grp : Nat := 0
  lanes : Nat := 0
  waddr : Nat := 0
  info : Nat := 0
  rgn : Nat := 0
  tln : Nat := 0
  saddr : Nat := 0
  x0 : Nat := 0
  x1 : Nat := 0
  deriving DecidableEq, Repr, Inhabited

/-- What a deferred report is tied to (R434). -/
inductive RKey where
  | tile (num : Nat)
  | chit (batch : Nat) (te : Bool) (tag : Nat) (remote : Option Nat)
  deriving DecidableEq, Repr, Inhabited

/-- A deferred report with its snapshot o0 to o3 (R313). -/
structure Report where
  fr : FaultRec := {}
  snap : List Nat := []
  origins : List (Nat × Nat) := []                   -- TLM numbers and word addresses (R253)
  key : RKey := .tile 0
  order : Nat := 0                                   -- detection order across the groups (R135)
  deriving DecidableEq, Repr, Inhabited

/-- What a numbered tile word does, with the operands that travel with it (R217, R221). -/
inductive TileOp where
  | ldslot (m sh off valid : Nat)
  | stslot (m sh off : Nat)
  | trans (m : Nat)
  | scale (m : Nat) (col : Bool) (addr : Nat)
  | ldw (b m ct : Nat) (t : Bool) (cs : Option Nat)
  | mma (a m b ct valid : Nat) (na nb ow : Bool) (rs : Option Nat)
  | aload (a sh off rnd : Nat)
  | adrainSp (a sh off valid fmt rnd : Nat) (sat : Bool)
  | adrainReg (a row vd fmt rnd : Nat) (sat : Bool)
  | tblw (ct sh off : Nat)
  | rload (a b fmt rnd : Nat) (sat : Bool) (rows : Nat)   -- steps 2 and 3 of R247: T into a bank
  | untag (m : Nat)                                  -- R247: the slot is tagged none
  deriving DecidableEq, Repr, Inhabited

/-- Progress of a command of the matrix window (R222, R230, R235, R240): `issued` while a PAGE holds it. -/
inductive CmdSt where
  | undecided | decided | issued | drawWait | genWait | inArray | done
  deriving DecidableEq, Repr, Inhabited

/-- A numbered word as written: its number, address, operation and predecessors (R18). -/
structure Origin where
  num : Nat := 0
  waddr : Nat := 0
  op : TileOp := .trans 0
  pd : List Nat := []
  perm : Bool := false
  rgn : Nat := 0
  saddr : Nat := 0
  sva : Nat := 0                                     -- scalar operands that travel (R217, R313)
  sval : Nat := 0
  soff : Nat := 0
  deriving DecidableEq, Repr, Inhabited

/-- What the stage judges a bank by: loaded, format, N, and the slot it was loaded from while that is unchanged. -/
structure BankTag where
  loaded : Bool := false
  fmt : Nat := 0
  n : Nat := 0
  src : Option Nat := none
  deriving DecidableEq, Repr, Inhabited

/-- Tags and bank states as commands as written leave them (R241). -/
structure Pred where
  tags : Assoc Nat (Nat × Nat × Nat) := []           -- slot to FMT, RV, CV; absent: none
  banks : Assoc Nat BankTag := []
  deriving DecidableEq, Repr, Inhabited

/-- An accumulator tile (R33, R43): element (i, c) at key 64 i + c. -/
structure Acc where
  holder : Option Nat := none
  flags : Nat := 0
  el : Cells W32 := []
  bad : List Nat := []                               -- poisoned granules (R415)
  deriving DecidableEq, Repr, Inhabited

/-- A command of the matrix window: a word as written, or a replacement with its origins (R240, R246). -/
structure TileCmd where
  origins : List Origin := []
  move : Nat := 0                                    -- code of R244, 0 as written
  ops : List TileOp := []                            -- what it runs, whole and in this order
  st : CmdSt := .undecided
  slipped : Bool := false                            -- its wait to be decided has been counted (R274)
  dissolved : Nat := 0                               -- first number of the replacement it was an origin of (R245)
  gens : Assoc Nat Nat := []                         -- code-table generation latched at issue (R35)
  rs : List (List W32) := []                         -- row scales read at issue, by MMA (R230)
  bank : List Nat := []                              -- banks its rows carry while they are in the array (R229)
  cost : Nat := 0                                    -- draw cost while rows are in the array
  cursor : Nat := 0                                  -- first row that has not entered (R388)
  undo : Assoc Nat Acc := []                         -- tiles as they stood before its first row (R238, R417)
  flags : Nat := 0                                   -- conversion flags gathered for FFLAGS
  vals : List (Nat × W32) := []                      -- register results of ADRAIN (R234)
  report : Option Report := none                     -- failure not yet queued (R312)
  hold : Option Nat := none                          -- handle of a held PAGE (R238)
  deriving DecidableEq, Repr, Inhabited

/-- A group: scalar-stream resources, lane engine, matrix window (R259, R266, R379). -/
structure Group where
  v : Cells W32 := []                                -- vn of lane j at 32 n + j (R23)
  q : Cells W32 := []                                -- q1..q7 (R30)
  badV : List Nat := []                              -- vector registers in error (R415)
  badQ : List Nat := []
  setLanes : Cells Nat := []                         -- lanes of a register in error that GSET has written, as a mask (R415)
  knownV : Cells Nat := []                           -- when the newest read behind vn, or behind a mask, returned (R291)
  knownQ : Cells Nat := []
  floor : List Nat := []                             -- when its last acquire at .wg, .pt, .dv and .sy completed (R288)
  seen : Cells Nat := []                             -- line to when a phase that had touched it ended (R283)
  touch : Cells Nat := []                            -- line to the bytes of it that the phase has touched, as a mask (R285)
  win : Assoc Nat Window := []                       -- w0..w7 (R31)
  laneQ : List LaneBlk := []                         -- queued blocks (R266)
  blk : Option LaneBlk := none                       -- the running block
  frags : List Frag := []
  levels : List Level := []
  slots : List Nat := []                             -- fragments in slots (R176)
  spilled : List Nat := []                           -- runnable fragments without a slot, oldest spill first (R177)
  nextId : Nat := 0
  rotAt : Nat := 0                                   -- clock of the last rotation (R178)
  log : List LogEntry := []                          -- operand log (R192)
  reports : List Report := []                        -- held deferred reports, oldest first (R312)
  snap : Option Report := none                       -- the report whose handler runs (R313)
  cmds : List TileCmd := []                          -- matrix window (R221)
  lastNum : Nat := 0                                 -- last TLM number taken (R18)
  hist : List Origin := []                           -- words as written from the oldest undecided one on (R241)
  base : Option Pred := none                         -- state before the first of them (R241)
  laneWr : List (Nat × List (Bool × Nat × Nat)) := [] -- lane writes after a word's entry: scratchpad?, byte, length (R243)
  sealed : Nat := 0                                  -- SEALED (R131)
  bounds : List Nat := []                            -- bounds of batches 1.. (R207)
  fctl : Nat := 0                                    -- FCTL.DRND (R41)
  fflags : Nat := 0                                  -- FFLAGS (R42)
  rgn : BitVec 32 := 0                               -- RGN (R37)
  regionPc : Nat := 0                                -- region entry (R267)
  regionRc : Receipt := {}
  rwg : Bool := false                                -- RWG grant of the node record (R136)
  perm : Bool := false                               -- class N permission as it stands
  flushMark : Bool := false                          -- a flush point of the stream since the last RUN (R137, R242)
  fresh : Bool := false                              -- its stream has issued nothing since its last RUN (R316)
  deriving DecidableEq, Repr, Inhabited

/-- An operand slot (R212 to R214): element bits by row pitch, as one number per row. -/
structure Slot where
  holder : Option Nat := none
  tag : Option (Nat × Nat × Nat) := none             -- FMT, RV, CV
  rows : Cells Nat := []                             -- bits of row r, element c at bit W c (R213)
  bad : List Nat := []                               -- poisoned granules (R415)
  deriving DecidableEq, Repr, Inhabited

/-- A stationary bank (R34, R228). -/
structure Bank where
  loaded : Bool := false
  fmt : Nat := 0
  n : Nat := 0
  rv : Nat := 0
  cv : Nat := 0
  ct : Nat := 0
  gen : Nat := 0
  rows : Cells Nat := []                             -- row k, element n at bit W n; sparse: group rows
  cs : Cells W32 := []                               -- column scales, unlisted is 1.0
  src : Option Nat := none                           -- slot it was loaded from by LDW without .t, while unchanged (R247)
  bad : Bool := false                                -- parity error (R417)
  deriving DecidableEq, Repr, Inhabited

/-- A code table (R35): entry e of generation n at key 256 n + e. -/
structure CodeTab where
  cur : Nat := 0
  ent : Cells (BitVec 16) := []
  deriving DecidableEq, Repr, Inhabited

/-- A waiting claim (R215). -/
structure Claim where
  grp : Nat := 0
  acc : Bool := false
  m : Nat := 0
  n : Nat := 0
  deriving DecidableEq, Repr, Inhabited

/-- A recorded store to NOTIFY: the END it made the greatest, and where it stood (R209, R313). -/
structure Pub where
  e : Nat := 0
  grp : Nat := 0
  level : Nat := 0
  waddr : Nat := 0
  saddr : Nat := 0
  rgn : Nat := 0
  deriving DecidableEq, Repr, Inhabited

/-- A chit the engine has consumed and not completed (R197, R207). -/
structure Chit where
  idx : Nat := 0                                     -- ring index
  bits : Nat := 0                                    -- the 256 bits read
  grp : Nat := 0                                     -- the group it counts for (R209)
  started : Bool := false
  pos : Nat := 0                                     -- every element below it has performed
  part : List Nat := []                              -- elements past `pos` that have performed (R293)
  cover : Cells Nat := []                            -- bits written of destination granules that are marked (R416)
  checked : Nat := 1                                 -- 4 KiB steps that its draw checks have covered (R270)
  lay : Nat := 0                                     -- layout record read at start
  lay2 : Nat := 0
  remote : Option Nat := none                        -- place in the count of R208
  hold : Option Nat := none                          -- handle of a held PAGE (R209)
  finished : Bool := false                           -- every access has performed
  report : Option Report := none
  drawHeld : Bool := false                           -- a draw stall was counted
  untagged : Bool := false                           -- completes without its tag (R199)
  pub : Pub := {}
  deriving DecidableEq, Repr, Inhabited

/-- A store or atomic to NOTIFY waiting to be recorded (R199). -/
structure Notify where
  hid : Nat := 0
  who : Agent := .grid 0                             -- the stream or fragment that executed it
  lane : Option Nat := none                          -- the lane of a lane word
  size : Nat := 8
  off : Nat := 0                                     -- first byte within NOTIFY
  aop : Option Nat := none                           -- operation of an atomic
  opnd : Nat := 0                                    -- value stored, or operand of the atomic
  cmp : Nat := 0
  dst : Option Nat := none                           -- register that receives the old value of an atomic
  ty : Nat := 3
  waddr : Nat := 0
  saddr : Nat := 0
  entry : LogEntry := {}                             -- its operand-log entry, should it fault (R200, R304)
  deriving DecidableEq, Repr, Inhabited

/-- A stale-pending copy of a line (R287). -/
structure Stale where
  line : Nat := 0
  data : List Byte := []
  holders : List Nat := []
  inArea : Bool := false                             -- in the stale area, counted against the 2,048 slots
  time : Nat := 0                                    -- when the write that it keeps out performed (R412)
  bad : List Nat := []                               -- its poisoned granules of 32 bytes, 0 to 3 (R416)
  deriving DecidableEq, Repr, Inhabited

/-- Who writes, for the instances of the scopes (R281): a core's group, or its engine; a pitch or workgroup sequencer of a
pitch, another agent of the device, or one outside it. -/
inductive Writer where
  | core (w : WgId) (g : Option Nat)
  | pitch (c p : Nat)
  | device
  | outside
  deriving DecidableEq, Repr, Inhabited

/-- What a core read in a line just before a write to it performed: its data, when, who wrote, and how the writer stands to
the workgroup: of it 0, of its pitch 1, of the device 2, outside 3 (R280, R281, R285). -/
structure Past where
  line : Nat := 0
  data : List Byte := []
  bad : List Nat := []                               -- poisoned granules of the data, 0 to 3
  time : Nat := 0
  wr : Writer := .device
  rel : Nat := 0
  deriving DecidableEq, Repr, Inhabited

/-- Where a context lives (R377, R380): `dying` while a kill waits for what was issued (R389). -/
inductive Place where
  | saved | staged | resident | noframe | dying | killed
  deriving DecidableEq, Repr, Inhabited

/-- A workgroup's context with the resources of its core (R32, R45). -/
structure Wg where
  core : CoreId := default
  pitch : Nat := 0
  pos : Nat := 0
  gidx : Nat := 0                                    -- workgroup index in the grid
  place : Place := .resident
  image : Nat := 0                                   -- save image, physical address (R377)
  saves : Nat := 0
  started : Bool := false                            -- R265
  drawn : Nat := 0                                   -- DRAWN (R124)
  tags : Word := 0                                   -- TAGS (R40)
  phys : Nat := 16                                   -- physical slots that a staged context leaves free (R383)
  slots : Assoc Nat Slot := []
  accs : Assoc Nat Acc := []
  banks : Assoc Nat Bank := []
  cts : Assoc Nat CodeTab := []
  owed : List (Nat × Outst) := []                    -- accesses that a kill has still to perform, by group (R389)
  claims : List Claim := []                          -- waiters in arrival order (R215)
  drawWait : List (Option (Nat × Nat)) := []         -- draw check order: an MMA (group, number) or the engine (R270)
  sp : Cells Byte := []                              -- reservation bytes (R195)
  spPoison : List Nat := []                          -- granules of 32 bytes marked (R416)
  notify : Nat := 0
  cons : Nat := 0
  doneCnt : Nat := 0
  ends : Cells Nat := []                             -- E[g] (R199)
  notifyQ : List Notify := []
  chits : List Chit := []
  remotes : Nat := 0                                 -- rput and rred chits consumed (R208)
  pubs : List Pub := []                              -- publications of entries not consumed (R209, R313)
  rules : List Nat := []                             -- rewrite rule entries, 128 bits each (R248)
  htab : Cells Word := []                            -- handler table (R305)
  hrun : Option (Agent × Bool) := none               -- handler running: faulting agent, deferred report?
  hcause : FaultRec := {}                            -- the record being handled (R44)
  freg : Cells Nat := []                             -- FAULT0 to FAULT7 (R37, R44)
  hwait : List (Agent × FaultRec × Option Report) := []  -- waiting handlers in entry order (R308)
  stale : List Stale := []                           -- R287
  past : List Past := []                             -- values that a read of its groups may still return, oldest first (R285)
  reportOrder : Nat := 0
  deriving DecidableEq, Repr, Inhabited

/-- A loaded code object (R348, R349): section bases and lengths in words, tables. -/
structure KObj where
  base : List Nat := []                              -- grid, pitch, wg, group, lane (R46)
  len : List Nat := []                               -- in control words, and lane words for the lane section
  pool : List Word := []                             -- constant pool (R103)
  groups : Nat := 1
  vregs : Nat := 16
  scratch : Nat := 0                                 -- bytes
  ring : Nat := 0
  copyq : Nat := 0
  draw : Nat := 0
  shapes : List Nat := []                            -- 128 bits each (R218)
  layouts : List Nat := []                           -- 512 bits each (R202)
  rules : List Nat := []
  pins : List (Nat × CoreId) := []                   -- pitch and lead core of the variant (R353)
  deriving DecidableEq, Repr, Inhabited

/-- A captured input of a node (R423), contexts numbered 0. -/
inductive CapEv where
  | lines (va : Nat) (bytes : List Byte)             -- the record, a range line or an argument line as read
  | wake (pq t : Nat)
  | host (w g v : Nat)                               -- the value of a host-link read of a group
  | atomic (pa w g : Nat)                            -- an atomic at its home
  | atomicSp (v off w g : Nat)                       -- an atomic in the reservation of workgroup `v`
  | claim (w g : Nat) (acc : Bool) (m n : Nat)       -- a waiter at SCLAIM or ACLAIM
  | draw (w : Nat)                                   -- a waiter at DRAW
  | check (w : Nat) (who : Option (Nat × Nat))       -- a waiter at the draw check: an MMA, or the engine
  | cut (w g num : Nat)                              -- a timed cut after tile word `num`
  | pick (w g f : Nat)                               -- the slot served where both were ready
  | arrive (bit fmt : Nat) (add : Bool) (elems : List (Nat × Bool))
  deriving DecidableEq, Repr, Inhabited

/-- What a captured input is ordered with: a location, a core's waiters, a group's cuts or picks. -/
inductive CapKey where
  | none | host (w g : Nat) | home (pa : Nat) | homeSp (v off : Nat) | claims (w : Nat) | draws | checks (w : Nat) | cuts (w g : Nat) | picks (w g : Nat)
  | arrivals
  deriving DecidableEq, Repr

def CapEv.key : CapEv → CapKey
  | .lines _ _ | .wake _ _ => .none
  | .host w g _ => .host w g
  | .atomic pa _ _ => .home pa
  | .atomicSp v off _ _ => .homeSp v off
  | .claim w .. => .claims w
  | .draw _ => .draws
  | .check w _ => .checks w
  | .cut w g _ => .cuts w g
  | .pick w g _ => .picks w g
  | .arrive .. => .arrivals

/-- An image of firmware: the one of a KIND that the flash holds at manufacture (log entry 8), or one written since. -/
inductive Img where
  | shipped (kind : Nat)
  | given (bytes : List Byte)
  deriving DecidableEq, Repr, Inhabited

/-- A capture buffer (R423): the inputs of a node, the identity of the device that ran it, the entries that it holds. -/
structure Capture where
  sig : List Nat := []                               -- DEFSIG of each die
  images : List Img := []                            -- the running firmware images
  size : Nat := 0
  evs : List CapEv := []
  truncated : Bool := false
  deriving DecidableEq, Repr, Inhabited

/-- A grid context (R343): the node it runs, its code and its script. -/
structure Grid where
  node : Nat := 0
  nodeid : Nat := 0                                  -- NODEID of its record (R334)
  vf : Nat := 0
  asid : Nat := 0
  pq : Nat := 0
  k : KObj := {}
  gx : Nat := 1
  gy : Nat := 1
  gz : Nat := 1
  pw : Nat := 1
  ph : Nat := 1
  dgrant : Nat := 0
  dbg : Bool := false
  rwg : Bool := false
  args : Nat := 0                                    -- ARGS (R37)
  script : Assoc Nat Receipt := []                   -- ring entries (R262)
  size : Nat := 4096
  npitch : Nat := 1
  disp : Nat := 0                                    -- dispatch order (R355)
  placed : Nat := 0                                  -- pitches placed, in index order (R355)
  reqSince : Nat := 0                                -- when the next placement request began
  reqOld : Bool := false                             -- it has waited 10 ms
  scriptStop : Bool := false                         -- stopped by SCRIPT (R346)
  failing : List (Nat × FaultRec) := []              -- event KIND and record of each failure (R345)
  killed : Bool := false                             -- its pitches are killed, its failures not yet posted (R389)
  noframe : Bool := false                            -- stopped by NOFRAME (R376)
  code : List Nat := []                              -- lines of its code that instruction caches may hold (R273)
  cap : Option Nat := none                           -- capture that takes its inputs (R423)
  rerun : Option (Nat × List CapEv) := none          -- capture that it re-runs, with the inputs left (R424)
  deriving DecidableEq, Repr, Inhabited

/-- A placed pitch (R256, R355). -/
structure Pitch where
  lead : CoreId := default
  finished : Bool := false
  wgs : List Nat := []                               -- workgroup indices, by POS
  deriving DecidableEq, Repr, Inhabited

/-- A store accepted by a core's memory pipeline and not yet performed at its home (R127, R282). -/
structure PStore where
  sid : Nat := 0                                     -- rising in the order of acceptance
  src : WgId := default                              -- the core whose L1 holds it
  grp : Nat := 0
  pa : Nat := 0
  data : List Byte := []
  trk : Bool := true
  lines : List Nat := []                             -- page-table lines its translation came from
  va : Nat := 0
  waddr : Nat := 0                                   -- its word, and for a lane word its lanes
  lanes : Nat := 0
  whole : List Nat := []                             -- granules of 32 bytes that its word writes whole (R416)
  again : Bool := false                              -- cancelled by R368: it is translated again before it performs
  faulted : Bool := false                            -- that translation faulted: it waits for RESUME
  deriving DecidableEq, Repr, Inhabited

/-- MOESI state of a directory entry (R396). -/
inductive Moesi where
  | m | o | e | s | i
  deriving DecidableEq, Repr, Inhabited

/-- The directory entry of a line (R366, R396). An L1 sharer carries its read-in-phase groups (R287). -/
structure DirEnt where
  st : Moesi := .i
  l1 : Assoc CoreId (List Nat) := []
  dies : List Nat := []                              -- remote ways of other dies
  host : Moesi := .i                                 -- how the host holds it (R396, R399)
  l1bad : Assoc CoreId (List Nat) := []              -- poisoned granules of L1 copies alone, 0 to 3 (R415)
  tsh : List TAgent := []                            -- translation sharers
  copy : Assoc CoreId (List Byte) := []              -- L1 copies that an untracked write left as they were (R295)
  pts : Assoc Writer Nat := []                       -- when each writer last wrote it, as a page-table line (R412)
  want : Bool := false                               -- a page-table store waits at the home (R367)
  deriving DecidableEq, Repr, Inhabited

/-- A translation held by a translation cache (R365). -/
structure Trans where
  asid : Nat := 0
  start : Nat := 0                                   -- virtual address of the covered run
  len : Nat := 0
  frame : Nat := 0
  perm : BitVec 3 := 0
  trk : Bool := false
  ff : Bool := false
  hv : Bool := false
  hdie : Nat := 0
  lines : List Nat := []
  deriving DecidableEq, Repr, Inhabited

/-- Who holds an access for page service (R374). -/
inductive Holder where
  | lane (g : GrpId) (handle : Nat)
  | scalar (a : Agent)
  | fetch (a : Agent)
  | tile (g : GrpId) (num : Nat)
  | chit (w : WgId) (idx : Nat)
  | store (w : WgId) (sid : Nat)                     -- an accepted store that R368 cancelled
  | host (n : Nat)                                   -- request `n` of a host agent (R365)
  | front (queue : Bool) (n : Nat)                   -- for queue `n`, or for node `n` (R333)
  deriving DecidableEq, Repr, Inhabited

/-- A request of the service ring that has not been disposed of (R374, R375). -/
structure Held where
  who : Holder := .front false 0
  va : Nat := 0
  asid : Nat := 0
  kind : Acc4 := .read
  ctx : Nat := 0
  posted : Bool := true                              -- false while the service ring is full (R331)
  noframe : Bool := false
  ready : Bool := false                              -- serviced while its context was away (R314)
  trickle : Bool := false
  declined : Bool := false                           -- declined, not yet acted on
  deriving DecidableEq, Repr, Inhabited

/-- A ring control block (R331). -/
structure Ring where
  base : Nat := 0
  lg : Nat := 0
  pi : BitVec 32 := 0
  ci : BitVec 32 := 0
  ovf : Bool := false
  deriving DecidableEq, Repr, Inhabited

/-- A queue descriptor (R332). -/
structure QDesc where
  last : Nat := 0
  argwin : Nat := 0
  evb : Nat := 0
  evlg : Nat := 0
  evpi : BitVec 32 := 0
  evci : BitVec 32 := 0
  evovf : Bool := false
  vf : Nat := 0
  dom : Nat := 0
  pricap : Nat := 0
  en : Bool := false
  record : Bool := false                             -- record mode (R423)
  capSize : Nat := 0                                 -- entries of a capture buffer that the firmware sizes
  rerun : Option Nat := none                         -- capture that its next node re-runs (R424)
  deriving DecidableEq, Repr, Inhabited

/-- Configuration of a virtual function (R329, R331, R402, R430). -/
structure VfCfg where
  s1en : Bool := false
  s1addr : Nat := 0
  miss : Ring := {}
  part : Nat := 0
  troot : Nat := 0                                   -- front-end address space (R333, R373)
  asid : Nat := 0
  wakeBase : Nat := 0                                -- physical address of its wake aperture, 0 none (R329, log entry 57)
  ranges : Assoc Nat (Nat × Nat) := []               -- host ranges: base and length (R430)
  key : Option (List Byte) := none                   -- code key record (R431)
  deriving DecidableEq, Repr, Inhabited

/-- Progress of a node (R342 to R345). -/
inductive NodeSt where
  | pending | ready | pooled | running | complete | failed
  deriving DecidableEq, Repr, Inhabited

/-- A node of the graph (R334 to R345). -/
structure Node where
  nid : Nat := 0                                      -- acceptance number
  pq : Nat := 0
  vf : Nat := 0
  dom : Nat := 0
  bits : Nat := 0                                    -- the 1,024 bits of the record as read
  rd : List (Nat × Nat) := []                        -- rounded ranges, start and end
  wr : List (Nat × Nat) := []
  edges : List (Nat × Bool) := []                    -- source node, explicit?
  cls : Nat := 0
  since : Nat := 0                                   -- when it entered its class
  order : Nat := 0                                   -- when it became ready or entered the pool
  st : NodeSt := .pending
  bad : Bool := false                                -- malformed
  cap : Option Nat := none                           -- its capture (R423)
  rerun : Option Nat := none                         -- the capture that it re-runs (R424)
  ctx : Option Nat := none
  deriving DecidableEq, Repr, Inhabited

/-- The front end (R326 to R347) with the translation control block (R373). -/
structure FrontEnd where
  queues : Assoc Nat QDesc := []
  stage2 : Assoc (Nat × Nat) Nat := []               -- (vf, identifier) to entry (R329)
  vfs : Assoc Nat VfCfg := []
  wakes : List (Nat × Nat) := []                     -- posted wakes: queue, T
  nodes : List Node := []
  nextNode : Nat := 1
  nextOrder : Nat := 0
  hostMiss : Ring := {}
  svcq : Ring := {}
  fevq : Ring := {}
  fthr : Nat := 0
  troots : Assoc Nat (Nat × Nat) := []               -- context to (ASID, root physical address)
  owner : Cells Nat := []                            -- frame owner bytes (R360)
  peers : Cells Nat := []                            -- peer table entries, 128 bits: entry n of job j at 32768 j + n (R408)
  endpoints : Cells Nat := []                        -- Ethernet endpoints: [11:0] ports, [27:12] UDP port, [75:28] MAC, [203:76] IPv6 (R408)
  foot : Cells Nat := []                             -- footfall counters at 2^40 unit + region; above [15:0] the last access (R371)
  captures : List Capture := []                      -- capture buffers, by number (R423)
  kept : List (Holder × Nat × List Byte) := []       -- lines that a waiting access chain has read (R327, R338)
  full : List Nat := []                              -- queues that wait for room among the waiting nodes, in order (R341)
  asids : List (Nat × Nat) := []                     -- virtual function and ASID, as call 0x02 set them (R430)
  killedAsids : List Nat := []                       -- ASIDs that ASIDKILL has ended since (R373, R430)
  windows : Assoc Nat (Nat × Nat) := []              -- the runners' window table: base and length in physical memory (R430)
  tcm : Cells (Option Byte) := []                    -- tightly coupled memory, where it was written since the boot loaded it:
                                                     -- runner r's byte at 65536 r + offset (R1, R429)
  missIn : List (Nat × Nat × Nat) := []              -- misses not yet logged: stage - 1, function, entry (R329, R330)
  evWait : List (Nat × Nat × Nat) := []              -- entries held on a PAGE: handle, queue or 4096 + vf, entry (R330, R333, R347)
  deriving DecidableEq, Repr, Inhabited

/-- PWAY fields (R403). -/
structure Pway where
  mon : Bool := false
  ceil : Nat := 0
  floor : Nat := 0
  deriving DecidableEq, Repr, Inhabited

/-- A line that an L2 way holds; a remote way holds a line homed on another die (R397, R402). -/
structure L2Line where
  way : Nat := 0
  line : Nat := 0
  dirty : Bool := false
  deriving DecidableEq, Repr, Inhabited

/-- A compute die (R1, R124, R397 to R406, R419 to R421). -/
structure Die where
  poolFree : Int := 1600
  poolTotal : Int := 1600
  drawQ : List WgId := []                            -- waiting DRAWs in arrival order
  gen : Nat := 0
  out : List (Nat × Nat) := Config.spareCores        -- cores out of service
  rways : Nat := 0
  pmask : Cells Nat := []                            -- (slice, p) at 16 slice + p
  pway : Assoc Nat Pway := []
  pcap : Cells Nat := []
  hits : Cells Nat := []                             -- utility counters: 512 slice + 32 p + position
  l2 : Assoc (Nat × Nat) (List L2Line) := []         -- lines by slice and set
  shadow : Assoc (Nat × Nat × Nat) (List Nat) := []  -- shadow tags by slice, sampled set and partition, latest first (R404)
  porterLow : Nat := 0
  porterRing : Ring := {}
  porterQ : List Nat := []                           -- commands taken and not ended, in order (R382)
  porterPost : Option Nat := none                    -- a completion that waits for room in the ring (R331)
  errRing : Ring := {}
  errCnt : Assoc (Nat × Nat) Nat := []               -- events since the previous entry, by (KIND, LOC)
  gatedCores : List (Nat × Nat) := []
  gatedChiplets : List Nat := []
  retiredWays : List (Nat × Nat) := []               -- slice, way
  repairedRows : List Nat := []
  failedLinks : List (Nat × Nat) := []               -- unit, loc
  scrubs : Nat := 0
  deriving DecidableEq, Repr, Inhabited

/-- A flash slot (R432). -/
structure Flash where
  image : Img := .given []
  tryMark : Bool := false
  failed : Bool := false
  deriving DecidableEq, Repr, Inhabited

/-- Fuses, images and identity (R427 to R433). -/
structure Trust where
  keyDigest : Option (List Byte) := none             -- fused SHA-384 of the vendor's key pairs (R428); none: as manufactured
  secret : Option (BitVec 384) := none               -- fused secret (R429); none: as manufactured
  serial : Option Nat := none                        -- serial number of the package (R433); none: as manufactured
  romKey : Bool := false                             -- the boot ROM holds the private identity key (R429)
  idKey : Bool := false                              -- the monitor holds it
  monitor : Img := .given []                         -- monitor-only memory: the monitor image (R429)
  pmp : Bool := false                                -- the PMP of the policy core is set, and the policy RTOS runs (R429)
  measures : Assoc Nat Img := []                     -- what the monitor measured: the policy RTOS and the runners, by KIND (R429)
  checking : Option (Nat × Nat) := none              -- a call 0x05 that waits for page service: queue, address (R430)
  revoked : List Nat := []                           -- KIDX
  minSvn : Cells Nat := []                           -- by KIND
  slots : Assoc (Nat × Nat) Flash := []              -- (KIND, 0 or 1)
  running : Cells Nat := []                          -- KIND to 1 + slot, 0 none
  reports : Nat := 0
  result : Nat := 0                                  -- a0 of the last monitor call (R430)
  refusal : Nat := 0                                 -- refusal code of the last check of a code object (R350)
  bootStopped : Bool := false
  deriving DecidableEq, Repr, Inhabited

/-- A tile row that rput or rred has sent to a peer, which has not acknowledged it (R206, R389): its chit; the destination
package or the Ethernet endpoint's record, the ports that may carry it and the peer's job (R408); the address of its first
element there and the bits by which that stands above the byte, the format, whether it adds, the elements, and which of them
are poisoned (R416). -/
structure Packet where
  src : WgId := default
  idx : Nat := 0
  peer : Nat := 0
  net : Bool := false
  via : Nat := 0
  ports : Nat := 0
  job : Nat := 0
  va : Nat := 0
  bit : Nat := 0
  fmt : Nat := 0
  add : Bool := false
  elems : List Nat := []
  marked : List Nat := []
  deriving DecidableEq, Repr, Inhabited

/-- What a save image's regions in porter format name: a context as a swap left it (R378, R386; log entry 22). -/
structure Shelf where
  w : WgId := default
  x : Wg := {}
  groups : List (GrpId × Group) := []
  seqs : List (Agent × Seq) := []
  deriving DecidableEq, Repr, Inhabited

/-- One turn of the schedule: an agent issues its next word, an instruction miss freezes it (R273), a lane engine
that has two ready slots serves the other one first, or an event happens. -/
inductive Turn where
  | word (a : Agent)
  | miss (a : Agent)
  | event (e : Instr)
  | porter (die : Nat)   -- the die's porter goes on with its queue (R382)
  | waits                -- what waits for a table, a page or a room tries again (R346, R430)
  deriving DecidableEq, Repr

/-- A write that waits at its home: of a host agent, 1 plus its number (R400), or of the device's own agents, 0, while a
core withholds its acknowledgement (R287). -/
structure HomeWrite where
  agent : Nat := 0
  rel : Bool := false
  trk : Bool := true
  pa : Nat := 0
  data : List Byte := []
  lines : List Nat := []                             -- page-table lines that its translation came from (R368)
  asid : Option Nat := none                          -- its address space, when it was translated (R373)
  deriving DecidableEq, Repr, Inhabited

/-- The machine. -/
structure State where
  plan : List Turn := []
  clock : Nat := 0
  choices : List Nat := []
  freeCtr : Nat := 0
  cur : Agent := .grid 0
  stalled : Bool := false                            -- set by a word that cannot issue yet and has no effect
  mem : Memory := []
  poison : List Nat := []                            -- marked granules, physical address / 32
  pend : List PStore := []
  dir : Assoc Nat DirEnt := []
  tlb : Assoc TAgent (List Trans) := []
  holds : Assoc Nat Held := []
  nextHandle : Nat := 1
  watched : List Nat := []
  seqs : Assoc Agent Seq := []
  grids : Assoc Nat Grid := []
  pitches : Assoc (Nat × Nat) Pitch := []
  wgs : Assoc WgId Wg := []
  groups : Assoc GrpId Group := []
  fe : FrontEnd := {}
  dies : List Die := []
  hostPend : List HomeWrite := []                    -- writes that wait at their home, in order
  hostWait : List (Nat × HostReq) := []              -- requests of host agents that wait for service (R365)
  peerOut : List Packet := []                        -- remote transfers sent and not acknowledged (R206)
  shelf : Assoc Nat Shelf := []                      -- contexts that save images name (R378)
  oldCode : List (Nat × Nat) := []                   -- parcels of running code that a write replaced: address / 4, value (R69)
  trust : Trust := {}
  deriving DecidableEq, Repr, Inhabited

/-- Flash and fuses at manufacture, and a boot that accepted the images that the flash held (log entry 8). -/
def Trust.reset : Trust :=
  { idKey := true, monitor := .shipped 1, pmp := true, measures := [(2, .shipped 2), (3, .shipped 3)]
    slots := [((1, 0), { image := .shipped 1 }), ((2, 0), { image := .shipped 2 }), ((3, 0), { image := .shipped 3 })]
    running := [(1, 1), (2, 1), (3, 1)] }

/-- Right after a device reset and a boot that accepted its images (R422, R429): no launch, no queue, four dies with
full draw pools, WAYS 0, every SRAM zero. -/
def State.reset : State := { dies := [{}, {}, {}, {}], trust := Trust.reset }

/-- Memory lists what differs from 0x00, addresses strictly rising. -/
abbrev Memory.wf (m : Memory) : Bool := cwf (0 : Byte) m

end Sys2Proof.Machine
end

