-- ==== Sys2Proof/Machine/Access.lean ====
section
/-!
DEFINITION. Reaching the objects of the machine: sequencers, grids, pitches, workgroups, groups, dies, and what an
agent is (R256 to R260).
-/
namespace Sys2Proof.Machine

/-! ### Objects by name -/

def State.seq (s : State) (a : Agent) : Seq := agetD {} s.seqs a
def State.setSeq (s : State) (a : Agent) (q : Seq) : State := { s with seqs := aput s.seqs a q }
def State.modSeq (s : State) (a : Agent) (f : Seq → Seq) : State := s.setSeq a (f (s.seq a))

def State.grid (s : State) (c : Nat) : Grid := agetD {} s.grids c
def State.setGrid (s : State) (c : Nat) (g : Grid) : State := { s with grids := aput s.grids c g }
def State.modGrid (s : State) (c : Nat) (f : Grid → Grid) : State := s.setGrid c (f (s.grid c))

def State.pitch (s : State) (c p : Nat) : Pitch := agetD {} s.pitches (c, p)
def State.setPitch (s : State) (c p : Nat) (x : Pitch) : State := { s with pitches := aput s.pitches (c, p) x }

def State.wg (s : State) (w : WgId) : Wg := agetD {} s.wgs w
def State.setWg (s : State) (w : WgId) (x : Wg) : State := { s with wgs := aput s.wgs w x }
def State.modWg (s : State) (w : WgId) (f : Wg → Wg) : State := s.setWg w (f (s.wg w))

def State.group (s : State) (g : GrpId) : Group := agetD {} s.groups g
def State.setGroup (s : State) (g : GrpId) (x : Group) : State := { s with groups := aput s.groups g x }
def State.modGroup (s : State) (g : GrpId) (f : Group → Group) : State := s.setGroup g (f (s.group g))

def State.die (s : State) (d : Nat) : Die := s.dies.getD d {}
def State.setDie (s : State) (d : Nat) (x : Die) : State := { s with dies := lset s.dies d x }
def State.modDie (s : State) (d : Nat) (f : Die → Die) : State := s.setDie d (f (s.die d))

def State.dirEnt (s : State) (line : Nat) : DirEnt := agetD {} s.dir line
def State.setDir (s : State) (line : Nat) (e : DirEnt) : State := { s with dir := aput s.dir line e }
def State.modDir (s : State) (line : Nat) (f : DirEnt → DirEnt) : State := s.setDir line (f (s.dirEnt line))

/-! ### Agents -/

/-- Context number. -/
def ctxOf : Agent → Nat
  | .grid c | .pitch c _ | .wg c _ | .group c _ _ | .handler c _ | .lane c _ _ _ => c

/-- Level of a control sequencer; the lane engine has none. -/
def lvlOf : Agent → Option Lvl
  | .grid _ => some .G
  | .pitch _ _ => some .P
  | .wg _ _ => some .W
  | .group _ _ _ => some .S
  | .handler _ _ => some .H
  | .lane _ _ _ _ => none

/-- SCOPE code of an agent's level (R13). -/
def scopeOf : Agent → Nat
  | .grid _ => 4
  | .pitch _ _ => 3
  | .wg _ _ => 2
  | .group _ _ _ | .handler _ _ => 1
  | .lane _ _ _ _ => 0

/-- The lead workgroup of a pitch. -/
def State.leadWg (s : State) (c p : Nat) : WgId := ⟨c, (s.pitch c p).wgs.headD 0⟩

/-- The group in whose slot a workgroup's handler runs (R306). -/
def hostGroup (a : Agent) : Nat :=
  match a with
  | .group _ _ g | .lane _ _ g _ => g
  | _ => 0

/-- The group whose resources an agent's words use: a handler acts for the group in whose slot it runs. -/
def State.grpId (s : State) (a : Agent) : GrpId :=
  match a with
  | .group c w g | .lane c w g _ => ⟨c, w, g⟩
  | .handler c w => ⟨c, w, ((s.wg ⟨c, w⟩).hrun.map fun x => hostGroup x.1).getD 0⟩
  | .wg c w => ⟨c, w, 0⟩
  | .pitch c p => ⟨c, (s.leadWg c p).w, 0⟩
  | .grid c => ⟨c, 0, 0⟩

/-- The workgroup of an agent; the lead workgroup for a pitch sequencer. -/
def State.wgId (s : State) (a : Agent) : WgId := ⟨(s.grpId a).c, (s.grpId a).w⟩

def GrpId.wg (g : GrpId) : WgId := ⟨g.c, g.w⟩
def GrpId.stream (g : GrpId) : Agent := .group g.c g.w g.g
def GrpId.lane (g : GrpId) (f : Nat) : Agent := .lane g.c g.w g.g f

/-- The core of an agent; the grid sequencer runs at die 0. -/
def State.coreOf (s : State) (a : Agent) : CoreId :=
  match a with
  | .grid _ => ⟨0, 0, 0⟩
  | .pitch c p => (s.pitch c p).lead
  | _ => (s.wg (s.wgId a)).core

/-- The bit of the translation-sharer bitmap that stands for a core: its 2 by 2 block (R366, R391). -/
def blockOf (c : CoreId) : TAgent := .block c.die (c.y / 2 * 6 + c.x / 2)

/-- Column and row of a die in the 2 by 2 arrangement of the package (R1). -/
def dieAt (d : Nat) : Nat × Nat := (d % 2, d / 2)

/-- The router of the 8 by 8 mesh of its die that serves a core (R391). -/
def routerOf (c : CoreId) : Nat × Nat := (1 + c.x / 2, 1 + c.y / 2)

/-- Groups of a workgroup, and workgroups of a pitch. -/
def State.groupsOf (s : State) (w : WgId) : List GrpId := (List.range (s.grid w.c).k.groups).map fun g => ⟨w.c, w.w, g⟩
def State.wgsOf (s : State) (c p : Nat) : List WgId := (s.pitch c p).wgs.map fun w => ⟨c, w⟩

/-- Whether a workgroup occupies its core: it is resident, or a kill has not released it yet (R389). -/
def Wg.onCore (x : Wg) : Bool := x.place == .resident || x.place == .dying

/-- The workgroup that occupies a core. -/
def State.residentOn (s : State) (c : CoreId) : Option WgId :=
  (s.wgs.find? fun x => x.2.core = c ∧ x.2.onCore).map Prod.fst

/-- Code section of an agent: base address and length in words (R46, R305, R435). -/
def State.section (s : State) (a : Agent) : Nat × Nat :=
  match a with
  | .handler c w => ((cget 0 (s.wg ⟨c, w⟩).htab 0).toNat, 0x4000)
  | a =>
    let k := (s.grid (ctxOf a)).k
    let i := match a with | .grid _ => 0 | .pitch _ _ => 1 | .wg _ _ => 2 | .group _ _ _ => 3 | _ => 4
    (k.base.getD i 0, k.len.getD i 0)

/-- The sequencer whose SLIP, LEAD and MODE an agent uses: a lane engine and a handler use those of their group's
scalar stream, in whose slot the handler runs (R37, R274, R306). -/
def State.ownOf (s : State) (a : Agent) : Agent :=
  match a with
  | .lane _ _ _ _ | .handler _ _ => (s.grpId a).stream
  | a => a

/-- Bytes of one word of an agent's section. -/
def wordBytes : Agent → Nat
  | .lane _ _ _ _ => 12
  | _ => 4

/-- Whether the word at `pc` lies wholly in the section (R435). -/
def State.inSection (s : State) (a : Agent) (pc : Nat) : Bool :=
  let (b, n) := s.section a
  b ≤ pc && pc + wordBytes a ≤ b + n * wordBytes a

/-- Whether `pc` is a word address of the lane section reached from a lane word. -/
def State.inLaneSection (s : State) (a : Agent) (pc : Int) : Bool :=
  decide (0 ≤ pc) && s.inSection a pc.toNat

/-- Next free choice; 0 when none is given (log entry 3). -/
def State.choose (s : State) : Nat × State := (s.choices.headD 0, { s with choices := s.choices.tail })


/-! ### Captures (R423, R424) -/

/-- Put an input into a capture; a full buffer is marked truncated, and capture stops (R424). -/
def Capture.add (x : Capture) (e : CapEv) : Capture :=
  if x.truncated then x else if x.evs.length < x.size then { x with evs := x.evs ++ [e] } else { x with truncated := true }

/-- Put an input into capture `k`. -/
def State.capture (s : State) (k : Option Nat) (e : CapEv) : State :=
  match k with
  | none => s
  | some k => { s with fe := { s.fe with captures := lset s.fe.captures k ((s.fe.captures.getD k {}).add e) } }

/-- The captured input that a re-run meets next with those of a key. -/
def State.nextInput (s : State) (c : Nat) (key : CapKey) : Option CapEv :=
  (s.grid c).rerun.bind fun r => r.2.find? fun x => x.key == key

/-- A re-run has used a captured input. -/
def State.useInput (s : State) (c : Nat) (e : CapEv) : State :=
  s.modGrid c fun g => { g with rerun := g.rerun.map fun r => (r.1, r.2.erase e) }

/-- An input of grid context `c`, which is captured where its node is recorded (R423). In a re-run the captured order is
enforced: none while another input of its key comes first. Past the last input of a truncated capture the node fails
(R424). -/
def State.ordered (s : State) (c : Nat) (e : CapEv) : Option State :=
  match (s.grid c).rerun with
  | none => some (s.capture (s.grid c).cap e)
  | some (k, l) =>
    match s.nextInput c e.key with
    | some x => if x = e then some (s.useInput c e) else none
    | none =>
      if !(s.fe.captures.getD k {}).truncated then some s
      else if l ≠ [] then none
      else some (if (s.grid c).failing = [] then s.modGrid c fun g => { g with failing := [(3, {})] } else s)

/-- Whether an input may come now. -/
def State.mayInput (s : State) (c : Nat) (e : CapEv) : Bool := (s.ordered c e).isSome

/-- The fragment of a lane agent. -/
def Group.frag (g : Group) (f : Nat) : Option Frag := g.frags.find? (·.fid == f)
def Group.modFrag (g : Group) (f : Nat) (h : Frag → Frag) : Group :=
  { g with frags := g.frags.map fun x => if x.fid = f then h x else x }
def Group.level (g : Group) (l : Nat) : Option Level := g.levels.find? (·.lid == l)

/-- Reservation size in bytes (R195). -/
def KObj.reservation (k : KObj) : Nat :=
  k.scratch + (if k.ring = 0 then 0 else 128 + 32 * k.ring + 64 * k.layouts.length)

/-- Resources of a workgroup on a core (R354): its bytes, on a lead core or not. -/
def KObj.sram (k : KObj) (lead : Bool) : Nat :=
  k.reservation + 1920 * (1 + k.groups) + 1536 * k.groups + (if lead then 1920 else 0)

/-- The scratchpad part of a core's SRAM (R354): a multiple of 64 KiB that covers its resident and staged contexts. -/
def State.splitOf (s : State) (c : CoreId) : Nat :=
  let used := s.wgs.foldl (fun n x =>
    if x.2.core = c ∧ (x.2.onCore ∨ x.2.place = .staged) then n + (s.grid x.1.c).k.sram (x.2.pos == 0) else n) 0
  (used + 65535) / 65536 * 65536

/-- The lines that a core's L1 holds at most: 7,168 at its largest (R287, R354). -/
def State.l1Lines (s : State) (c : CoreId) : Nat := min 7168 ((1048576 - s.splitOf c) / 128)

/-- The offset by which a core at pitch core index `p` names a scratchpad byte: an awning offset of its own index is the
direct one (R181). -/
def ownOff (p off : Nat) : Nat :=
  if 0x1000000 ≤ off ∧ (off - 0x1000000) / 0x100000 = p then (off - 0x1000000) % 0x100000 else off

/-! ### When registers were known (R291) -/

/-- When the newest read behind a set of registers had returned its value. -/
def knownAt (q : Seq) (y : Group) (rs : List RegRef) : Nat :=
  rs.foldl (fun m r => max m (match r with
    | .s n => cget 0 q.known n
    | .v n => cget 0 y.knownV n
    | .q n => cget 0 y.knownQ n
    | .e n => (agetD {} q.e n).known
    | _ => 0)) 0

/-- The registers `rs` of agent `a` hold values known at `t`. -/
def State.know (s : State) (a : Agent) (rs : List RegRef) (t : Nat) : State :=
  let g := s.grpId a
  rs.foldl (fun s r => match r, a with
    | .s _, .lane _ _ _ _ => s
    | .s n, a => s.modSeq a fun q => { q with known := cset 0 q.known n t }
    | .v n, _ => s.modGroup g fun y => { y with knownV := cset 0 y.knownV n t }
    | .q n, _ => s.modGroup g fun y => { y with knownQ := cset 0 y.knownQ n t }
    | _, _ => s) s

end Sys2Proof.Machine
end

