-- ==== Sys2Proof/Machine/Operands.lean ====
section
/-!
DEFINITION. Operand forms: scalar register fields (R23 to R25), mask and vector fields (R28 to R30), the forms of VB
(R50), values by lane type (R145) and results by lane type (R146).
-/
namespace Sys2Proof.Machine

/-! ### Scalar registers -/

/-- Field code of h0 at a level; h1 is the next (R24). -/
def h0Code : Lvl → Nat
  | .G | .P => 30
  | _ => 62

/-- The value that a source field names (R24): s0 reads zero. -/
def Seq.readReg (q : Seq) (l : Lvl) (f : Nat) : Word :=
  if f = 0 then 0 else if f = h0Code l then q.rc.h0 else if f = h0Code l + 1 then q.rc.h1 else cget 0 q.s f

/-- The NU mark of the register that a field names (R25); handed values carry none. That of s0 is set by GSET alone
(R139). -/
def Seq.mark (q : Seq) (l : Lvl) (f : Nat) : Bool := if h0Code l ≤ f then false else cget false q.nu f

/-- Write s(d) with its mark; a write to s0 is discarded (R24). A whole write clears an error (R415). -/
def Seq.writeReg (q : Seq) (d : Nat) (v : Word) (mark : Bool) : Seq :=
  if d = 0 then q
  else { q with s := cset 0 q.s d v, nu := cset false q.nu d mark, badRegs := q.badRegs.filter (· != d) }

/-- The next word. -/
def Seq.adv (q : Seq) : Seq := { q with pc := q.pc + 4 }

/-- Loop counter `n` (R27). -/
def Seq.ctr (q : Seq) (n : Nat) : BitVec 32 := cget 0 q.lc n

/-! ### Masks and lanes -/

/-- Mask `n`; q0 is all ones (R30). -/
def Group.mask (g : Group) (n : Nat) : W32 := if n = 0 then 0xFFFFFFFF else cget 0 g.q n

/-- Write a mask; q0 is never a destination. The write clears an error (R415). -/
def Group.setMask (g : Group) (n : Nat) (v : W32) : Group :=
  if n = 0 then g else { g with q := cset 0 g.q n v, badQ := g.badQ.filter (· != n) }

/-- The lanes that act: lanes of the fragment that the guard passes (R16, R144). -/
def Group.acting (g : Group) (lanes : W32) (w : LaneW) : W32 :=
  let m := g.mask w.guard.toNat
  lanes &&& (if w.gneg then ~~~m else m)

/-- The lanes of a mask, ascending. -/
def lanesOf (m : W32) : List Nat := onesOf 32 m.toNat

/-- Register `n` of lane `j`. -/
def Group.vreg (g : Group) (n j : Nat) : W32 := cget 0 g.v (32 * n + j)

/-- Write vector register values, by `32 n + j`. A write of every lane of a register clears its error (R415). -/
def Group.setV (g : Group) (xs : List (Nat × W32)) : Group :=
  { g with
    v := xs.foldl (fun m x => cset 0 m x.1 x.2) g.v
    badV := g.badV.filter fun n => !((List.range 32).all fun j => xs.any fun x => x.1 == 32 * n + j) }

/-- Whether a lane type names a register pair (R29). -/
def tyPair (t : Nat) : Bool := t == 3 || t == 7

/-- A register operand of a type in lane `j`: 64 bits for a pair, else the 32 bits of the register (R29). -/
def Group.operand (g : Group) (t f j : Nat) : Nat :=
  if tyPair t then (g.vreg f j).toNat + 2 ^ 32 * (g.vreg (f + 1) j).toNat else (g.vreg f j).toNat

/-- The immediate of P2 by type (R145). -/
def immOf (t : Nat) (p2 : BitVec 32) : Nat :=
  if t = 3 then (BitVec.signExtend 64 p2).toNat else p2.toNat

/-- The operand in VB (R50, R145): a vector register, a scalar register or the immediate. -/
def Group.operandB (g : Group) (stream : Seq) (t : Nat) (w : LaneW) (j : Nat) : Nat :=
  if w.bsc then
    if w.vb.toNat = 0x7F then immOf t w.p2
    else
      let v := (stream.readReg .S w.vb.toNat).toNat
      if tyPair t then v else v % 2 ^ 32
  else g.operand t w.vb.toNat j

/-- The value of an operand at the width of its type (R146). -/
def atWidth (t v : Nat) : Nat := v % 2 ^ (if t = 14 then 32 else tyBits t)

/-- Register writes of a result of type `t` in lane `j` (R146); an f19 result has bits [12:0] zero (R73). -/
def resultV (t d j v : Nat) : List (Nat × W32) :=
  if tyPair t then [(32 * d + j, BitVec.ofNat 32 v), (32 * (d + 1) + j, BitVec.ofNat 32 (v / 2 ^ 32))]
  else if t = 0 ∨ t = 1 then [(32 * d + j, BitVec.ofInt 32 (sintN (tyBits t) v))]
  else if t = 13 then [(32 * d + j, BitVec.ofNat 32 (v / 2 ^ 13 * 2 ^ 13))]
  else [(32 * d + j, BitVec.ofNat 32 (atWidth t v))]

/-- The vector registers a field of type `t` names. -/
def regsOf (t f : Nat) : List RegRef := if tyPair t then [.v f, .v (f + 1)] else [.v f]

end Sys2Proof.Machine
end

