-- ==== Sys2Proof/Machine/Flags.lean ====
section
/-!
DEFINITION. The flag computations: FFLAGS (R42, R92), the flags an accumulator tile gathers (R43), FCTL (R41), and the
comparisons of the integer words.
-/
namespace Sys2Proof.Machine

/-- OR flags into FFLAGS (R42). -/
def Group.orFlags (g : Group) (fl : Nat) : Group := { g with fflags := g.fflags ||| fl }

/-- OR flags into those of a tile (R43). -/
def Acc.orFlags (a : Acc) (fl : Nat) : Acc := { a with flags := a.flags ||| fl }

/-- DRND as a write stores it: codes 101 to 111 store 000 (R41). -/
def drndOf (v : Nat) : Nat := if v % 8 ≤ 4 then v % 8 else 0

/-- The rounding mode of a lane word, dyn read from FCTL (R41, R52). -/
def Group.rnd (g : Group) (w : LaneW) : Rnd := Rnd.ofCode g.fctl w.rnd.toNat

/-- Order of two integers of width `w`, signed or natural. -/
def icmp (signed : Bool) (w a b : Nat) : Int :=
  if signed then (sintN w a - sintN w b).sign else (((a % 2 ^ w : Nat) : Int) - ((b % 2 ^ w : Nat) : Int)).sign

/-- Whether `a cc b` holds at width `w` (R101, R129, R152). -/
def icond (signed : Bool) (w cc a b : Nat) : Bool := ccHolds cc (icmp signed w a b)

end Sys2Proof.Machine
end

