-- ==== Sys2Proof/Machine/Rules.lean ====
section
/-! DEFINITION. The moves of the rewrite stage (R244) and the form of rule table images (R248, R249). -/
namespace Sys2Proof.Machine

/-- Class of a move: 0 E, 1 F, 2 N (R244). -/
def moveClass (m : Nat) : Nat :=
  if m = 0x06 ∨ m = 0x08 ∨ m = 0x0B then 2 else if m = 0x07 ∨ m = 0x09 ∨ m = 0x0A then 1 else 0

/-- Moves with an MMA origin, with an origin that names a slot, and with no valid-count origin (R248). -/
def moveMma (m : Nat) : Bool := [0x06, 0x07, 0x0B, 0x0C, 0x0D, 0x13].contains m
def moveSlot (m : Nat) : Bool := m != 0x14
def moveNoCount (m : Nat) : Bool := [0x01, 0x02, 0x08, 0x09, 0x0A, 0x10].contains m
/-- Moves that need power-of-two scales. -/
def movePow (m : Nat) : Bool := [0x07, 0x09, 0x0A].contains m

/-- Whether an entry of 128 bits is malformed (R248, R249). -/
def ruleBad (e : Nat) : Bool :=
  let m := bits e 4 0
  bits e 127 120 != 0 || bits e 113 112 != 0 || bits e 7 5 != 0 || m == 0 || decide (0x14 < m) ||
    bits e 119 118 != moveClass m || (bits e 117 117 == 1) != (m == 0x0B) ||
    bits e 116 115 == 3 || (bits e 116 115 == 1) != movePow m ||
    decide (128 < bits e 111 104) || decide (bits e 111 104 < bits e 103 96) || bits e 63 32 == 0 ||
    (!moveMma m && bits e 95 64 != 0xFFFFFFFF) || (!moveSlot m && bits e 31 16 != 0xFFFF) ||
    (moveNoCount m && (bits e 103 96 != 0 || bits e 111 104 != 128))

/-- Whether a header is malformed: VERS, NENT and the reserved bits (R248, R249). -/
def ruleHeadBad (h : Nat) : Bool := bits h 15 0 != 1 || decide (64 < bits h 23 16) || bits h 127 24 != 0

/-- The index of the first malformed entry. -/
def ruleFirstBad (es : List Nat) : Option Nat := (List.range es.length).find? fun i => ruleBad (es.getD i 0)

end Sys2Proof.Machine
end

