-- ==== Sys2Proof/Machine/Rewrite.lean ====
section
/-!
DEFINITION. Slots and shapes (R212, R218, R219) and the decisions of the rewrite stage (R240 to R250): patterns of the
moves over the words as written, and what replaces them.
-/
namespace Sys2Proof.Machine

/-! ### Formats in slots and banks -/

/-- Format class (R53, R212): 0 32-bit, 1 16-bit, 2 8-bit, 3 narrow, 4 sparse. -/
def fmtClass (f : Nat) : Nat :=
  if f ≤ 0x01 then 0
  else if f ≤ 0x03 ∨ f = 0x10 then 1
  else if f ≤ 0x07 ∨ f = 0x0C ∨ f = 0x11 ∨ f = 0x12 ∨ f = 0x1B then 2
  else if 0x1C ≤ f then 4
  else 3

/-- Columns of a slot (R212). -/
def slotCols (f : Nat) : Nat :=
  match fmtClass f with
  | 0 => 64
  | 1 | 2 => 128
  | 3 => 256
  | _ => if f = 0x1C ∨ f = 0x1F then 128 else 256

/-- Bits of an element in a slot or a shape: a record for a sparse format (R80, R213). -/
def recBits (f : Nat) : Nat := if fmtClass f = 4 then 2 * fmtBits f + 4 else fmtBits f

/-- Bytes of a row (R212). -/
def rowPitch (f : Nat) : Nat :=
  match fmtClass f with
  | 0 | 1 => 256
  | 2 => 128
  | 3 => 32 * fmtBits f
  | _ => slotCols f * recBits f / 8

/-- N of a bank (R228). -/
def bankN (f : Nat) : Nat :=
  match fmtClass (denseOf f) with
  | 0 | 1 => 64
  | 2 => 128
  | _ => 256

/-- Whether TRANS and LDW.t accept a format (R226, R237). -/
def transposable (f : Nat) : Bool := fmtClass f == 1 || fmtClass f == 2

/-- Element (r, c) of rows. -/
def elemAt (rows : Cells Nat) (w r c : Nat) : Nat := cget 0 rows r / 2 ^ (w * c) % 2 ^ w

/-! ### Shapes -/

/-- A shape record (R218). -/
structure Shape where
  fmt : Nat
  cols : Nat
  rows : Nat
  cstr : Nat
  rstr : Nat
  off : Nat
  deriving DecidableEq, Repr, Inhabited

def KObj.shape (k : KObj) (i : Nat) : Option Shape :=
  (k.shapes[i]?).map fun n =>
    { fmt := bits n 109 105, cols := bits n 104 96, rows := bits n 95 88, cstr := bits n 87 64, rstr := bits n 55 32,
      off := bits n 31 0 }

/-- Element indexes of `rows` by `cols` elements, row by row (R219). -/
def Shape.elems (sh : Shape) (o rows cols : Nat) : List Nat :=
  (List.range rows).flatMap fun r => (List.range cols).map fun c => sh.off + o + r * sh.rstr + c * sh.cstr

/-- Byte ranges of elements of `w` bits, runs joined. -/
def bitRuns (w : Nat) : List Nat → List (Nat × Nat) → List (Nat × Nat)
  | [], acc => acc.reverse
  | e :: l, (s, n) :: acc => if w * e = s + n then bitRuns w l ((s, n + w) :: acc) else bitRuns w l ((w * e, w) :: (s, n) :: acc)
  | e :: l, [] => bitRuns w l [(w * e, w)]
def byteRanges (w : Nat) (es : List Nat) : List (Nat × Nat) :=
  (bitRuns w es []).map fun x => (x.1 / 8, (x.1 + x.2 + 7) / 8 - x.1 / 8)

/-! ### What words name -/

/-- Valid count clamped to 128 (R248). -/
def vc (n : Nat) : Nat := min n 128

/-- The slot, bank, tile and shape that a word names. -/
def TileOp.slot : TileOp → Option Nat
  | .ldslot m .. | .stslot m .. | .trans m | .scale m .. | .untag m => some m
  | .ldw _ m .. | .mma _ m .. => some m
  | _ => none
def TileOp.bank : TileOp → Option Nat
  | .ldw b .. | .mma _ _ b .. | .rload _ b .. => some b
  | _ => none
def TileOp.acc : TileOp → Option Nat
  | .mma a .. | .aload a .. | .adrainSp a .. | .adrainReg a .. | .rload a .. => some a
  | _ => none
def TileOp.shapeIx : TileOp → Option Nat
  | .ldslot _ sh .. | .stslot _ sh _ | .aload _ sh .. | .adrainSp _ sh .. | .tblw _ sh _ => some sh
  | _ => none
/-- The address of the scale vector of a word. -/
def TileOp.vec : TileOp → Option Nat
  | .scale _ _ addr => some addr
  | .ldw _ _ _ _ cs => cs
  | .mma _ _ _ _ _ _ _ _ rs => rs
  | _ => none
/-- The valid count of a word that has one. -/
def TileOp.count : TileOp → Option Nat
  | .ldslot _ _ _ v | .mma _ _ _ _ v .. | .adrainSp _ _ _ v .. => some (vc v)
  | _ => none

/-! ### Predicted tags and banks (R241) -/

def Pred.tag (p : Pred) (m : Nat) : Option (Nat × Nat × Nat) := aget? p.tags m
def Pred.bank (p : Pred) (b : Nat) : BankTag := agetD {} p.banks b

/-- A slot's contents change: a bank loaded from it no longer matches it. -/
def Pred.touch (p : Pred) (m : Nat) : Pred :=
  { p with banks := p.banks.map fun x => (x.1, if x.2.src = some m then { x.2 with src := none } else x.2) }

/-- The tags and banks that stand. -/
def Wg.pred (x : Wg) : Pred :=
  { tags := x.slots.filterMap fun s => s.2.tag.map fun t => (s.1, t)
    banks := x.banks.map fun b => (b.1, { loaded := b.2.loaded, fmt := b.2.fmt, n := b.2.n, src := b.2.src }) }

/-- The tags and banks after a word as written. -/
def Pred.after (k : KObj) (p : Pred) : TileOp → Pred
  | .ldslot m sh _ v =>
    match k.shape sh with
    | some r => ({ p with tags := aput p.tags m (r.fmt, min v r.rows, r.cols) } : Pred).touch m
    | none => p
  | .trans m =>
    match p.tag m with
    | some (f, rv, cv) => if transposable f then ({ p with tags := aput p.tags m (f, cv, rv) } : Pred).touch m else p
    | none => p
  | .scale m _ _ => p.touch m
  | .ldw b m _ t _ =>
    match p.tag m with
    | some (f, _, _) =>
      if t && !transposable f then p
      else { p with banks := aput p.banks b { loaded := true, fmt := f, n := bankN f, src := if t then none else some m } }
    | none => p
  | .rload _ b f .. => { p with banks := aput p.banks b { loaded := true, fmt := f, n := 64 } }
  | .untag m => ({ p with tags := adel p.tags m } : Pred).touch m
  | _ => p

/-- Whether a word as written would raise a deferred fault from a tag, a bank state or a format (R243, item 5). -/
def Pred.faults (k : KObj) (x : Wg) (g : Nat) (p : Pred) : TileOp → Bool
  | .stslot m sh _ =>
    match p.tag m, k.shape sh with
    | some (f, _, _), some r => f != r.fmt
    | _, _ => true
  | .trans m => match p.tag m with | some (f, _, _) => !transposable f | none => true
  | .scale m _ _ => match p.tag m with | some (f, _, _) => decide (0x0F < f) | none => true
  | .ldw _ m _ t _ => match p.tag m with | some (f, _, _) => t && !transposable f | none => true
  | .mma a m b .. =>
    match p.tag m with
    | none => true
    | some (f, _, _) =>
      let held (n : Nat) (l : Option Nat) : Bool := decide (n < 16) && l == some g
      let pair := held (m + 1) (agetD {} x.slots (m + 1)).holder && ((p.tag (m + 1)).map Prod.fst) == some f
      fmtClass f == 4 || (fmtClass f == 0 && !pair) || !(p.bank b).loaded ||
        !((List.range ((p.bank b).n / 64)).all fun t => t == 0 || held (a + t) (agetD {} x.accs (a + t)).holder)
  | _ => false

/-! ### Reads and writes (R243, item 3) -/

/-- A slot, bank or tile. -/
inductive Res where
  | slot (m : Nat) | bank (b : Nat) | tile (a : Nat)
  deriving DecidableEq, Repr

/-- What a word as written reads and writes; a scratchpad ADRAIN counts as reading and writing its tile. -/
def Pred.uses (p : Pred) (op : TileOp) : List Res × List Res :=
  let span (a b : Nat) : List Res := (List.range (max 1 ((p.bank b).n / 64))).map fun t => .tile (a + t)
  match op with
  | .ldslot m .. => ([], [.slot m])
  | .stslot m .. => ([.slot m], [])
  | .trans m | .scale m .. => ([.slot m], [.slot m])
  | .ldw b m .. => ([.slot m], [.bank b])
  | .mma a m b _ _ _ _ ow _ =>
    let pair := ((p.tag m).map fun t => fmtClass t.1) == some 0
    (.bank b :: .slot m :: ((if pair then [.slot (m + 1)] else []) ++ (if ow then [] else span a b)), span a b)
  | .aload a .. => ([], [.tile a])
  | .adrainSp a .. | .adrainReg a .. => ([.tile a], [.tile a])
  | _ => ([], [])

/-- The scratchpad elements that a word as written touches: element bits and indexes. -/
def Pred.positions (k : KObj) (p : Pred) (op : TileOp) : Nat × List Nat :=
  let of (sh o : Nat) (rows cols : Shape → Nat) : Nat × List Nat :=
    match k.shape sh with
    | some r => (recBits r.fmt, r.elems o (rows r) (cols r))
    | none => (1, [])
  match op with
  | .ldslot _ sh o v => of sh o (fun r => min v r.rows) (·.cols)
  | .stslot m sh o =>
    (match p.tag m with
     | some (_, rv, cv) => of sh o (fun r => min rv r.rows) (fun r => min cv r.cols)
     | none => (1, []))
  | .aload _ sh o _ => of sh o (·.rows) (·.cols)
  | .adrainSp _ sh o v .. => of sh o (fun r => min v r.rows) (·.cols)
  | .tblw _ sh o => of sh o (·.rows) (·.cols)
  | _ => (1, [])

/-- Bytes of the scale vector that a word as written reads. -/
def Pred.vecBytes (p : Pred) (op : TileOp) : List (Bool × Nat × Nat) :=
  let n := match op with
    | .scale m col _ => (p.tag m).map fun t => if col then t.2.2 else t.2.1
    | .ldw _ m _ t _ => (p.tag m).map fun x => min (if t then x.2.1 else x.2.2) (bankN x.1)
    | .mma _ _ _ _ v .. => some (vc v)
    | _ => none
  match op.vec, n with
  | some a, some n => [(false, a, 4 * n)]
  | _, _ => []

/-- Bytes that a word as written reads or writes (R243, item 4), named as a core at pitch core index `at'` names them. -/
def Pred.bytes (k : KObj) (at' : Nat) (p : Pred) (op : TileOp) : List (Bool × Nat × Nat) :=
  let (w, es) := p.positions k op
  (byteRanges w es).map (fun r => (true, ownOff at' r.1, r.2)) ++ p.vecBytes op

/-- A word with its valid count as it is compared (R248). -/
def TileOp.clamp : TileOp → TileOp
  | .ldslot m sh o v => .ldslot m sh o (vc v)
  | .adrainSp a sh o v f r t => .adrainSp a sh o (vc v) f r t
  | op => op

/-! ### Patterns (R244) -/

/-- A word as written with the state before it. -/
abbrev Seen := Origin × Pred

/-- The words as written with the states before them. -/
def seenFrom (k : KObj) : Pred → List Origin → List Seen
  | _, [] => []
  | p, o :: l => (o, p) :: seenFrom k (p.after k o.op) l

/-- Whether every element that `b` reads lies at a position that `a` writes. -/
def within (k : KObj) (a b : Seen) : Bool :=
  let (wa, ea) := a.2.positions k a.1.op
  let (wb, eb) := b.2.positions k b.1.op
  wa == wb && eb.all ea.contains

/-- Whether the shape of a word has format `f`. -/
def shapeFmt (k : KObj) (op : TileOp) : Option Nat := (op.shapeIx.bind k.shape).map (·.fmt)

/-- Two-origin moves. -/
def match2 (k : KObj) (mv : Nat) (a b : Seen) : Bool :=
  match mv, a.1.op, b.1.op with
  | 0x01, .trans m, .trans n => m == n
  | 0x02, .trans m, .ldw _ n .. => m == n
  | 0x03, .trans m, .ldslot n .. => m == n
  | 0x04, .ldslot m sh .., .trans n => m == n && ((k.shape sh).map fun r => transposable r.fmt) == some true
  | 0x05, .ldslot m .., .ldw _ n .. => m == n
  | 0x06, .scale m false _, .mma _ n _ _ v _ _ _ none
  | 0x07, .scale m false _, .mma _ n _ _ v _ _ _ none =>
    m == n && (match b.2.tag n with | some (f, rv, _) => decide (vc v ≤ rv) && fmtClass f != 0 | none => false)
  | 0x08, .scale m col _, .ldw _ n _ t none | 0x09, .scale m col _, .ldw _ n _ t none => m == n && col != t
  | 0x0A, .scale m c _, .scale n d _ => m == n && c == d
  | 0x0C, .mma a1 _ b1 _ v1 .., .mma a2 _ b2 _ v2 _ _ ow2 _ =>
    a1 == a2 && !ow2 && vc v1 == vc v2 && (a.2.bank b1).n == (b.2.bank b2).n
  | 0x0E, .adrainSp _ _ _ _ f .., .ldslot .. => shapeFmt k b.1.op == some f && within k a b
  | 0x0F, .stslot .., .ldslot .. => shapeFmt k b.1.op == shapeFmt k a.1.op && within k a b
  | 0x10, .ldw b1 m1 c1 t1 s1, .ldw b2 m2 c2 t2 s2 => b1 == b2 && m1 == m2 && c1 == c2 && t1 == t2 && s1 == s2
  | 0x11, .ldslot .., .ldslot .. => a.1.op.clamp == b.1.op.clamp
  | 0x12, .ldslot m .., .ldslot n .. => m == n
  | 0x14, .adrainSp .., .adrainSp .. => a.1.op.clamp == b.1.op.clamp
  | _, _, _ => false

/-- One-origin moves. -/
def match1 (mv : Nat) (a : Seen) : Bool :=
  match mv, a.1.op with
  | 0x0D, .mma _ _ _ _ v .. => v == 0
  | 0x13, .mma _ _ _ _ _ na nb .. => na && nb
  | _, _ => false

/-- RASSOC (R247). -/
def match4 (k : KObj) (c1 c2 c3 c4 : Seen) : Bool :=
  match c1.1.op, c2.1.op, c3.1.op, c4.1.op with
  | .mma aP _ b1 _ v1 false false true none, .adrainSp aD sh o v2 f _ _, .ldslot mX sh2 o2 v3,
      .mma _ mY b2 _ v4 false false _ none =>
    aP == aD && mX == mY && vc v1 == vc v2 && vc v2 == vc v3 && vc v3 == vc v4 && (c1.2.bank b1).n == 64 && (c4.2.bank b2).n == 64 &&
    (match k.shape sh, k.shape sh2 with
     | some r, some q =>
       q.fmt == f && min v2 r.rows == min v3 q.rows && r.cols == q.cols &&
         r.elems o (min v2 r.rows) r.cols == q.elems o2 (min v3 q.rows) q.cols
     | _, _ => false) &&
    (match (c4.2.bank b1).src with
     | some mB =>
       (c1.2.bank b1).src == some mB &&
         (match c1.2.tag mB with
          | some (fB, rv, cv) => fmtClass fB != 4 && decide (cv ≤ 128) && decide (rv < v1)
          | none => false)
     | none => false)
  | _, _, _, _ => false

/-- The filter of an entry over the origins (R248, R252). SHAPE of RASSOC is judged by its ADRAIN, the origin that names a
shape (R250). -/
def entryOk (k : KObj) (e : Nat) (os : List Seen) : Bool :=
  let mv := bits e 4 0
  let vs := os.filterMap fun o => o.1.op.count
  let first := os.headD ({}, {})
  let shaped := if mv = 0x0B then os.getD 1 first else first
  let af := match first.1.op with
    | .adrainSp _ _ _ _ f .. => some f
    | .ldslot .. => shapeFmt k first.1.op
    | op => (op.slot.bind first.2.tag).map Prod.fst
  (match af with | some f => natBit (bits e 63 32) f | none => false) &&
  os.all (fun o => match o.1.op with | .mma _ _ b .. => natBit (bits e 95 64) (o.2.bank b).fmt | _ => true) &&
  os.all (fun o => match o.1.op.slot with | some m => natBit (bits e 31 16) m | none => true) &&
  (!natBit e 15 || shaped.1.op.shapeIx == some (bits e 14 8)) &&
  vs.all (fun v => decide (bits e 103 96 ≤ v) && decide (v ≤ bits e 111 104)) &&
  (!(natBit e 114 || mv == 0x0C) || vs.all (· == vs.headD 0)) &&
  (bits e 116 115 != 2 || os.all fun o => o.1.op.vec.isNone) &&
  (moveClass mv != 2 || os.all fun o => o.1.perm)

/-- The conditions of R243 over the words as written. -/
def r243 (k : KObj) (x : Wg) (y : Group) (g : Nat) (all os : List Seen) : Bool :=
  let nums := os.map (·.1.num)
  let lo := nums.headD 0
  let hi := nums.getLastD 0
  let mid := all.filter fun z => lo < z.1.num && z.1.num < hi && !nums.contains z.1.num
  os.all (fun o => !o.2.faults k x g o.1.op) &&
  mid.all (fun z => !z.1.pd.any nums.contains &&
    (let (rd, wr) := z.2.uses z.1.op
     os.all fun o =>
       let (ord, owr) := o.2.uses o.1.op
       if z.1.num < o.1.num then !wr.any ord.contains else !(rd ++ wr).any owr.contains)) &&
  (y.laneWr.all fun l => !(lo ≤ l.1 && l.1 < hi) ||
    !os.any fun o => (o.2.bytes k x.pos o.1.op).any fun b => l.2.any fun c =>
      b.1 == c.1 && decide (b.2.1 < c.2.1 + c.2.2) && decide (c.2.1 < b.2.1 + b.2.2))

/-- The pattern of an entry that starts at `c`, its later origins among the undecided words `rest`, lowest first (R240). -/
def findPattern (k : KObj) (x : Wg) (y : Group) (g : Nat) (all : List Seen) (c : Seen) (rest : List Seen) (e : Nat) :
    Option (List Seen) :=
  let mv := bits e 4 0
  let ok (os : List Seen) : Bool := entryOk k e os && r243 k x y g all os
  if mv = 0x0D ∨ mv = 0x13 then (if match1 mv c && ok [c] then some [c] else none)
  else if mv = 0x0B then
    (rest.flatMap fun a => rest.flatMap fun b => rest.map fun d => [c, a, b, d]).find? fun os =>
      (match os with
       | [p, q, r, t] => decide (p.1.num < q.1.num ∧ q.1.num < r.1.num ∧ r.1.num < t.1.num) && match4 k p q r t
       | _ => false) && ok os
  else (rest.map fun a => [c, a]).find? fun os => (match os with | [p, q] => match2 k mv p q | _ => false) && ok os

/-! ### Replacements (R244, R247) -/

/-- What a move runs, whole and in order: moves of class E and F run origins as written, which they equal to the bit
(R244, R245). For RASSOC, mB is decoded as the A stream of step 1 by the code table that c1 names, at the generation that
is current when the replacement issues; R247 does not say which table it is (DESIGN CHOICE, log entry 67). -/
def replacement (mv : Nat) (os after : List Seen) : List TileOp :=
  let ops := os.map (·.1.op)
  match mv, ops with
  | 0x01, _ | 0x0D, _ => []
  | 0x03, [_, c2] | 0x12, [_, c2] => [c2]
  | 0x10, [c1, _] | 0x11, [c1, _] | 0x14, [c1, _] => [c1]
  | 0x06, [.scale m _ v, .mma a n b ct vl na nb ow _] =>
    let dead := (match (after.find? fun z => z.1.op.slot == some m).map (·.1.op) with
      | some (.ldslot ..) => true
      | _ => false)
    .mma a n b ct vl na nb ow (some v) :: (if dead then [] else ops.take 1)
  | 0x08, [.scale _ _ v, .ldw b n ct t _] => .ldw b n ct t (some v) :: ops.take 1
  | 0x0B, [.mma aP mA b1 ct v _ _ _ _, .adrainSp _ _ _ _ f rnd sat, .ldslot mX .., .mma aQ _ b2 _ _ _ _ ow _] =>
    let p := (os.headD ({}, {})).2
    let mB := (p.bank b1).src.getD 0
    let rv := ((p.tag mB).map fun t => t.2.1).getD 0
    [.mma aP mB b2 ct rv false false true none, .rload aP b1 f rnd sat rv, .mma aQ mA b1 ct v false false ow none,
     .untag mX]
  | _, _ => ops

/-! ### Deciding (R240) -/

/-- A word that is a flush point as written (R242, R250). -/
def TileOp.flushes (rules : List Nat) : TileOp → Bool
  | .tblw .. | .aload .. | .adrainReg .. => true
  | .adrainSp _ sh .. =>
    !rules.any fun e => natBit e 15 && bits e 14 8 == sh && [0x0E, 0x14, 0x0B].contains (bits e 4 0)
  | _ => false

/-- Whether word `n` is undecided in the window. -/
def Group.undecided (y : Group) (n : Nat) : Bool :=
  y.cmds.any fun c => c.st == .undecided && (c.origins.map (·.num)).contains n

/-- Words no longer needed leave the history; the state before the rest moves on with them. -/
def Group.prune (k : KObj) (y : Group) : Group :=
  go y y.hist
where
  go (y : Group) : List Origin → Group
    | [] => { y with hist := [], laneWr := [] }
    | o :: l =>
      if y.undecided o.num then { y with hist := o :: l, laneWr := y.laneWr.filter fun w => o.num ≤ w.1 }
      else go { y with base := y.base.map fun p => p.after k o.op } l

/-- Decide the oldest undecided word of a group: the first entry with a pattern, else itself (R240). -/
def Group.decideOne (k : KObj) (x : Wg) (g : Nat) (y : Group) : Group :=
  match y.hist.find? fun o => y.undecided o.num with
  | none => y
  | some o =>
    let all := seenFrom k (y.base.getD {}) y.hist
    match all.find? fun z => z.1.num == o.num with
    | none => y
    | some c =>
      let rest := all.filter fun z => o.num < z.1.num && y.undecided z.1.num && !z.1.op.flushes x.rules
      let hit : Option (Nat × List Seen) := if o.op.flushes x.rules then none else
        x.rules.findSome? fun e => (findPattern k x y g all c rest e).map fun os => (bits e 4 0, os)
      let y1 : Group := match hit with
        | none => { y with cmds := y.cmds.map fun (m : TileCmd) =>
            if (m.origins.map (·.num)).contains o.num then { m with st := .decided } else m }
        | some (mv, os) =>
          let nums : List Nat := os.map (·.1.num)
          let last := nums.getLastD 0
          let after := all.filter fun z => last < z.1.num
          let new : TileCmd :=
            { origins := os.map (·.1), move := mv, ops := replacement mv os after, st := .decided }
          { y with cmds := y.cmds.flatMap fun (m : TileCmd) =>
              if (m.origins.map (·.num)).contains o.num then [new]
              else if m.origins.any fun z => nums.contains z.num then [] else [m] }
      y1.prune k

/-- Decide every undecided word: there are at most as many as commands. -/
def Group.decideAll (k : KObj) (x : Wg) (g : Nat) (y : Group) : Nat → Group
  | 0 => y
  | n + 1 => (y.decideOne k x g).decideAll k x g n

/-- What commands whose effect has not taken place will run. -/
def Group.unapplied (y : Group) : List TileOp :=
  y.cmds.flatMap fun c =>
    if c.st = .inArray ∨ c.st = .done then [] else if c.move = 0 then c.origins.map (·.op) else c.ops

/-- The state that stands at a flush point: as the words not yet run will leave it (R241). -/
def standing (k : KObj) (x : Wg) (y : Group) : Pred := y.unapplied.foldl (fun p o => p.after k o) x.pred

/-- A cut of a group's window (R242, R254): everything is decided, and the stage judges from the state that stands. -/
def State.cut (s : State) (g : GrpId) : State :=
  let k := (s.grid g.c).k
  let x := s.wg g.wg
  s.modGroup g fun y =>
    let y1 := y.decideAll k x g.g y.cmds.length
    { y1 with base := some (standing k x y1), hist := [], laneWr := [] }

/-- The stage follows a claim or a release of slot `m`, which tags it none, at its place in the stream (R215, R241). -/
def Group.follow (k : KObj) (y : Group) (m : Nat) : Group :=
  ({ y with hist := y.hist ++ [{ num := y.lastNum, op := .untag m }] } : Group).prune k

/-- A flush point of the scalar stream: it cuts between the blocks queued before it and those queued after it (R242). -/
def State.flushPoint (s : State) (g : GrpId) : State := s.modGroup g fun y => { y with flushMark := true }

/-- A timed cut (R242, R254): the position of each is captured where its node is recorded; a re-run makes the captured
ones alone (R424). -/
def State.timedCut (s : State) (g : GrpId) : State :=
  let y := s.group g
  let e : CapEv := .cut g.w g.g y.lastNum
  match (s.grid g.c).rerun with
  | none => (s.capture (s.grid g.c).cap e).cut g
  | some _ => if s.nextInput g.c e.key = some e then (s.useInput g.c e).cut g else s

/-- The captured cut of a re-run that falls before the next tile word of a group (R424). -/
def State.dueCut (s : State) (g : GrpId) : State := if (s.grid g.c).rerun.isSome then s.timedCut g else s

/-- The timed cut of every group of a workgroup. -/
def State.cutAll (s : State) (w : WgId) : State := (s.groupsOf w).foldl State.timedCut s

end Sys2Proof.Machine
end

