-- ==== Sys2Proof/Machine/L2.lean ====
section
/-!
DEFINITION. L2 ways (R395, R397, R398, R402 to R405): where a line is cached, which ways a miss may fill, and the utility
monitor's shadow tags. What a read returns does not depend on them (R405).
-/
namespace Sys2Proof.Machine

/-- The slice of a line, at its home die and in the remote ways of another (R395). -/
def lineSlice (line : Nat) : Nat := bits line 4 0 ^^^ bits line 9 5 ^^^ bits line 14 10 ^^^ bits line 19 15

/-- The set of a line in its slice: 2,048 sets of 16 ways (R1), taken from the address bits above those that name the line's
slice group (log entry 66). -/
def lineSet (line : Nat) : Nat := line / 32 % 2048

/-- Whether a line is homed at the host, and the die whose slice serves a line for an agent of die `d` (R395). -/
def hostLine (line : Nat) : Bool := natBit line 44
def homeDie (d line : Nat) : Nat := if hostLine line then d else line / 2 ^ 31 % 4

/-- PMASK of a partition in a slice, as a read answers it (R402). -/
def Die.mask (d : Die) (slice p : Nat) : Nat := cget 0 d.pmask (16 * slice + p)
/-- Ways of a mask, ascending. -/
def waysOf (m : Nat) : List Nat := onesOf 16 m

/-- The ways in which a line may be filled: the remote ways for a line of another die, else those of the partition that
misses (R397, R402, R405). A slice of a gated chiplet fills none; a chiplet holds 16 slices. -/
def Die.fillWays (d : Die) (slice : Nat) (remote : Bool) (p : Option Nat) : List Nat :=
  if d.gatedChiplets.contains (slice / 16) then []
  else
    (if remote then (List.range d.rways).map (16 - d.rways + ·) else match p with | some p => waysOf (d.mask slice p) | none => []).filter
      fun w => !d.retiredWays.contains (slice, w)

/-- The lines of a set. -/
def Die.setLines (d : Die) (slice set : Nat) : List L2Line := agetD [] d.l2 (slice, set)

/-- The shadow tags of a sampled set see an access of a partition: a hit is counted at its recency position (R404). -/
def Die.sample (d : Die) (p line : Nat) : Die :=
  let slice := lineSlice line
  let set := lineSet line
  if set % 64 ≠ 0 then d
  else
    let tags := agetD [] d.shadow (slice, set, p)
    let k := 512 * slice + 32 * p + tags.findIdx (· == line)
    { d with
      hits := if tags.contains line then cset 0 d.hits k (cget 0 d.hits k + 1) else d.hits
      shadow := aput d.shadow (slice, set, p) ((line :: tags.erase line).take 16) }

/-- A partition's access to a line homed on the die is sampled there (R404). -/
def State.sample (s : State) (die line : Nat) (p : Option Nat) : State :=
  match p with
  | some p => if homeDie die line = die then s.modDie die fun d => d.sample p line else s
  | none => s

/-- A remote line leaves the ways of a die; the home forgets the die as a sharer. -/
def State.leaveDie (s : State) (die line : Nat) : State :=
  s.modDir line fun e => { e with dies := e.dies.filter (· != die) }

/-- An access reaches L2 of a die: a hit, or a fill of a free way or of one that a choice evicts; a dirty victim is written
back (R405). With no way to fill, it bypasses L2. A remote victim of whose line the die's L1s hold copies stays. -/
def State.l2Access (s : State) (die line : Nat) (p : Option Nat) (write : Bool) : State :=
  let slice := lineSlice line
  let set := lineSet line
  let remote : Bool := homeDie die line != die
  let s0 := s.sample die line p
  let d := s0.die die
  let ls := d.setLines slice set
  let put (s : State) (ls : List L2Line) : State := s.modDie die fun d => { d with l2 := aput d.l2 (slice, set) ls }
  if ls.any fun x => x.line == line then
    if write then put s0 (ls.map fun x => if x.line = line then { x with dirty := true } else x) else s0
  else
    let ways := d.fillWays slice remote p
    let new (w : Nat) : L2Line := { way := w, line := line, dirty := write }
    match ways.find? fun w => !(ls.any fun x => x.way == w) with
    | some w => put s0 (ls ++ [new w])
    | none =>
      let held (x : L2Line) : Bool := remote && ((s0.dirEnt x.line).l1.any fun y => y.1.die == die)
      match ls.filter fun x => ways.contains x.way && !held x with
      | [] => s0
      | v :: vs =>
        let (k, s1) := if vs = [] then (0, s0) else s0.choose
        let x := (v :: vs).getD (k % (vs.length + 1)) v
        let s2 := if remote then s1.leaveDie die x.line else s1
        put s2 ((ls.filter (· != x)) ++ [new x.way])

/-- Whether the remote ways of a die hold a line. -/
def State.inL2 (s : State) (die line : Nat) : Bool := ((s.die die).setLines (lineSlice line) (lineSet line)).any fun x => x.line == line

/-- The partition of a context's virtual function (R402). -/
def State.partOf (s : State) (c : Nat) : Nat := (agetD {} s.fe.vfs (s.grid c).vf).part

/-- An access of a core of context `c` misses L1: it is served by the remote ways of its die, when the line is homed on
another die and they take it, and by the home slice (R397). -/
def State.l2Miss (s : State) (c die line : Nat) (write : Bool) : State :=
  let home := homeDie die line
  let s1 := if home ≠ die ∧ (s.die die).rways ≠ 0 then
      let s1 := s.l2Access die line none write
      if s1.inL2 die line then s1.modDir line fun e => { e with dies := if e.dies.contains die then e.dies else e.dies ++ [die] } else s1
    else s
  s1.l2Access home line (some (s.partOf c)) write

/-- Lines leave L2 of a die where `p` selects them by slice and line: they are at their homes, and a remote one is no
longer held there (R398, R421). -/
def State.l2Drop (s : State) (die : Nat) (p : Nat → L2Line → Bool) : State :=
  let gone := (s.die die).l2.flatMap fun x => x.2.filter (p x.1.1)
  let s1 := s.modDie die fun d => { d with l2 := (d.l2.map fun x => (x.1, x.2.filter fun y => !p x.1.1 y)).filter fun x => x.2 != [] }
  (gone.filter fun y => homeDie die y.line != die).foldl (fun s y => s.leaveDie die y.line) s1

end Sys2Proof.Machine
end

