-- ==== Sys2Proof/Machine/Mem.lean ====
section
/-!
DEFINITION. What memory an agent sees and when a write performs (R277 to R297): home memory, stores accepted by a core
and not performed, L1 sharers with their read-in-phase bits, and stale-pending copies.
-/
namespace Sys2Proof.Machine

/-- The line of a physical address (R278). -/
def lineOf (pa : Nat) : Nat := pa / 128

/-- The one write of home memory. A granule written whole loses its poison mark (R416). -/
def State.writeMem (s : State) (pa : Nat) (bs : List Byte) : State :=
  let whole (g : Nat) := pa ≤ 32 * g ∧ 32 * g + 32 ≤ pa + bs.length
  { s with mem := csetList 0 s.mem pa bs, poison := s.poison.filter fun g => !decide (whole g) }

/-- A write replaces parcels of code that instruction caches may hold: a later fetch may still find the old ones (R69,
R273). -/
def State.noteCode (s : State) (pa : Nat) (bs : List Byte) : State :=
  if s.grids.any fun g => g.2.code.contains (lineOf pa) then
    let ks := (List.range ((pa + bs.length + 3) / 4 - pa / 4)).map (pa / 4 + ·)
    { s with oldCode := s.oldCode ++ (ks.map fun k => (k, ofBytes (cgetList 0 s.mem (4 * k) 4))).filter fun x => !s.oldCode.contains x }
  else s

/-- Bytes at their home. -/
def State.memBytes (s : State) (pa n : Nat) : List Byte := cgetList 0 s.mem pa n
/-- A little-endian number at its home. -/
def State.memNat (s : State) (pa n : Nat) : Nat := ofBytes (s.memBytes pa n)

/-- Whether any byte of a range lies in a poisoned granule; the first such byte (R416). -/
def State.poisonAt (s : State) (pa n : Nat) : Option Nat :=
  ((List.range n).map (pa + ·)).find? fun x => s.poison.contains (x / 32)

/-! ### Views -/

/-- The first watched address among `n` bytes at a virtual address (R300, WATCH). -/
def State.watchHit (s : State) (va n : Nat) : Option Nat := s.watched.find? fun x => decide (va ≤ x) && decide (x < va + n)

/-- Two byte ranges meet. -/
def overlap (a n b m : Nat) : Bool := a < b + m && b < a + n

/-- The lines of a byte range, in ascending order. -/
def linesOf (pa n : Nat) : List Nat := (List.range ((pa + n + 127) / 128 - pa / 128)).map (pa / 128 + ·)

/-- A byte under the stores of `ps`, oldest first. -/
def overlay (ps : List PStore) (x : Nat) (b : Byte) : Byte :=
  ps.foldl (fun b p => if p.pa ≤ x ∧ x < p.pa + p.data.length then p.data.getD (x - p.pa) b else b) b

/-- The virtual function whose wake aperture holds a physical address, and the offset in it (R329). -/
def State.aperture? (s : State) (pa : Nat) : Option (Nat × Nat) :=
  (s.fe.vfs.find? fun v => v.2.wakeBase != 0 && v.2.wakeBase ≤ pa && pa < v.2.wakeBase + 32768).map fun v =>
    (v.1, pa - v.2.wakeBase)

/-- The stores of a core that have performed at its L1 and not at their home (R281, R282). -/
def State.l1Stores (s : State) (w : WgId) : List PStore :=
  s.pend.filter fun p => p.src == w && p.trk && !p.again && (s.aperture? p.pa).isNone

/-- A byte of the L1 copy of a core: what its home holds, unless an untracked write has left the copy as it was (R295). -/
def State.copyByte (s : State) (c : CoreId) (x : Nat) : Byte :=
  match aget? (s.dirEnt (lineOf x)).copy c with
  | some d => d.getD (x % 128) 0
  | none => cget 0 s.mem x

/-- A byte as a core sees it through L1: its own accepted stores over its copy (R281, R282). -/
def State.coreByte (s : State) (w : WgId) (x : Nat) : Byte := overlay (s.l1Stores w) x (s.copyByte (s.wg w).core x)

/-- The poisoned granules, 0 to 3, of a line as a core sees it: those of the home and of its copy, but for granules that one
of its own stores writes whole (R415, R416). -/
def State.coreBad (s : State) (w : WgId) (line : Nat) : List Nat :=
  let mine := agetD [] (s.dirEnt line).l1bad (s.wg w).core
  (List.range 4).filter fun i =>
    (s.poison.contains (4 * line + i) || mine.contains i) && !((s.l1Stores w).any fun p => p.whole.contains (4 * line + i))

/-- A byte that a group reads at its home, past L1: no store but its own is ahead of the home (R282, R372). -/
def State.homeByte (s : State) (g : GrpId) (x : Nat) : Byte :=
  overlay (s.pend.filter fun p => p.src == g.wg && p.grp == g.g && !p.trk && !p.again && (s.aperture? p.pa).isNone) x
    (cget 0 s.mem x)

def State.homeBytes (s : State) (g : GrpId) (pa n : Nat) : List Byte := (List.range n).map fun i => s.homeByte g (pa + i)

/-- The stale-pending copy of a line that a group holds (R287). -/
def Wg.staleOf (w : Wg) (g line : Nat) : Option Stale := w.stale.find? fun c => c.line = line ∧ c.holders.contains g

/-- Whether a page-table line among `ls` has been changed since `t` (R412). -/
def State.remapped (s : State) (ls : List Nat) (t : Nat) : Bool := ls.any fun l => (s.dirEnt l).pts.any fun p => decide (t ≤ p.2)

/-- The stale-pending copy from which a group reads a byte through a translation that came from the lines `ls`: one of a
line of its phase, unless the phase has not touched the byte and the translation is newer than the copy (R285, R412). -/
def State.staleAt (s : State) (g : GrpId) (ls : List Nat) (x : Nat) : Option Stale :=
  ((s.wg g.wg).staleOf g.g (lineOf x)).filter fun c =>
    natBit (cget 0 (s.group g).touch (lineOf x)) (x % 128) || !s.remapped ls c.time

/-- A byte as a group sees it in its phase (R285), through a translation that came from the lines `ls`. -/
def State.grpByte (s : State) (g : GrpId) (x : Nat) (ls : List Nat := []) : Byte :=
  match s.staleAt g ls x with
  | some c => c.data.getD (x % 128) 0
  | none => s.coreByte g.wg x

def State.grpBytes (s : State) (g : GrpId) (pa n : Nat) (ls : List Nat := []) : List Byte :=
  (List.range n).map fun i => s.grpByte g (pa + i) ls

/-- Whether what a group reads at a byte is poisoned (R416). -/
def State.grpBad (s : State) (g : GrpId) (ls : List Nat) (x : Nat) : Bool :=
  match s.staleAt g ls x with
  | some c => c.bad.contains (x % 128 / 32)
  | none => (s.coreBad g.wg (lineOf x)).contains (x % 128 / 32)

def State.coreBytes (s : State) (w : WgId) (pa n : Nat) : List Byte := (List.range n).map fun i => s.coreByte w (pa + i)

/-- A whole line as a core sees it. -/
def State.coreLine (s : State) (w : WgId) (line : Nat) : List Byte := s.coreBytes w (128 * line) 128

/-- The read-in-phase bits of a core's copy of a line. -/
def DirEnt.bitsOf (e : DirEnt) (c : CoreId) : List Nat := agetD [] e.l1 c

/-- A core's copy of a line is gone. -/
def DirEnt.drop (e : DirEnt) (c : CoreId) : DirEnt :=
  { e with l1 := adel e.l1 c, copy := adel e.copy c, l1bad := adel e.l1bad c }

/-- Groups that would lose their snapshot of a line: their bit is set and they hold no stale copy. -/
def State.inPhase (s : State) (w : WgId) (line : Nat) : List Nat :=
  ((s.dirEnt line).bitsOf (s.wg w).core).filter fun g => ((s.wg w).staleOf g line).isNone

/-- Whether a group has read or written a line in its phase (R285). -/
def State.touched (s : State) (g : GrpId) (line : Nat) : Bool :=
  ((s.wg g.wg).staleOf g.g line).isSome || ((s.dirEnt line).bitsOf (s.wg g.wg).core).contains g.g

/-- Keep the present contents of a line for the given groups (R287). -/
def State.keepStale (s : State) (w : WgId) (line : Nat) (gs : List Nat) : State :=
  if gs = [] then s
  else s.modWg w fun x => { x with
    stale := x.stale ++ [{ line := line, data := s.coreLine w line, bad := s.coreBad w line, holders := gs, time := s.clock }] }

/-- Copies counted against the 2,048 slots of the stale area (R287). -/
def Wg.areaUsed (w : Wg) : Nat := (w.stale.filter (·.inArea)).length

/-- Whether a core may acknowledge the invalidation of a line (R287). -/
def State.mayInvalidate (s : State) (c : CoreId) (line : Nat) : Bool :=
  match s.residentOn c with
  | none => true
  | some w => s.inPhase w line == [] || (s.wg w).areaUsed < Config.staleEvict

/-- An invalidation reaches a core's L1: stale-pending copies are kept and the copy is dropped (R287). -/
def State.invalidate (s : State) (c : CoreId) (line : Nat) : State :=
  let s1 := match s.residentOn c with
    | some w => s.keepStale w line (s.inPhase w line)
    | none => s
  s1.modDir line fun e => e.drop c

/-! ### Room in L1 (R287, R354) -/

/-- The lines that a core's L1 holds: copies, and stale-pending copies that are not in the stale area. -/
def State.l1Held (s : State) (c : CoreId) : List Nat :=
  ((s.dir.filter fun x => x.2.l1.any fun y => y.1 == c).map Prod.fst) ++
    (match s.residentOn c with
     | some w => ((s.wg w).stale.filter fun x => !x.inArea).map (·.line)
     | none => [])

/-- L1 of a core evicts a line: a copy that some group has read in its phase moves to the stale area, as does a
stale-pending copy; without room it stays, and so does a line with a store still to perform (R287). -/
def State.evictL1 (s : State) (core : CoreId) (line : Nat) : Option State :=
  match s.residentOn core with
  | none => some (s.modDir line fun e => e.drop core)
  | some w =>
    let x := s.wg w
    let keep := s.inPhase w line
    let here := x.stale.filter fun c => c.line == line && !c.inArea
    if (s.pend.any fun p => p.src == w && lineOf p.pa == line) ∨
        Config.staleEvict < x.areaUsed + here.length + (if keep = [] then 0 else 1) then none
    else
      let s1 := (s.keepStale w line keep).modWg w fun x => { x with
        stale := x.stale.map fun c => if c.line = line then { c with inArea := true } else c }
      some (s1.modDir line fun e => e.drop core)

/-- The lines that a core's L1 could evict now. -/
def State.victims (s : State) (core : CoreId) : List Nat := (s.l1Held core).filter fun l => (s.evictL1 core l).isSome

/-- Whether a core holds a line. -/
def State.hasLine (s : State) (c : CoreId) (line : Nat) : Bool := (s.dirEnt line).l1.any fun x => x.1 == c

/-- Whether an access to a line finds room in its core's L1: for as many new lines as one word may touch. -/
def State.l1Open (s : State) (w : WgId) (line : Nat) : Bool :=
  let c := (s.wg w).core
  s.hasLine c line || decide ((s.l1Held c).length + 32 ≤ s.l1Lines c) || decide (32 ≤ (s.victims c).length)

/-- A full L1 evicts a line, by a choice, for the one that comes in. -/
def State.makeRoom (s : State) (w : WgId) : State :=
  let c := (s.wg w).core
  if (s.l1Held c).length < s.l1Lines c then s
  else
    match s.victims c with
    | [] => s
    | v :: vs =>
      let (k, s1) := s.choose
      (s1.evictL1 c ((v :: vs).getD (k % (vs.length + 1)) v)).getD s1

/-- A workgroup's core caches a line; a line that it does not hold comes through L2, and a host that owns it serves it and
keeps it shared (R396, R397). `f` changes its read-in-phase bits (R287). -/
def State.cacheLine (s : State) (w : WgId) (line : Nat) (f : List Nat → List Nat := id) : State :=
  let c := (s.wg w).core
  let s1 := if s.hasLine c line then s else (s.makeRoom w).l2Miss w.c c.die line false
  s1.modDir line fun e => { e with
    l1 := aput e.l1 c (f (e.bitsOf c)), st := if e.st = .i then .s else e.st
    host := match e.host with | .m => .o | .e => .s | h => h }

/-- The bytes of a line from `pa` on, as a mask. -/
def lineMask (pa n : Nat) : Nat := (2 ^ n - 1) * 2 ^ (pa % 128) % 2 ^ 128

/-- Record that a group read or wrote `n` bytes of a line in its phase (R285, R287). -/
def State.markRead (s : State) (g : GrpId) (pa n : Nat) : State :=
  (s.cacheLine g.wg (lineOf pa) fun b => if b.contains g.g then b else b ++ [g.g]).modGroup g fun y =>
    { y with touch := cset 0 y.touch (lineOf pa) (cget 0 y.touch (lineOf pa) ||| lineMask pa n) }

/-! ### Values a read may still return (R280, R285) -/

/-- The narrowest scope that holds a writer and a workgroup's groups: 0 workgroup, 1 pitch, 2 device, 3 system. -/
def State.relOf (s : State) (wr : Writer) (w : WgId) : Nat :=
  match wr with
  | .core v _ => if v = w then 0 else if v.c = w.c ∧ (s.wg v).pitch = (s.wg w).pitch then 1 else 2
  | .pitch c p => if c = w.c ∧ p = (s.wg w).pitch then 1 else 2
  | .device => 2
  | .outside => 3

/-- Note what a core reads in a line before a write to it performs. -/
def State.note (s : State) (wr : Writer) (w : WgId) (line : Nat) : State :=
  s.modWg w fun x => { x with
    past := x.past ++ [{ line := line, data := s.coreLine w line, bad := s.coreBad w line, time := s.clock, wr := wr
                         rel := s.relOf wr w }] }

/-- The same for every resident workgroup but `own`, whose view the write does not change. -/
def State.noteAll (s : State) (wr : Writer) (own : Option WgId) (line : Nat) : State :=
  ((s.wgs.filter fun x => x.2.place == .resident && some x.1 != own).map Prod.fst).foldl (fun s w => s.note wr w line) s

/-- Whether the agent that wrote has since changed a page-table line among `ls` (R412). -/
def State.behindLeaf (s : State) (ls : List Nat) (e : Past) : Bool :=
  ls.any fun l => match aget? (s.dirEnt l).pts e.wr with
    | some t => decide (e.time ≤ t)
    | none => false

/-- The older contents of a line that a group may still read, newest first, when its address was known at `since` and
its translation came from the lines `ls`: none once its phase has touched the line, and nothing from before an acquire
whose scope holds the writer, a value the group has seen, the read behind the address, or what the agent that changed the
translation had written before (R283, R285, R288 to R291, R412; log entry 52). -/
def State.older (s : State) (g : GrpId) (line since : Nat) (ls : List Nat) : List Past :=
  let y := s.group g
  if s.touched g line then []
  else (((s.wg g.wg).past.filter (·.line == line)).reverse).takeWhile fun e =>
    decide (y.floor.getD e.rel 0 < e.time) && decide (cget 0 y.seen line < e.time) && decide (since < e.time) &&
      !s.behindLeaf ls e

/-- The first read of a line in a phase, of `n` bytes at `pa`: of its present contents, or, by a choice, of older ones that
a stale-pending copy then keeps for the phase (log entry 52). Older contents that are poisoned there are not chosen. -/
def State.openLine (s : State) (g : GrpId) (pa n since : Nat) (ls : List Nat) : State :=
  match s.older g (lineOf pa) since ls with
  | [] => s
  | es =>
    let (k, s1) := s.choose
    if k = 0 then s1
    else match es[k - 1]? with
      | none => s1
      | some e =>
        if (List.range n).any fun i => e.bad.contains ((pa + i) % 128 / 32) then s1
        else s1.modWg g.wg fun x => { x with
          stale := x.stale ++ [{ line := lineOf pa, data := e.data, bad := e.bad, holders := [g.g], time := e.time }] }

/-- A group's own stale copy of a line takes the bytes the group writes, or reads past its snapshot; other holders keep
theirs (R285). -/
def State.patchOwn (s : State) (g : GrpId) (pa : Nat) (bs : List Byte) : State :=
  let line := lineOf pa
  let upd (d : List Byte) := (List.range 128).map fun i =>
    let x := 128 * line + i
    if pa ≤ x ∧ x < pa + bs.length then bs.getD (x - pa) 0 else d.getD i 0
  s.modWg g.wg fun w => { w with
    stale := w.stale.flatMap fun c =>
      if c.line = line ∧ c.holders.contains g.g then
        let own : Stale := { c with data := upd c.data, holders := [g.g] }
        if c.holders = [g.g] then [own] else [{ c with holders := c.holders.filter (· != g.g) }, own]
      else [c] }

/-- Bytes that a group has written, or read past its snapshot, are what it reads there for the rest of its phase (R285). -/
def State.settleOwn (s : State) (g : GrpId) (pa : Nat) (bs : List Byte) : State := (s.patchOwn g pa bs).markRead g pa bs.length

/-! ### Reads -/

/-- A byte of a reservation; the header's engine registers are read from where the engine keeps them (R195). -/
def State.spByte (s : State) (w : WgId) (off : Nat) : Byte :=
  let k := (s.grid w.c).k
  let x := s.wg w
  if k.ring ≠ 0 ∧ k.scratch + 8 ≤ off ∧ off < k.scratch + 128 then
    let o := off - k.scratch
    let v := if o < 16 then x.notify else if o < 24 then x.cons else if o < 32 then x.doneCnt else 0
    BitVec.ofNat 8 (v / 256 ^ (o % 8))
  else cget 0 x.sp off

def State.spBytes (s : State) (w : WgId) (off n : Nat) : List Byte := (List.range n).map fun i => s.spByte w (off + i)

/-- The value of a read of a host-homed address is an input of its node: captured, and supplied in a re-run (R423,
R424). -/
def State.hostInput (s : State) (g : GrpId) (pa v : Nat) : State × Nat :=
  if !natBit pa 51 then (s, v)
  else
    let v1 := match s.nextInput g.c (.host g.w g.g) with
      | some (.host _ _ x) => x
      | _ => v
    ((s.ordered g.c (.host g.w g.g v1)).getD s, v1)

/-- Read `n` bytes whose address was known at `since`: a tracked read is one of the group's phase, an untracked one
bypasses L1 (R285, R286, R372); one of a wake aperture reads zero (R329). -/
def State.readAt (s : State) (g : GrpId) (t : Target) (n since : Nat) : State × Nat :=
  match t with
  | .sp w off => (s, ofBytes (s.spBytes w off n))
  | .mem pa true ls =>
    let s1 := s.openLine g pa n since ls
    let bs := s1.grpBytes g pa n ls
    (if bs = s1.grpBytes g pa n then s1.markRead g pa n else s1.settleOwn g pa bs).hostInput g pa (ofBytes bs)
  | .mem pa false _ => s.hostInput g pa (ofBytes (s.homeBytes g pa n))

/-- The lanes of one load read together (R184). -/
def State.readLanes (s : State) (g : GrpId) (n since : Nat) : List (Nat × Target) → State × List (Nat × Nat)
  | [] => (s, [])
  | (j, t) :: l =>
    let (s1, v) := s.readAt g t n since
    let (s2, vs) := s1.readLanes g n since l
    (s2, (j, v) :: vs)

/-- An outstanding load performs, when `p` selects one of its targets. -/
def State.readOut (s : State) (g : GrpId) (p : Target → Nat → Bool) (o : Outst) : State × Outst :=
  match o.kind with
  | .deferred .read e n since ts vals =>
    if ts.any fun t => p t.2 n then
      let (s1, vs) := s.readLanes g n since ts
      (s1, { o with kind := .deferred .read e n since [] (vals ++ vs) })
    else (s, o)
  | _ => (s, o)

def State.readOuts (s : State) (g : GrpId) (p : Target → Nat → Bool) : List Outst → State × List Outst
  | [] => (s, [])
  | o :: l =>
    let (s1, o1) := s.readOut g p o
    let (s2, l1) := s1.readOuts g p l
    (s2, o1 :: l1)

/-- The sequencers whose loads are a group's: its stream, and the handler while it runs in its slot. -/
def State.readers (s : State) (g : GrpId) : List Agent :=
  g.stream :: (if s.grpId (.handler g.c g.w) = g ∧ (s.wg g.wg).hrun.isSome then [.handler g.c g.w] else [])

/-- Every outstanding load of a group that `p` selects performs now. -/
def State.forceReads (s : State) (g : GrpId) (p : Target → Nat → Bool) : State :=
  let s1 := (s.readers g).foldl (fun s a =>
    let (s1, out) := s.readOuts g p (s.seq a).out
    s1.modSeq a fun q => { q with out := out }) s
  (((s1.group g).frags).map (·.fid)).foldl (fun s f =>
    let (s1, out) := s.readOuts g p (((s.group g).frag f).map (·.out) |>.getD [])
    s1.modGroup g fun y => y.modFrag f fun x => { x with out := out }) s1

/-- Whether two accesses share a byte. -/
def Target.meets (t : Target) (n : Nat) (u : Target) (m : Nat) : Bool :=
  match t, u with
  | .mem a _ _, .mem b _ _ => overlap a n b m
  | .sp v a, .sp w b => v == w && overlap a n b m
  | _, _ => false

/-- The outstanding words of a group: of its streams and of its fragments, and what a kill left of them. -/
def State.groupOuts (s : State) (g : GrpId) : List Outst :=
  ((s.readers g).flatMap fun a => (s.seq a).out) ++ (s.group g).frags.flatMap (·.out) ++
    ((s.wg g.wg).owed.filter fun x => x.1 == g.g).map Prod.snd

/-- Whether a store or atomic of a group has yet to perform (R280), where `p` selects a target of it. -/
def State.owes (s : State) (g : GrpId) (p : Target → Nat → Bool := fun _ _ => true) : Bool :=
  (s.groupOuts g).any fun o => match o.kind with
    | .deferred k _ n _ ts _ => k != .read && ts.any fun t => p t.2 n
    | _ => false

/-- Whether an access used a translation derived from a line. -/
def Target.uses (line : Nat) : Target → Nat → Bool
  | .mem _ _ ls, _ => ls.contains line
  | .sp _ _, _ => false

/-! ### Translations derived from a line (R367, R368) -/

/-- The bit of the sharer bitmap that stands for a workgroup's core. -/
def State.wgAgent (s : State) (w : WgId) : TAgent := blockOf (s.wg w).core

/-- Windows derived from a line read Dropped. -/
def dropWindow (line : Nat) (w : Window) : Window :=
  if w.st = .bound ∧ w.lines.contains line then { w with st := .dropped } else w

def Group.dropLine (g : Group) (line : Nat) : Group :=
  { g with
    win := g.win.map fun x => (x.1, dropWindow line x.2)
    laneQ := g.laneQ.map fun b => { b with wins := b.wins.map (dropWindow line) }
    blk := g.blk.map fun b => { b with wins := b.wins.map (dropWindow line) } }

/-- Outstanding scalar loads that used a translation derived from a line are, each by a choice, cancelled: they translate
again when they complete (R368). -/
def State.cancelOuts (s : State) (line : Nat) : List Outst → State × List Outst
  | [] => (s, [])
  | o :: l =>
    let (s1, o1) : State × Outst := match o.kind with
      | .deferred .read e n since ts vals =>
        if ts.any fun t => Target.uses line t.2 n then
          let (k, s1) := s.choose
          (s1, if k % 2 = 1 then { o with kind := .deferred .read { e with cancelled := true } n since [] vals } else o)
        else (s, o)
      | _ => (s, o)
    let (s2, l2) := s1.cancelOuts line l
    (s2, o1 :: l2)

def State.cancelReads (s : State) (g : GrpId) (line : Nat) : State :=
  (s.readers g).foldl (fun s a =>
    let (s1, out) := s.cancelOuts line (s.seq a).out
    s1.modSeq a fun q => { q with out := out }) s

/-- Untracked stores that used a translation derived from a line are, each by a choice, cancelled (R368, log entry 20). -/
def State.cancelStores (s : State) (line : Nat) : State :=
  (s.pend.filter fun p => !p.trk && !p.again && p.lines.contains line && lineOf p.pa != line).foldl (fun s p =>
    let (k, s1) := s.choose
    if k % 2 = 1 then { s1 with pend := s1.pend.map fun x => if x.sid = p.sid then { x with again := true } else x } else s1) s

/-- An agent drops every translation derived from a line, once the outstanding loads that used one have performed or been
cancelled (R368). -/
def State.dropTrans (s : State) (t : TAgent) (line : Nat) : State :=
  let mine (g : GrpId) : Bool := s.wgAgent g.wg == t
  let s0 := ((s.groups.filter fun x => mine x.1).map Prod.fst).foldl
    (fun s g => (s.cancelReads g line).forceReads g (Target.uses line)) s
  let s1 : State := { s0 with tlb := s0.tlb.map fun (x : TAgent × List Trans) =>
    if x.1 = t then (x.1, x.2.filter fun r => !r.lines.contains line) else x }
  let s2 : State := { s1 with groups := s1.groups.map fun (x : GrpId × Group) => if mine x.1 then (x.1, x.2.dropLine line) else x }
  s2.modDir line fun e => { e with tsh := e.tsh.filter (· != t) }

/-! ### Performing at the home -/

/-- Whether host ranges, adjoining ones together, cover physical addresses from `lo` up to `hi`. -/
def covered (rs : List (Nat × Nat)) (hi : Nat) : Nat → Nat → Bool
  | 0, lo => decide (hi ≤ lo)
  | k + 1, lo =>
    decide (hi ≤ lo) ||
      match rs.find? fun r => r.1 ≤ lo && lo < r.1 + r.2 with
      | some r => covered rs hi k (r.1 + r.2)
      | none => false

/-- Whether every 2 MiB frame of a physical range may be used by a virtual function (R359, R360). -/
def State.frameOk (s : State) (vf pa size : Nat) : Bool :=
  if natBit pa 51 then
    let rs := ((agetD {} s.fe.vfs vf).ranges).map Prod.snd
    covered rs (pa + size) rs.length pa
  else
    decide (bits pa 50 40 = 0) &&
      (List.range ((pa + size + 0x1FFFFF) / 0x200000 - pa / 0x200000)).all fun i =>
        cget 0 s.fe.owner (pa / 0x200000 + i) == vf + 1

/-- A stage entry: its identifier when valid (R329). -/
def stageEntry (e : Nat) : Option Nat := if natBit e 31 && bits e 30 12 == 0 then some (bits e 11 0) else none

/-- Identifier of stage 1 for a virtual function: its own table, in its frames, when S1EN is set. An entry that is
poisoned, or outside the function's frames, counts as invalid: a stage-1 miss (DESIGN CHOICE, log entry 68). -/
def State.stageOne (s : State) (vf qid : Nat) : Option Nat :=
  let v := agetD {} s.fe.vfs vf
  if !v.s1en then some qid
  else
    let pa := v.s1addr + 4 * qid
    if !s.frameOk vf pa 4 ∨ (s.poisonAt pa 4).isSome then none else stageEntry (s.memNat pa 4)

/-- An entry of a miss log (R330). -/
def missEntry (stage vf qid t : Nat) : Nat := t % 2 ^ 64 + qid * 2 ^ 64 + vf * 2 ^ 76 + stage * 2 ^ 83

/-- A write of `size` bytes reaches the wake aperture of a virtual function (R329); a stopped boot accepts none (R429). -/
def State.takeWake (s : State) (vf off size value : Nat) : State :=
  let miss (stage qid : Nat) : State :=
    { s with fe := { s.fe with missIn := s.fe.missIn ++ [(stage, vf, missEntry stage vf qid value)] } }
  if s.trust.bootStopped ∨ size ≠ 8 ∨ off % 8 ≠ 0 ∨ 32768 ≤ off then s
  else
    let qid := off / 8
    match s.stageOne vf qid with
    | none => miss 0 qid
    | some iq =>
      match stageEntry (agetD 0 s.fe.stage2 (vf, iq)) with
      | none => miss 1 qid
      | some pq =>
        let d := (agetD {} s.fe.queues pq : QDesc)
        if d.vf ≠ vf ∨ !d.en then miss 1 qid
        else { s with fe := { s.fe with wakes := s.fe.wakes ++ [(pq, value % 2 ^ 64)] } }

/-- Whether a write waits to perform on a line. -/
def State.storeWaits (s : State) (line : Nat) : Bool :=
  (s.pend.any fun p => !p.again && lineOf p.pa == line) || s.hostPend.any fun x => (linesOf x.pa x.data.length).contains line

/-- Bytes reach their place: memory, or a wake aperture, which keeps nothing (R329). -/
def State.land (s : State) (pa : Nat) (bs : List Byte) : State :=
  match s.aperture? pa with
  | none => (s.noteCode pa bs).writeMem pa bs
  | some (vf, off) => s.takeWake vf off bs.length (ofBytes bs)

/-- The directory entry of a line once a write has performed at its home: a tracked one leaves the copy of `home` alone,
with the bytes written; an untracked one leaves every L1 copy with what it held (R295). -/
def State.entryAfter (s : State) (wr : Writer) (home : Option CoreId) (trk : Bool) (pa : Nat) (bs : List Byte) (e : DirEnt) : DirEnt :=
  let line := lineOf pa
  let put (d : List Byte) : List Byte := (List.range 128).map fun i =>
    if pa ≤ 128 * line + i ∧ 128 * line + i < pa + bs.length then bs.getD (128 * line + i - pa) 0 else d.getD i 0
  let e1 : DirEnt := { e with want := false, pts := aput e.pts wr s.clock }
  if trk then
    { e1 with
      st := .m, dies := e.dies.filter fun d => some d == home.map (·.die)
      copy := e.copy.map fun x => (x.1, if some x.1 = home then put x.2 else x.2) }
  else
    { e1 with copy := e.l1.map fun x => (x.1, (aget? e.copy x.1).getD (cgetList 0 s.mem (128 * line) 128)) }

/-- A write performs at its home (R284, R367): what cores read there before is noted, every L1 copy but that of `own` is
invalidated unless the write is untracked (R295), and page-table sharers drop their translations. -/
def State.performRaw (s : State) (wr : Writer) (own : Option WgId) (trk : Bool) (pa : Nat) (bs : List Byte) : State :=
  let line := lineOf pa
  let home := own.map fun w => (s.wg w).core
  let s0 := s.noteAll wr own line
  let s1 := if trk then (((s.dirEnt line).l1.map Prod.fst).filter fun c => some c != home).foldl (fun s c => s.invalidate c line) s0
    else s0
  let s2 := s1.modDir line (s1.entryAfter wr home trk pa bs)
  let s3 := (s.dirEnt line).tsh.foldl (fun s t => s.dropTrans t line) s2
  let s4 := match wr with
    | .core w _ => s3.l2Access (homeDie (s.wg w).core.die line) line (some (s.partOf w.c)) true
    | _ => s3
  s4.land pa bs

/-- An accepted store performs at its home (R282). -/
def State.performStore (s : State) (p : PStore) : State :=
  let s1 : State := { s with pend := s.pend.filter fun x => x.sid != p.sid }
  let s2 := s1.performRaw (.core p.src (some p.grp)) (if p.trk then some p.src else none) p.trk p.pa p.data
  let last (g : Nat) : Bool := !(s1.pend.any fun x => x.src == p.src && x.grp == p.grp && x.waddr == p.waddr && x.whole.contains g)
  { s2 with poison := s2.poison.filter fun g => !(p.whole.contains g && last g) }

/-- Whether accepted store `y` must perform before `x`: an earlier one of its core to its bytes, or one that used a
translation which `x` changes (R57, R368). -/
def State.goesBefore (s : State) (y x : PStore) : Bool :=
  y.sid != x.sid && !y.again && ((y.src == x.src && decide (y.sid < x.sid) && overlap y.pa y.data.length x.pa x.data.length) ||
    ((s.dirEnt (lineOf x.pa)).tsh != [] && y.lines.contains (lineOf x.pa)))

/-- The accepted stores that must perform with those named, after `k` rounds. -/
def State.withBefore (s : State) : Nat → List Nat → List Nat
  | 0, ids => ids
  | k + 1, ids =>
    let more := (s.pend.filter fun y => !ids.contains y.sid && s.pend.any fun x => ids.contains x.sid && s.goesBefore y x).map (·.sid)
    if more = [] then ids else s.withBefore k (ids ++ more)

/-- Whether the host and every L1 but that of `own` have acknowledged the invalidation of a line, or may (R287, R396). -/
def State.lineFree (s : State) (own : Option CoreId) (line : Nat) : Bool :=
  (s.dirEnt line).host == .i && ((s.dirEnt line).l1.map Prod.fst).all fun c => some c == own || s.mayInvalidate c line

/-- Whether no access that must perform before page-table line `line` changes is held up where it cannot be forced: a
deferred store or atomic of a group, or a queued write of the host or the front end, whose translation came from it
(R368, R369). -/
def State.tableFree (s : State) (line : Nat) : Bool :=
  (s.dirEnt line).tsh == [] ||
    (!(s.groups.any fun g => s.owes g.1 (Target.uses line)) &&
      !(s.hostPend.any fun x => x.lines.contains line && !(linesOf x.pa x.data.length).contains line))

/-- Whether a cancelled store of its group to its bytes stands before a store. -/
def State.behindCancelled (s : State) (x : PStore) : Bool :=
  s.pend.any fun y => y.again && y.src == x.src && y.grp == x.grp && decide (y.sid < x.sid) && overlap y.va y.data.length x.va x.data.length

/-- Perform the accepted stores that `p` selects, with those that come before them, oldest first and stores to
page-table lines last; none while a core withholds an acknowledgement. -/
def State.drain? (s0 : State) (p : PStore → Bool) : Option State :=
  let s := (s0.pend.filter fun x => p x && (s0.dirEnt (lineOf x.pa)).tsh != []).foldl (fun s x => s.cancelStores (lineOf x.pa)) s0
  let ids := s.withBefore s.pend.length ((s.pend.filter fun x => p x && !x.again).map (·.sid))
  let sel := s.pend.filter fun x => ids.contains x.sid && !x.again
  if sel.all fun x => !s.behindCancelled x && (!x.trk || s.lineFree (some (s.wg x.src).core) (lineOf x.pa)) &&
      s.tableFree (lineOf x.pa) then
    let table (x : PStore) : Bool := (s.dirEnt (lineOf x.pa)).tsh != []
    some (((sel.filter fun x => !table x) ++ sel.filter table).foldl State.performStore s)
  else none

/-- Pieces of a byte string within single lines. -/
def linePieces (pa : Nat) : Nat → List Byte → List (Nat × List Byte)
  | 0, _ => []
  | k + 1, bs =>
    if bs = [] then [] else
    let n := 128 - pa % 128
    (pa, bs.take n) :: linePieces (pa + n) k (bs.drop n)

/-- A write that performs at its home at once: of an atomic, a copy engine, the front end, the porter, the host. The
stores that used a translation of a line it changes perform first (R368). None while a core withholds its
acknowledgement. -/
def State.homeWrite? (s : State) (wr : Writer) (trk : Bool) (pa : Nat) (bs : List Byte) : Option State :=
  let ls := linesOf pa bs.length
  if (trk ∧ !ls.all (s.lineFree none)) ∨ !ls.all s.tableFree then none
  else
    let s0 := (ls.filter fun l => (s.dirEnt l).tsh != []).foldl State.cancelStores s
    (s0.drain? fun p => ls.any fun l => (s.dirEnt l).tsh != [] && p.lines.contains l && lineOf p.pa != l).map fun s1 =>
      (linePieces pa (bs.length / 128 + 2) bs).foldl (fun s x => s.performRaw wr none trk x.1 x.2) s1

/-- As `homeWrite?` for the device's own agents, tracked or not: a write that a core holds up, or that stands behind one to
its lines, waits at the home (R284, R287), with the page-table lines and the ASID of its translation. -/
def State.homeWrite (s : State) (pa : Nat) (bs : List Byte) (trk : Bool := true) (lines : List Nat := [])
    (asid : Option Nat := none) : State :=
  let waits : State := { s with hostPend := s.hostPend ++ [{ pa := pa, data := bs, trk := trk, lines := lines, asid := asid }] }
  if s.hostPend.any fun x => (linesOf x.pa x.data.length).any (linesOf pa bs.length).contains then waits
  else (s.homeWrite? .device trk pa bs).getD waits

/-- A store of a group joins its core's accepted stores. -/
def State.pushStore (s : State) (g : GrpId) (p : PStore) : State :=
  { s with nextHandle := s.nextHandle + 1, pend := s.pend ++ [{ p with sid := s.nextHandle, src := g.wg, grp := g.g, again := false }] }

/-- A tracked store of a group performs at its core's L1: other groups that read the line keep what they saw, and the
writer's own copy is updated (R282, R285). -/
def State.atL1 (s : State) (g : GrpId) (p : PStore) : State :=
  let line := lineOf p.pa
  let s1 := (s.note (.core g.wg (some g.g)) g.wg line).keepStale g.wg line ((s.inPhase g.wg line).filter (· != g.g))
  s1.settleOwn g p.pa p.data

/-- Accept a store of a group, which waits to perform at its home (R127, R282). An untracked one is seen by no other group
before (R372). -/
def State.acceptStore (s : State) (g : GrpId) (p : PStore) : State := (if p.trk then s.atL1 g p else s).pushStore g p

/-- Whether accepted store `k` may perform: no earlier store of its core to its bytes, no translation sharer, and, when it
is tracked, no other copy (R57, R284, R295, R367). -/
def State.mayPerform (s : State) (k : Nat) : Bool :=
  match s.pend[k]? with
  | none => false
  | some p =>
    let e := s.dirEnt (lineOf p.pa)
    let c := (s.wg p.src).core
    !p.again && !s.behindCancelled p &&
      (s.pend.take k).all (fun x => x.src != p.src || x.again || !overlap x.pa x.data.length p.pa p.data.length) &&
      e.tsh == [] && (!p.trk || (e.host == .i && e.l1.all (fun x => decide (x.1 = c)) && e.dies.all (fun d => decide (d = c.die))))

/-- Store `k` performs at its home (R282). -/
def State.performPend (s : State) (k : Nat) : State :=
  match s.pend[k]? with
  | none => s
  | some p => s.performStore p

/-- A group acquires at a scope (2 workgroup, 3 pitch, 5 device, 6 system): its phase ends, its stale copies and read bits
are gone, and no value older than what has performed in the scope remains to it. What its phase touched it has seen
(R283, R288, R289). -/
def State.acquire (s : State) (g : GrpId) (scope : Nat) : State :=
  let c := (s.wg g.wg).core
  let now := s.clock
  let upto := match scope with | 2 => 1 | 3 => 2 | 5 => 3 | _ => 4
  let lines := ((s.wg g.wg).stale.filter fun x => x.holders.contains g.g).map (·.line) ++
    (s.dir.filter fun x => (x.2.bitsOf c).contains g.g).map Prod.fst
  let s1 := s.modGroup g fun y => { y with
    floor := (List.range 4).map fun i => if i < upto then now else y.floor.getD i 0
    seen := if upto = 4 then [] else lines.foldl (fun m l => cset 0 m l now) y.seen
    touch := [] }
  let s2 := s1.modWg g.wg fun w => { w with
    stale := (w.stale.map fun x => { x with holders := x.holders.filter (· != g.g) }).filter (·.holders != [])
    past := w.past.filter fun e => (s1.groupsOf g.wg).any fun h => decide ((s1.group h).floor.getD e.rel 0 < e.time) }
  { s2 with dir := s2.dir.map fun x =>
      (x.1, { x.2 with l1 := x.2.l1.map fun y => if y.1 = c then (y.1, y.2.filter (· != g.g)) else y }) }

/-- Scope codes of boundaries (R13): 2 workgroup, 3 pitch, 5 device, 6 system. A release at workgroup scope has
performed at L1 already, but for untracked stores and for accesses that are still deferred; wider ones wait for the core's
accepted stores (R130, R280 to R282). -/
def State.released (s : State) (w : WgId) (scope : Nat) : Bool :=
  (s.pend.all fun p => p.src != w || (scope == 2 && p.trk && !p.again)) && (s.groupsOf w).all fun g => !s.owes g

/-! ### Scratchpad (R181, R195) -/

/-- The workgroup that an offset of the scratchpad space addresses, with the offset in its reservation (R181). -/
def State.spTarget (s : State) (w : WgId) (off n : Nat) : Option (WgId × Nat) :=
  let g := s.grid w.c
  let size := g.k.reservation
  if off + n ≤ size then some (w, off)
  else if 0x1000000 ≤ off then
    let p := (off - 0x1000000) / 0x100000
    let a := (off - 0x1000000) % 0x100000
    if p < g.pw * g.ph ∧ a + n ≤ size then
      ((s.pitch w.c (s.wg w).pitch).wgs[p]?).map fun x => (⟨w.c, x⟩, a)
    else none
  else none

/-- Write a reservation; program stores to CONS, DONE and the reserved bytes are discarded (R195), NOTIFY is recorded
by the engine (R199). -/
def State.spWrite (s : State) (w : WgId) (off : Nat) (bs : List Byte) : State :=
  let k := (s.grid w.c).k
  let keep (x : Nat) : Bool := k.ring != 0 && k.scratch + 8 ≤ x && x < k.scratch + 128
  s.modWg w fun x => { x with
    sp := (List.range bs.length).foldl
      (fun m i => if keep (off + i) then m else cset 0 m (off + i) (bs.getD i 0)) x.sp
    spPoison := x.spPoison.filter fun g => !(decide (off ≤ 32 * g) && decide (32 * g + 32 ≤ off + bs.length)) }

def State.spPoisonAt (s : State) (w : WgId) (off n : Nat) : Option Nat :=
  ((List.range n).map (off + ·)).find? fun x => (s.wg w).spPoison.contains (x / 32)

/-- Whether an access touches NOTIFY (R199). -/
def State.touchesNotify (s : State) (w : WgId) (off n : Nat) : Bool :=
  let k := (s.grid w.c).k
  k.ring != 0 && overlap off n (k.scratch + 8) 8

end Sys2Proof.Machine
end

