-- ==== Sys2Proof/Machine/Translate.lean ====
section
/-!
DEFINITION. Page tables and their coherent caches (R359 to R376), the rings the device posts to (R331), the posting of
a PAGE (R374) and of an event (R347).
-/
namespace Sys2Proof.Machine

/-- An address space as an agent uses it: its translation cache, ASID, root and virtual function (R361, R365). -/
structure Space where
  t : TAgent
  asid : Nat
  root : Nat
  vf : Nat
  host : Bool := false                               -- of a host agent, through a port of the die of `t` (R371)
  deriving DecidableEq, Repr, Inhabited

/-- The space of an agent's words: the TROOT of its context, through its core or the front end (R365, R373). -/
def State.space (s : State) (a : Agent) : Space :=
  let c := ctxOf a
  let (asid, root) := agetD (0, 0) s.fe.troots c
  { t := match a with | .grid _ => .front 0 | _ => blockOf (s.coreOf a), asid := asid, root := root, vf := (s.grid c).vf }

/-- The front-end address space of a virtual function (R333). -/
def State.feSpace (s : State) (vf : Nat) : Space :=
  let v := agetD {} s.fe.vfs vf
  { t := .front 0, asid := v.asid, root := v.troot, vf := vf }

/-! ### The walk -/

/-- Why a translation does not succeed (R363). -/
inductive XFault where
  | poison | page | prot
  deriving DecidableEq, Repr, Inhabited

def perR : Nat := 4
def perW : Nat := 2
def perX : Nat := 1

/-- The line of the frame owner table that holds a frame's byte. The spec places the table nowhere in memory: the model
numbers its bytes above the physical addresses (log entry 54). -/
def ownerLine (frame : Nat) : Nat := 2 ^ 45 + frame / 128

/-- The owner-table lines that a walk reads for the frames of a physical range (R360). -/
def ownerLines (pa size : Nat) : List Nat :=
  if natBit pa 51 ∨ bits pa 50 40 ≠ 0 then []
  else
    let f := pa / 0x200000
    let n := (pa + size + 0x1FFFFF) / 0x200000 - f
    (List.range ((f + n + 127) / 128 - f / 128)).map fun i => ownerLine f + i

/-- Whether any byte of a line is poisoned. -/
def State.linePoisoned (s : State) (line : Nat) : Bool := (s.poisonAt (128 * line) 128).isSome

/-- Leaf size at a level (R361). -/
def leafSize (lv : Nat) : Nat := 4096 * 512 ^ lv

/-- A leaf entry that breaks R362 at level `lv`. -/
def badLeaf (lv e : Nat) : Bool :=
  bits e 63 55 != 0 || natBit e 9 || decide (2 < lv) || (natBit e 8 && lv != 0) ||
    decide ((bits e 51 12 * 4096) % leafSize lv ≠ 0) || (natBit e 8 && decide (bits e 15 12 ≠ 0))

/-- A table pointer that breaks R362 at level `lv`. -/
def badTable (lv e : Nat) : Bool := lv == 0 || bits e 63 52 != 0 || bits e 11 2 != 0

/-- The 16 entries of a page-table line (R364). -/
def State.lineEntries (s : State) (line : Nat) : List Nat := (List.range 16).map fun i => s.memNat (128 * line + 8 * i) 8

/-- The bits of a leaf that a run must share besides its frame. -/
def leafAttr (e : Nat) : Nat := bits e 11 0 + bits e 63 52 * 4096

/-- Whether a line's leaves form one covered run of leaves of level `lv` (R364). -/
def contRun (lv : Nat) (es : List Nat) : Bool :=
  let e0 := es.headD 0
  (List.range es.length).all fun i =>
    let e := es.getD i 0
    natBit e 0 && natBit e 1 && natBit e 10 && decide (leafAttr e = leafAttr e0) &&
      decide (bits e 51 12 * 4096 = bits e0 51 12 * 4096 + i * leafSize lv)

/-- The translation that a valid leaf `e` at level `lv`, read from `line`, gives an address, and the owner-table lines read
(R362 to R364). -/
def State.leafTrans (s : State) (sp : Space) (lv va line e : Nat) : Except XFault Trans × List Nat :=
  let es := s.lineEntries line
  let mk (start len frame : Nat) : Except XFault Trans × List Nat :=
    let os := ownerLines frame len
    let tr : Trans :=
      { asid := sp.asid, start := start, len := len, frame := frame
        perm := BitVec.ofNat 3 ((if natBit e 2 then 4 else 0) + (if natBit e 3 then 2 else 0) + (if natBit e 4 then 1 else 0))
        trk := natBit e 5, ff := natBit e 6 && !natBit e 11, hv := natBit e 54, hdie := bits e 53 52 }
    if os.any s.linePoisoned then (.error .poison, os)
    else if s.frameOk sp.vf frame len then
      (.ok tr, os)
    else (.error .prot, os)
  if badLeaf lv e then (.error .prot, [])
  else if natBit e 8 then
    if es.all (· == e) then mk (va / 65536 * 65536) 65536 (bits e 51 12 * 4096) else (.error .prot, [])
  else
    let sz := leafSize lv
    let f0 := bits (es.headD 0) 51 12 * 4096
    if natBit e 10 && contRun lv es then mk (va / (16 * sz) * (16 * sz)) (16 * sz) f0
    else mk (va / sz * sz) sz (bits e 51 12 * 4096)

/-- The walk below a table of level `lv`; also the lines it reads, those of the owner table among them (R360 to R364). -/
def State.walk (s : State) (sp : Space) (va : Nat) : Nat → Nat → Except XFault Trans × List Nat
  | lv, table =>
    let pa := table + 8 * (va / (4096 * 512 ^ lv) % 512)
    let line := lineOf pa
    let e := s.memNat pa 8
    let next := bits e 51 12 * 4096
    if s.linePoisoned line then (.error .poison, [line])
    else if !natBit e 0 then (.error .page, [line])
    else if natBit e 1 then
      let r := s.leafTrans sp lv va line e
      (r.1, line :: r.2)
    else if badTable lv e then (.error .prot, [line])
    else if (ownerLines next 4096).any s.linePoisoned then (.error .poison, line :: ownerLines next 4096)
    else if !s.frameOk sp.vf next 4096 then (.error .prot, line :: ownerLines next 4096)
    else
      match lv with
      | 0 => (.error .prot, [line])
      | lv' + 1 =>
        let r := s.walk sp va lv' next
        (r.1, line :: ownerLines next 4096 ++ r.2)

/-- The outcome of a translation. -/
inductive Xlate where
  | ok (tr : Trans)
  | fault (f : XFault)
  | wait                                             -- a page-table store waits at the home of a line (R370)
  deriving DecidableEq, Repr

def State.addSharer (s : State) (t : TAgent) (line : Nat) : State :=
  s.modDir line fun e => { e with tsh := if e.tsh.contains t then e.tsh else e.tsh ++ [t] }

def State.fill (s : State) (t : TAgent) (tr : Trans) : State := { s with tlb := aput s.tlb t (tr :: agetD [] s.tlb t) }

def State.lookup (s : State) (t : TAgent) (asid va : Nat) : Option Trans :=
  (agetD [] s.tlb t).find? fun x => x.asid == asid && x.start ≤ va && va < x.start + x.len

/-- The die whose translation cache serves an agent (R365). -/
def dieOf : TAgent → Nat
  | .block d _ | .dieCache d | .front d => d

/-- Translate a virtual address: the agent's cache, the die cache, then the walk, which sets the sharers of every line
it reads (R365, R366). -/
def State.translate (s : State) (sp : Space) (va : Nat) : State × Xlate :=
  match s.lookup sp.t sp.asid va with
  | some tr => (s, .ok tr)
  | none =>
    let dc : TAgent := .dieCache (dieOf sp.t)
    match s.lookup dc sp.asid va with
    | some tr => ((tr.lines.foldl (fun s l => s.addSharer sp.t l) s).fill sp.t tr, .ok tr)
    | none =>
      let (r, lines) := s.walk sp va 4 (sp.root * 4096)
      if lines.any fun l => (s.dirEnt l).want && s.storeWaits l then (s, .wait)
      else
        let s1 := lines.foldl (fun s l => (s.addSharer sp.t l).addSharer dc l) s
        match r with
        | .error f => (s1, .fault f)
        | .ok tr0 =>
          let tr := { tr0 with lines := lines }
          ((s1.fill sp.t tr).fill dc tr, .ok tr)

/-- Whether a leaf grants an access (R363). -/
def permits (p : BitVec 3) : Acc4 → Bool
  | .read => p.getLsbD 2
  | .write => p.getLsbD 1
  | .atomic => p.getLsbD 2 && p.getLsbD 1
  | .fetch => p.getLsbD 0
  | .bindOnly => true

/-- The home slice of a device-homed byte (R395). -/
def sliceOf (pa : Nat) : Nat := lineSlice (lineOf pa)

/-- The units that an access by an agent of die `d` reaches (R371): HBM controller `k` of die `e` is 4 e + k, the host-facing
agent of die `d` is 16 + d. The four controllers of a die front eight slices each (log entry 53). A request of the host
comes through the host-facing agent of its port's die. -/
def footUnits (d pa : Nat) (host : Bool) : List Nat :=
  if natBit pa 51 then [16 + d] else (if host then [16 + d] else []) ++ [4 * bits pa 39 38 + sliceOf pa / 8]

/-- One more access at a unit's counter of a region, with who made it. A unit caches 4,096 counters: a new one evicts
another, by a choice, which is lost (R371). -/
def State.countFoot (s : State) (unit region note : Nat) : State :=
  let k := 2 ^ 40 * unit + region
  let mine := s.fe.foot.filter fun c => c.1 / 2 ^ 40 == unit
  let n := cget 0 s.fe.foot k
  let (i, s1) := if n = 0 ∧ 4096 ≤ mine.length then s.choose else (0, s)
  let old := if n = 0 ∧ 4096 ≤ mine.length then (mine.getD (i % mine.length) (k, 0)).1 else k
  { s1 with fe := { s1.fe with foot := cset 0 (cset 0 s1.fe.foot old 0) k (min 65535 (n % 65536 + 1) + 65536 * note) } }

/-- Count an access to a page with footfall enabled, and note who made it: its ASID, die, and MISS (R371). -/
def State.touch (s : State) (sp : Space) (tr : Trans) (pa : Nat) : State :=
  if tr.ff then
    let d := dieOf sp.t
    (footUnits d pa sp.host).foldl (fun s u =>
      s.countFoot u (pa / 65536) (sp.asid + 2 ^ 16 * d + (if tr.hv ∧ tr.hdie ≠ d then 2 ^ 18 else 0))) s
  else s

/-- Physical address of a virtual address under a translation. -/
def Trans.pa (tr : Trans) (va : Nat) : Nat := tr.frame + (va - tr.start)

/-- Translate and check permission. -/
def State.access (s : State) (sp : Space) (va : Nat) (k : Acc4) : State × Xlate :=
  match s.translate sp va with
  | (s1, .ok tr) => if permits tr.perm k then (s1.touch sp tr (tr.pa va), .ok tr) else (s1, .fault .prot)
  | r => r

/-! ### Rings (R331) -/

/-- Whether a ring is full. -/
def Ring.full (r : Ring) : Bool := r.pi - r.ci == BitVec.ofNat 32 (2 ^ r.lg)

/-- Address of the next entry of `e` bytes. -/
def Ring.slot (r : Ring) (e : Nat) : Nat := r.base + e * (r.pi.toNat % 2 ^ r.lg)

/-- Post an entry to a ring at a physical base that drops when full. -/
def State.ringPost (s : State) (r : Ring) (bs : List Byte) : State × Ring :=
  if r.lg = 0 ∨ r.full then (s, { r with ovf := true })
  else (s.homeWrite (r.slot bs.length) bs, { r with pi := r.pi + 1 })

/-- The service request of R374. -/
def State.request (s : State) (h : Nat) (x : Held) : Nat :=
  let core (c : CoreId) := c.die * 256 + c.y * 16 + c.x
  let (agent, co, grp) := match x.who with
    | .lane g _ => (0, core (s.wg g.wg).core, g.g)
    | .scalar a | .fetch a =>
      (match a with
       | .grid _ => (4, 0, 0)
       | a => ((match x.who with | .fetch (.lane _ _ _ _) => 0 | _ => 1), core (s.coreOf a), (s.grpId a).g))
    | .tile g _ => (2, core (s.wg g.wg).core, g.g)
    | .chit w i => (3, core (s.wg w).core, (((s.wg w).chits.find? fun c => c.idx == i).map (·.grp)).getD 0)
    | .store w i =>
      let p := s.pend.find? fun p => p.sid == i
      ((if (p.map (·.lanes)).getD 0 = 0 then 1 else 0), core (s.wg w).core, (p.map (·.grp)).getD 0)
    | .host _ => (5, 0, 0)
    | .front _ _ => (4, 0, 0)
  let kind := match x.kind with | .read | .bindOnly => 0 | .write => 1 | .atomic => 2 | .fetch => 3
  x.va % 2 ^ 57 + x.asid * 2 ^ 64 + kind * 2 ^ 80 + agent * 2 ^ 88 + h * 2 ^ 96 + co * 2 ^ 128 + grp * 2 ^ 144

/-- Post a held request when the service ring has room; a disabled ring drops it (R331, R374). -/
def State.postHeld (s : State) (h : Nat) : State :=
  match aget? s.holds h with
  | none => s
  | some x =>
    if x.posted then s
    else if s.fe.svcq.lg ≠ 0 ∧ s.fe.svcq.full then s
    else
      let (s1, r) := s.ringPost s.fe.svcq (toBytes 32 (s.request h x))
      { s1 with fe := { s1.fe with svcq := r }, holds := aput s1.holds h { x with posted := true } }

/-- Hold an access for page service: a new handle and its request (R302, R374). -/
def State.hold (s : State) (x : Held) : Nat × State :=
  let h := s.nextHandle
  (h, ({ s with nextHandle := h + 1, holds := aput s.holds h { x with posted := false } }).postHeld h)

/-! ### Entries that the front end writes (R330, R333, R347) -/

/-- Write bytes within one page of a front-end address space. -/
def State.feWrite (s : State) (vf va : Nat) (bs : List Byte) : State × Xlate :=
  match s.access (s.feSpace vf) va .write with
  | (s1, .ok tr) => (s1.homeWrite (tr.pa va) bs tr.trk tr.lines (some (s.feSpace vf).asid), .ok tr)
  | r => r

/-- FAULT0 of a record (R44). -/
def FaultRec.w0 (r : FaultRec) : Nat := r.cause % 256 + r.level * 2 ^ 8 + r.grp * 2 ^ 16 + r.lanes * 2 ^ 32

/-- An event record (R347). -/
def eventNat (kind code pq nodeid : Nat) (r : FaultRec) : Nat :=
  kind + code * 2 ^ 8 + pq * 2 ^ 16 + nodeid * 2 ^ 32 + r.w0 * 2 ^ 64 + r.waddr * 2 ^ 128 + r.info * 2 ^ 192

/-- Change a queue's descriptor, and a function's miss log. -/
def State.modQueue (s : State) (pq : Nat) (f : QDesc → QDesc) : State :=
  { s with fe := { s.fe with queues := aput s.fe.queues pq (f (agetD {} s.fe.queues pq)) } }
def State.modMiss (s : State) (vf : Nat) (f : Ring → Ring) : State :=
  let v := agetD {} s.fe.vfs vf
  { s with fe := { s.fe with vfs := aput s.fe.vfs vf { v with miss := f v.miss } } }

/-- The ring `k` of entries that the front end writes: the event ring of queue `k`, or the miss log of function
`k - 4096`. An entry that does not go in is dropped, and the overflow mark set. -/
def State.dropEntry (s : State) (k : Nat) : State :=
  if k < 4096 then s.modQueue k fun d => { d with evovf := true } else s.modMiss (k - 4096) fun r => { r with ovf := true }

/-- Where ring `k` takes its next entry: the function whose space it lies in and its address; none when it is full or
disabled. -/
def State.entryAt (s : State) (k : Nat) : Option (Nat × Nat) :=
  if k < 4096 then
    let d := agetD {} s.fe.queues k
    if d.evpi - d.evci = BitVec.ofNat 32 (2 ^ d.evlg) then none else some (d.vf, d.evb + 32 * (d.evpi.toNat % 2 ^ d.evlg))
  else
    let r := (agetD {} s.fe.vfs (k - 4096)).miss
    if r.lg = 0 ∨ r.full then none else some (k - 4096, r.slot 16)

/-- The entry of ring `k` is posted. -/
def State.entryDone (s : State) (k : Nat) : State :=
  if k < 4096 then s.modQueue k fun d => { d with evpi := d.evpi + 1 } else s.modMiss (k - 4096) fun r => { r with pi := r.pi + 1 }

/-- Write the waiting entries of ring `k`, oldest first, up to `n` of them. One that PAGEs is held for service, one whose
walk waits for a page-table store waits with it (R370), and those behind it wait too; any other fault drops it (R333). -/
def State.flushEntries (s : State) (k : Nat) : Nat → State
  | 0 => s
  | n + 1 =>
    match s.fe.evWait.find? fun e => e.2.1 == k with
    | none => s
    | some e =>
      let put (s : State) (l : List (Nat × Nat × Nat)) : State := { s with fe := { s.fe with evWait := l } }
      let out (s : State) : State := put s (s.fe.evWait.erase e)
      let keep (s : State) (h : Nat) : State := put s (s.fe.evWait.replace e (h, e.2))
      match s.entryAt k with
      | none => ((out s).dropEntry k).flushEntries k n
      | some (vf, va) =>
        match s.feWrite vf va (toBytes (if k < 4096 then 32 else 16) e.2.2) with
        | (s1, .ok _) => ((out s1).entryDone k).flushEntries k n
        | (s1, .wait) => keep s1 0
        | (s1, .fault .page) =>
          let (h, s2) := s1.hold { who := .front true k, va := va, asid := (s1.feSpace vf).asid, kind := .write, ctx := 64 }
          keep s2 h
        | (s1, .fault _) => ((out s1).dropEntry k).flushEntries k n

/-- Post an entry to ring `k`, behind those that wait. -/
def State.postEntry (s : State) (k ev : Nat) : State :=
  let first := !(s.fe.evWait.any fun e => e.2.1 == k)
  let s1 : State := { s with fe := { s.fe with evWait := s.fe.evWait ++ [(0, k, ev)] } }
  if first then s1.flushEntries k 1 else s1

/-- Entries that wait without a request try again. -/
def State.retryEntries (s : State) : State :=
  (s.fe.evWait.filter fun e => e.1 == 0).foldl (fun s e =>
    match s.fe.evWait.find? fun x => x.2.1 == e.2.1 with
    | some x => if x.1 = 0 then s.flushEntries e.2.1 s.fe.evWait.length else s
    | none => s) s

/-- A held entry is written again after service, or dropped when service is declined (R333). -/
def State.repost (s : State) (h : Nat) (declined : Bool) : State :=
  match s.fe.evWait.find? fun e => e.1 == h with
  | none => s
  | some e =>
    let s1 : State :=
      if declined then ({ s with fe := { s.fe with evWait := s.fe.evWait.erase e } } : State).dropEntry e.2.1 else s
    s1.flushEntries e.2.1 s1.fe.evWait.length

/-- Post an event (R347). -/
def State.postEvent (s : State) (pq kind code nodeid : Nat) (r : FaultRec) : State :=
  s.postEntry pq (eventNat kind code pq nodeid r)

end Sys2Proof.Machine
end

