-- ==== Sys2Proof/Machine/Ops.lean ====
section
/-!
DEFINITION. Shared operations: the fault record (R44, R100, R148), killing a workgroup (R389), TAKING AN EXCEPTION
(R299 to R308) with the return from one beside it (R140, R310), deferred reports (R312, R434), raise registers (R113 to
R115), and what every control word and every lane word does before its own effect.
-/
namespace Sys2Proof.Machine

/-- Every meaning ends in a next state. -/
abbrev Out := Host.Outcome State Fault Refusal

/-! ### Records -/

/-- Cause codes (R300). -/
def cILLENC : Nat := 0x01
def cPRIV : Nat := 0x02
def cNONUNIFORM : Nat := 0x03
def cSCOPECLASS : Nat := 0x04
def cILLCONV : Nat := 0x05
def cLAVIOL : Nat := 0x06
def cALIGN : Nat := 0x07
def cSPBOUND : Nat := 0x08
def cPAGE : Nat := 0x09
def cPROT : Nat := 0x0A
def cSLOTSTATE : Nat := 0x0B
def cACCSTATE : Nat := 0x0C
def cSHAPE : Nat := 0x0D
def cLAYOUT : Nat := 0x0E
def cFORMAT : Nat := 0x0F
def cTABLE : Nat := 0x10
def cSTACK : Nat := 0x11
def cSCRIPT : Nat := 0x12
def cDRAW : Nat := 0x13
def cRESERVE : Nat := 0x14
def cCHIT : Nat := 0x15
def cRULE : Nat := 0x16
def cTRAP : Nat := 0x17
def cPOISON : Nat := 0x18
def cXFAB : Nat := 0x1A
def cWATCH : Nat := 0x1B

/-- The pc of an agent: of its sequencer, or of its fragment. -/
def State.pcOf (s : State) (a : Agent) : Nat :=
  match a with
  | .lane c w g f => (((s.group ⟨c, w, g⟩).frag f).map (·.pc)).getD 0
  | a => (s.seq a).pc

/-- The record of a precise fault of an agent at its word (R44, R100, R148). -/
def State.record (s : State) (a : Agent) (cause : Nat) (info x0 x1 : Nat := 0) : FaultRec :=
  let g := s.group (s.grpId a)
  let base : FaultRec := { cause := cause, level := scopeOf a, waddr := s.pcOf a, info := info, x0 := x0, x1 := x1 }
  match a with
  | .lane _ _ gi f =>
    { base with grp := gi, lanes := ((g.frag f).map (·.lanes.toNat)).getD 0, rgn := g.rgn.toNat,
                saddr := (g.blk.map (·.saddr)).getD 0 }
  | .group _ _ gi => { base with grp := gi, rgn := g.rgn.toNat }
  | .handler _ _ => { base with grp := (s.grpId a).g, rgn := g.rgn.toNat }
  | _ => base

/-- FAULT0 to FAULT7 (R44). -/
def FaultRec.word (r : FaultRec) (k : Nat) : Nat :=
  match k with
  | 0 => r.w0
  | 1 => r.waddr
  | 2 => r.info
  | 3 => r.rgn
  | 4 => r.tln
  | 5 => r.saddr
  | 6 => r.x0
  | _ => r.x1

/-! ### Killing (R389) -/

/-- Whether a held access belongs to a workgroup. -/
def heldBy (w : WgId) (x : Held) : Bool :=
  let of (a : Agent) : Bool := match a with
    | .wg c v | .group c v _ | .handler c v | .lane c v _ _ => c == w.c && v == w.w
    | _ => false
  match x.who with
  | .lane g _ | .tile g _ => g.wg == w
  | .scalar a | .fetch a => of a
  | .chit v _ | .store v _ => v == w
  | .host _ | .front _ _ => false

/-- A sequencer whose work is discarded. -/
def Seq.kill (q : Seq) : Seq := { q with run := .finished, held := none, out := [], inq := [], barAt := none }

/-- What a group loses by a kill (R389). -/
def Group.kill (g : Group) : Group :=
  { g with laneQ := [], blk := none, frags := [], levels := [], slots := [], spilled := [], log := [], reports := [],
           snap := none, cmds := [], hist := [], base := none, laneWr := [] }

/-- Return draw units to a die (R124, R272). -/
def State.returnDraw (s : State) (w : WgId) : State :=
  let x := s.wg w
  if !x.onCore then s
  else (s.modDie x.core.die fun d => { d with poolFree := d.poolFree + x.drawn }).modWg w fun y => { y with drawn := 0 }

/-- A workgroup no longer waits for draw units. -/
def State.leaveDraw (s : State) (w : WgId) : State :=
  { s with dies := s.dies.map fun d => { d with drawQ := d.drawQ.filter (· != w) } }

/-- A staged copy is gone: the resident context has every physical slot again (R383). -/
def State.unshadow (s : State) (core : CoreId) : State :=
  match s.residentOn core with
  | some r => s.modWg r fun x => { x with phys := 16 }
  | none => s

/-- Whether an outstanding word has a store or atomic still to perform. -/
def Outst.owes (o : Outst) : Bool :=
  match o.kind with
  | .deferred k _ _ _ ts _ => k != .read && ts != []
  | _ => false

/-- Step 7 of R389: draw units, slots and tiles are released, and the partition is zeroed. -/
def State.releaseWg (s : State) (w : WgId) : State :=
  (s.returnDraw w).modWg w fun x => { x with
    place := .killed, slots := [], accs := [], banks := [], sp := [], spPoison := [], tags := 0, cts := [], owed := [] }

/-- Steps 1 to 5 of R389 for one workgroup: issue stops, queued work, unconsumed chits and logged accesses are discarded,
and what was issued still performs. A context that is not on its core holds nothing more. -/
def State.killWg (s : State) (w : WgId) : State :=
  let x := s.wg w
  if x.place = .dying ∨ x.place = .killed then s
  else
    let owed := (s.groupsOf w).flatMap fun g => ((s.groupOuts g).filter Outst.owes).map fun o => (g.g, o)
    let s0 := s.leaveDraw w
    let s1 := if x.place = .staged then s0.unshadow x.core else s0
    let lost (p : PStore) : Bool := p.src == w && p.again && (p.faulted || s1.holds.any fun x => x.2.who == .store w p.sid)
    let s2 := { s1 with holds := s1.holds.filter (fun x => !heldBy w x.2), pend := s1.pend.filter fun p => !lost p }
    let s3 := (s2.groupsOf w).foldl (fun s g => ((if x.place = .resident then s.acquire g 6 else s).modGroup g Group.kill).modSeq g.stream Seq.kill) s2
    let s4 := (s3.modSeq (.wg w.c w.w) Seq.kill).modSeq (.handler w.c w.w) Seq.kill
    let s5 := s4.modWg w fun x => { x with
      place := .dying, owed := owed, claims := [], drawWait := [], chits := [], notifyQ := [], hrun := none, hwait := []
      stale := [], past := [] }
    if x.place = .resident then s5
    else (s5.modWg w fun y => { y with place := x.place }).releaseWg w

/-- Whether everything that a killed workgroup issued has performed, and its remote transfers are acknowledged or lost
(R389). -/
def State.quietWg (s : State) (w : WgId) : Bool :=
  s.pend.all (fun p => p.src != w) && (s.wg w).owed == [] && s.peerOut.all fun p => p.src != w

/-- A workgroup ends as ABORT does: it is killed and its node fails with these records (R141, R305, R345). -/
def State.abortWg (s : State) (w : WgId) (rs : List FaultRec) : State :=
  (s.killWg w).modGrid w.c fun g => { g with failing := g.failing ++ rs.map fun r => (4, r) }

/-! ### Taking an exception -/

/-- The run state of R260: a sequencer that a long-latency word, an ending word or a word that cannot issue yet holds is
Waiting too (R99). -/
def Seq.state (q : Seq) : Run :=
  if q.run = .running ∧ (q.blocked ∨ q.out ≠ [] ∧ (q.atEnd ∨ q.out.any (·.left == 0))) then .waiting else q.run

/-- A stream held by a fault or by GSTATE and GSET keeps the run state it had (R138, R306). -/
def Seq.stop (q : Seq) : Seq := if q.run = .stopped then q else { q with prior := q.run, run := .stopped }
def Seq.unstop (q : Seq) : Seq := if q.run = .stopped then { q with run := q.prior } else q

/-- The control-word address of the handler for a cause; none when the table gives no handler (R305). -/
def Wg.handlerFor (x : Wg) (cause : Nat) : Option Nat :=
  let base := (cget 0 x.htab 0).toNat
  let e := (cget 0 x.htab (cause % 128)).toNat
  if e = 0 ∨ e % 4 ≠ 0 ∨ e < base ∨ base + 0x10000 ≤ e then none else some e

/-- Enter the trap handler for a record (R305, R306): the slot's group stream stops, the handler's bank is zero but for
s1 and s2, and it starts at the table's address. Without a handler the workgroup ends. -/
def State.enterHandler (s : State) (w : WgId) (a : Agent) (r : FaultRec) (rep : Option Report) : State :=
  match (s.wg w).handlerFor r.cause with
  | none => s.abortWg w [r]
  | some e =>
    let g : GrpId := ⟨w.c, w.w, hostGroup a⟩
    let s1 := s.modSeq g.stream Seq.stop
    let s2 := s1.modWg w fun x => { x with
      hrun := some (a, rep.isSome), hcause := r, freg := csetList 0 [] 0 ((List.range 8).map r.word) }
    let s3 := (s2.timedCut g).modGroup g fun y => { y with snap := rep }
    s3.setSeq (.handler w.c w.w)
      { s := cset 0 (cset 0 [] 1 (BitVec.ofNat 64 r.grp)) 2 (BitVec.ofNat 64 r.w0), pc := e, run := .running }

/-- Runnable fragments hold slots, two at most; the rest are spilled, and the oldest spilled one fills a free slot (R176,
R177). -/
def Group.fill (g : Group) (clock : Nat) : Group :=
  let live := g.slots.filter fun f => ((g.frag f).map fun x => decide (x.st = .runnable)).getD false
  let idle := (g.frags.filter fun x => x.st = .runnable ∧ !live.contains x.fid).map (·.fid)
  let queue := g.spilled.filter idle.contains ++ idle.filter fun f => !g.spilled.contains f
  let new := queue.take (2 - live.length)
  { g with slots := live ++ new, spilled := queue.drop (2 - live.length)
           frags := g.frags.map fun x => if new.contains x.fid then { x with since := clock } else x }

/-- Refill the slots of a group. -/
def State.refill (s : State) (g : GrpId) : State := s.modGroup g fun y => y.fill s.clock

/-- Stop the stream that faulted: a sequencer is Stopped, a fragment sleeps (R260, R302). -/
def State.stopStream (s : State) (a : Agent) : State :=
  match a with
  | .lane c w g f => s.modGroup ⟨c, w, g⟩ fun y => (y.modFrag f fun x => { x with st := .asleep }).fill s.clock
  | a => s.modSeq a Seq.stop

/-- TAKE AN EXCEPTION: a precise fault of agent `a` with record `r`. A grid fault goes to the front end (R346); a fault
of the handler itself ends the workgroup with both records (R308); any other stops the faulting stream and enters the
workgroup's handler, or waits its turn behind the one that runs, with its group's stream stopped (R308). -/
def State.takeFault (s : State) (a : Agent) (r : FaultRec) : State :=
  match a with
  | .grid c =>
    let g := s.grid c
    let s1 := s.modSeq a Seq.stop
    if r.cause = cSCRIPT then
      (s1.modGrid c fun g => { g with scriptStop := true }).postEvent g.pq 6 0 g.nodeid r
    else s1.modGrid c fun g => { g with failing := g.failing ++ [(3, r)] }
  | .handler c w => s.abortWg ⟨c, w⟩ [(s.wg ⟨c, w⟩).hcause, r]
  | a =>
    let w := s.wgId a
    let s1 := s.stopStream a
    if (s.wg w).hrun.isSome then
      (match a with | .lane _ _ _ _ => s1.modSeq (s.grpId a).stream Seq.stop | _ => s1).modWg w
        fun x => { x with hwait := x.hwait ++ [(a, r, none)] }
    else s1.enterHandler w a r none

/-- A precise fault of the executing agent at its word. -/
def State.fault (s : State) (cause : Nat) (info x0 x1 : Nat := 0) : State :=
  s.takeFault s.cur (s.record s.cur cause info x0 x1)

/-- A failed check of R65: INFO quotes the parcel, its number and the check code (R66). -/
def State.faultBad (s : State) (b : Bad) (parcel : Nat → Nat) : State :=
  match b with
  | .illenc p c => s.fault cILLENC (parcel p * 2 ^ 32 + p * 2 ^ 8 + c)
  | .priv => s.fault cPRIV (parcel 0 * 2 ^ 32)
  | .scopeClass => s.fault cSCOPECLASS (parcel 0 * 2 ^ 32)

/-! ### Deferred reports (R312, R434) -/

/-- Queue a report for a group; none while it holds eight. -/
def State.queueReport (s : State) (g : GrpId) (r : Report) : Option State :=
  let y := s.group g
  if 8 ≤ y.reports.length then none
  else
    let n := (s.wg g.wg).reportOrder
    some ((s.setGroup g { y with reports := y.reports ++ [{ r with order := n }] }).modWg g.wg
      fun x => { x with reportOrder := n + 1 })

/-- Deliver a held report of a group: its handler is entered now, or after the one that runs (R135, R308). -/
def State.deliver (s : State) (g : GrpId) (r : Report) : State :=
  let s1 := s.modGroup g fun y => { y with reports := y.reports.filter (· != r) }
  if (s.wg g.wg).hrun.isSome then
    (s1.modSeq g.stream Seq.stop).modWg g.wg fun x => { x with hwait := x.hwait ++ [(g.stream, r.fr, some r)] }
  else s1.enterHandler g.wg g.stream r.fr (some r)

/-! ### Raise registers (R113 to R115, R268) -/

/-- Members of a sequencer's raise registers (R113): the lanes for a group stream, groups for a workgroup, workgroups
by POS for a pitch. -/
def State.members (s : State) (a : Agent) : List Nat :=
  match a with
  | .wg c w => (s.groupsOf ⟨c, w⟩).map (·.g)
  | .pitch c p => List.range (s.pitch c p).wgs.length
  | _ => []

/-- The stream of member `m`. -/
def State.memberAgent (s : State) (a : Agent) (m : Nat) : Agent :=
  match a with
  | .wg c w => .group c w m
  | .pitch c p => .wg c ((s.pitch c p).wgs.getD m 0)
  | a => a

/-- Combine contributions by the FN codes of RAISE (R113); `xs` is not empty. -/
def combine (op : Nat) (xs : List Nat) : Nat :=
  let m := 2 ^ 64
  let least (lt : Nat → Nat → Bool) (l : List Nat) : Nat := l.tail.foldl (fun a b => if lt b a then b else a) (l.headD 0)
  let si (a b : Nat) : Bool := sintN 64 a < sintN 64 b
  match op with
  | 0 => xs.foldl (· &&& ·) (m - 1)
  | 1 => xs.foldl (· ||| ·) 0
  | 2 => least si xs
  | 3 => least (· < ·) xs
  | 4 => least (fun a b => si b a) xs
  | 5 => least (fun a b => b < a) xs
  | 6 => xs.foldl (· + ·) 0 % m
  | _ => least (· < ·) xs

/-- Whether a register differs (R113). -/
def EReg.differs (e : EReg) : Bool :=
  e.op == 7 && (e.vals.any (fun x => x.2.2) || e.vals.any fun x => x.2.1 != (e.vals.headD (0, 0, false)).2.1)

/-- What a differing register records (R115). -/
def EReg.nonUni (e : EReg) : NonUni :=
  let xs := e.vals.map fun x => x.2.1.toNat
  let x0 := combine 3 xs
  let rest := xs.filter (· != x0)
  let x1 := if rest = [] then x0 else combine 3 rest
  { x0 := BitVec.ofNat 64 x0, x1 := BitVec.ofNat 64 x1,
    mask := maskOf 32 (e.vals.map Prod.fst),
    notX0 := maskOf 32 ((e.vals.filter fun x => x.2.1.toNat != x0).map Prod.fst) }

/-- The first outstanding word of a kind leaves, or becomes `new`. -/
def changeOut (k : OutKind) (new : Option OutKind) : List Outst → List Outst
  | [] => []
  | o :: l =>
    if o.kind = k then
      match new with
      | some t => { o with kind := t } :: l
      | none => l
    else o :: changeOut k new l

/-- Change the RAISE of a member into register `n` of `a`: it completes, or a differing AWAIT holds it (R113, R115). -/
def State.changeRaise (s : State) (a : Agent) (m : Agent) (k : OutKind) (new : Option OutKind) : State :=
  match a with
  | .group c w g => s.modGroup ⟨c, w, g⟩ fun y =>
      { y with frags := y.frags.map fun f => { f with out := changeOut k new f.out } }
  | _ => s.modSeq m fun q => { q with out := changeOut k new q.out }

/-- Complete the RAISE of a member into register `n` of `a` (R113). -/
def State.completeRaise (s : State) (a : Agent) (n : Nat) (m : Agent) : State := s.changeRaise a m (.raise a n) none

/-- Release the RAISEs that R115 holds. -/
def State.releaseHeld (s : State) (a : Agent) : State :=
  let q := s.seq a
  q.heldRaise.foldl (fun s x => s.changeRaise a x.1 (.heldRaise a x.2) none) (s.setSeq a { q with heldRaise := [] })

/-- Whether every member has contributed to a register (R114). -/
def State.raiseFull (s : State) (a : Agent) (e : EReg) : Bool :=
  match a with
  | .group _ _ _ => e.mask != []
  | _ => (s.members a).all e.mask.contains

/-- AWAIT's effect once every member has contributed (R114, R115): the combined value and its mark, the register
emptied, the contributing RAISEs completed or held. -/
def State.awaitNow (s : State) (a : Agent) (d n : Nat) : State :=
  let q := s.seq a
  let e := agetD {} q.e n
  let v := combine e.op (e.vals.map fun x => x.2.1.toNat)
  let q0 := q.writeReg d (BitVec.ofNat 64 v) e.differs
  let q1 := { q0 with known := if d = 0 then q0.known else cset 0 q0.known d e.known }
  let ms := (s.members a).map (s.memberAgent a)
  let ms := match a with | .group _ _ _ => [a] | _ => ms
  let q2 := { q1 with e := adel q1.e n }
  if e.differs then
    ms.foldl (fun s m => s.changeRaise a m (.raise a n) (some (.heldRaise a n)))
      (s.setSeq a { q2 with nonuni := some e.nonUni, heldRaise := q2.heldRaise ++ ms.map fun m => (m, n) })
  else ms.foldl (fun s m => s.completeRaise a n m) (s.setSeq a q2)

/-! ### Returning from an exception -/

/-- The next waiting handler is entered, in the order in which the faults were taken (R308). -/
def State.nextHandler (s : State) (w : WgId) : State :=
  let x := s.wg w
  match x.hwait with
  | [] => s
  | (a, r, rep) :: l => (s.setWg w { x with hwait := l }).enterHandler w a r rep

/-- The handler ends: its slot is free for the next (R140, R307). -/
def State.endHandler (s : State) (w : WgId) : State :=
  let g : GrpId := s.grpId (.handler w.c w.w)
  let s1 := s.modGroup g fun y => { y with snap := none }
  let s2 := s1.modWg w fun x => { x with hrun := none, hcause := {}, freg := [] }
  (s2.setSeq (.handler w.c w.w) {}).nextHandler w

/-- RESUME .pr of the stream that a record stopped (R309, R310): the word reissues, with memory words taken from the
operand log, or, after TRAP, execution goes on at the next word (after a TRAP of the workgroup or pitch sequencer in both
modes, log entry 68). RESERVE reissues from the registers. A fragment whose
word still has lanes under page service sleeps on. The RAISEs that a deciding word left held are released (R115). -/
def State.restart (s : State) (a : Agent) (r : FaultRec) : State :=
  let entry (mine : LogEntry → Bool) (l : List LogEntry) : List LogEntry :=
    if r.cause = cRESERVE then l.filter fun e => !mine e else l.map fun e => if mine e then { e with declined := true } else e
  match a with
  | .lane c w g f =>
    s.modGroup ⟨c, w, g⟩ fun y =>
      let paged := y.log.any fun e => e.frag = some f ∧ e.pageLanes ≠ 0
      ({ (y.modFrag f fun x => if paged then x else { x with st := .runnable }) with
        log := entry (fun e => e.frag == some f) y.log } : Group).fill s.clock
  | a =>
    let s1 : State := match a with
      | .group _ _ _ => s.modGroup (s.grpId a) fun y => { y with log := entry (fun e => e.frag == none && e.waddr == r.waddr) y.log }
      | _ => s
    let s2 := if r.cause = cNONUNIFORM ∧ r.info ≠ 0 then s1.releaseHeld a else s1
    s2.modSeq a fun q =>
      let q1 := if r.cause = cTRAP then q.adv else q
      if q1.run = .stopped then { q1 with run := if q1.prior = .idle then .idle else .running, held := none } else q1

/-- Commands, chits and cancelled stores of a group whose page service was declined are no longer held once the group
resumes: they access again. -/
def State.unhold (s : State) (g : GrpId) : State :=
  let gone (h : Option Nat) : Bool := match h with
    | some h => (aget? s.holds h).isNone
    | none => false
  let s1 : State := { s with pend := s.pend.map fun p => if p.src = g.wg ∧ p.grp = g.g then { p with faulted := false } else p }
  (s1.modGroup g fun y => { y with cmds := y.cmds.map fun c => if gone c.hold then { c with hold := none } else c }).modWg g.wg
    fun x => { x with chits := x.chits.map fun c => if c.grp = g.g ∧ gone c.hold then { c with hold := none } else c }

/-- The fault of group `g`'s own stream or lanes that waits its turn first (R308). -/
def Wg.ownFault (x : Wg) (g : Nat) : Option (Agent × FaultRec × Option Report) :=
  x.hwait.find? fun e => e.2.2.isNone && match e.1 with
    | .group _ _ k | .lane _ _ k _ => k == g
    | _ => false

/-- RESUME .pr of group `g` (R140, R310): of the handler's own group, which ends the handler; of a group that waits
with a fault of its own; or of one that GSTATE or GSET stopped. A group with another fault waiting stays stopped (R308); one
with a delivered report whose handler waits its turn goes on, and the report keeps its turn (log entry 68). -/
def State.resumePr (s0 : State) (g : GrpId) : State :=
  if (s0.seq g.stream).run ≠ .stopped then s0
  else
    let s := s0.unhold g
    let x := s.wg g.wg
    let go (s : State) (a : Agent) (r : FaultRec) : State :=
      let s1 := s.restart a r
      if ((s1.wg g.wg).ownFault g.g).isSome then s1.modSeq g.stream Seq.stop
      else if a = g.stream then s1 else s1.modSeq g.stream Seq.unstop
    let free (s : State) : State := if ((s.wg g.wg).ownFault g.g).isSome then s else s.modSeq g.stream Seq.unstop
    match x.hrun with
    | some (a, rep) =>
      if hostGroup a = g.g then (if rep then free s else go s a x.hcause).endHandler g.wg
      else
        match x.ownFault g.g with
        | some (a', r, _) => go (s.setWg g.wg { x with hwait := x.hwait.filter (fun e => e.1 != a' || e.2.2.isSome) }) a' r
        | none => free s
    | none => free s

/-- RESUME .rg (R140, R267, R311): outstanding words, queued blocks, fragments, tile words, log entries and reports of
the group are discarded, and it starts at its region entry. Its phase ends, at .sy: R288 names no scope (log entry 68). A group that had ended its block
runs it again, so its receipt counts as not ended (R263); one that never had a receipt stays idle. Discarded tile words
count as retired for TLM (log entry 55), and a receipt in error at which it stopped is discarded as ended (R415, log entry 68). -/
def State.resumeRg (s : State) (g : GrpId) : State :=
  let x := s.wg g.wg
  let y := s.group g
  let mine (a : Agent) : Bool := match a with
    | .group c w k | .lane c w k _ => c == g.c && w == g.w && k == g.g
    | _ => false
  if (s.seq g.stream).run ≠ .stopped then s
  else
    let keepHeld (h : Held) : Bool := match h.who with
      | .lane k _ | .tile k _ => k != g
      | .scalar a | .fetch a => !mine a
      | _ => true
    let s1 := { s with holds := s.holds.filter fun z => keepHeld z.2 }
    let s2 := (s1.setGroup g y.kill).unhold g
    let s3 := s2.modSeq g.stream fun q =>
      let again := q.prior = .idle
      let skip := again && ((q.inq.head?.map (·.bad)).getD false)
      { q with
        pc := y.regionPc, rc := y.regionRc, run := if again ∧ q.ended = 0 then .idle else .running
        inq := if skip then q.inq.tail else q.inq
        ended := (if again then q.ended - 1 else q.ended) + (if skip then 1 else 0)
        held := none, vals := [], decided := false, out := [], heldRaise := [], barAt := none, atEnd := false, slipped := false
        blocked := false, viol := none }
    let s4 := (s3.modWg g.wg fun x => { x with
      hwait := x.hwait.filter fun e => !mine e.1
      claims := x.claims.filter fun c => c.grp != g.g
      drawWait := x.drawWait.filter fun d => (d.map Prod.fst) != some g.g }).acquire g 6
    match x.hrun with
    | some (a, _) =>
      if hostGroup a = g.g then
        (match a with
         | .wg _ _ | .pitch _ _ => s4.restart a x.hcause
         | _ => s4).endHandler g.wg
      else s4
    | none => s4

/-! ### What every control word does first -/

/-- A control word: the checks of R65 and R66 at the executing level, then source registers in error (R415), then the
word's own effect, given its level. A lane engine never executes one. -/
def ctl (i : Instr) (s : State) (f : Lvl → State) : Out :=
  match lvlOf s.cur with
  | none => .next s
  | some l =>
    let w := encodeControl i
    match ctlCheck l w with
    | some b => .next (s.faultBad b fun _ => w)
    | none =>
      if (ctlSpec l w).src.any ((s.seq s.cur).badRegs.contains ·) then .next (s.fault cPOISON) else .next (f l)

/-- The executing sequencer. -/
def State.me (s : State) : Seq := s.seq s.cur

/-- Write s(d) with its mark and go to the next word. -/
def State.putReg (s : State) (d : Nat) (v : Word) (mark : Bool) : State :=
  s.modSeq s.cur fun q => (q.writeReg d v mark).adv

/-- Go to the next word. -/
def State.advance (s : State) : State := s.modSeq s.cur Seq.adv

/-- The word cannot issue yet, with no effect: the next turn tries it again. -/
def State.stall (s : State) : State := { s with stalled := true }

/-- Wait at a word (R99): the stream is held with the operands that the word read as it issued, and its completion event
carries its effect out. -/
def State.waitAt (s : State) (i : Instr) (vals : List Word := []) : State :=
  s.modSeq s.cur fun q => { q with run := .waiting, held := some i, vals := vals, decided := false }

/-- Operand `k` that the word waited at read. -/
def Seq.latched (q : Seq) (k : Nat) : Word := q.vals.getD k 0

/-- A waiting word of `a` completes: the stream runs on at the next word. -/
def State.resumeNext (s : State) (a : Agent) : State :=
  s.modSeq a fun q => { q.adv with run := .running, held := none, vals := [], decided := false, barAt := none }

/-- The held RAISEs of the executing sequencer are released (R115). -/
def State.freed (s : State) : State := s.releaseHeld s.cur

/-- A deciding word (R25, R115): a marked register raises NONUNIFORM with the record of the last differing AWAIT. The
word releases the held RAISEs with its own effect (`State.freed`), so that a fault of its own leaves them held. -/
def State.deciding (s : State) (l : Lvl) (regs : List Nat) (f : State → State) : State :=
  if regs.any ((s.me).mark l ·) then
    match s.me.nonuni with
    | some x => s.fault cNONUNIFORM (x.mask % 2 ^ 32 + x.notX0 % 2 ^ 32 * 2 ^ 32) x.x0.toNat x.x1.toNat
    | none => s.fault cNONUNIFORM
  else f s

/-- Put an outstanding word beside the stream and go to the next word (R56, R98). -/
def State.issueLong (s : State) (la : Nat) (k : OutKind) (rd wr : List RegRef) (bytes : List (Bool × Nat × Nat)) : State :=
  s.modSeq s.cur fun q => { q.adv with
    out := q.out ++ [{ pc := q.pc, left := la, kind := k, rd := rd, wr := wr, bytes := bytes }] }

end Sys2Proof.Machine
end

