-- ==== Sys2Proof/Machine/Special.lean ====
section
/-!
DEFINITION. Timelines (R18, R131, R207, R208), LEAD (R263), and the special registers (R36 to R44, R420).
-/
namespace Sys2Proof.Machine

/-! ### Timelines -/

/-- TLM names of the unretired numbered words of a group. -/
def Group.unretired (y : Group) : List Nat := y.cmds.flatMap fun c => c.origins.map (·.num)

/-- TLM: every numbered word up to it has retired (R18). -/
def Group.tlm (y : Group) : Nat := (y.unretired.foldl (fun a n => min a (n - 1)) y.lastNum)

/-- Whether a batch of group `g` with bound `b` is complete (R207). -/
def Wg.batchDone (x : Wg) (g b : Nat) : Bool := b ≤ x.cons && x.chits.all fun c => c.grp != g || b ≤ c.idx

/-- TLC of group `g`: complete batches from the first (R131, R207). -/
def Wg.tlc (x : Wg) (y : Group) (g : Nat) : Nat := (y.bounds.takeWhile (x.batchDone g)).length

/-- TLX of a workgroup: remote chits completed from the first, in consumption order (R208). -/
def Wg.tlx (x : Wg) : Nat := (x.chits.filterMap (·.remote)).foldl min x.remotes

/-- The number of the batch that holds ring index `i` of a group: one more than the bounds at or below it (R207). -/
def Group.batchOf (y : Group) (i : Nat) : Nat := (y.bounds.filter (· ≤ i)).length + 1

/-! ### LEAD (R263) -/

/-- Receipts ended by each pitch of a grid, none for a pitch not started. -/
def State.pitchEnded (s : State) (c p : Nat) : Nat := (s.seq (.pitch c p)).ended

def State.lead (s : State) (a : Agent) : Nat :=
  let q := s.seq a
  let worst (rs : List Agent) : Nat := rs.foldl (fun m r => max m (q.sent - (s.seq r).ended)) 0
  match a with
  | .grid c => worst ((List.range (s.grid c).npitch).map fun p => .pitch c p)
  | .pitch c p => worst ((s.wgsOf c p).map fun w => .wg w.c w.w)
  | .wg c w => worst ((s.groupsOf ⟨c, w⟩).map GrpId.stream)
  | a =>
    let y := s.group (s.grpId a)
    y.laneQ.length + (if y.blk.isSome then 1 else 0)

/-! ### Special registers -/

/-- DEFSIG of a die (R420). -/
def Die.defsig (d : Die) : Nat :=
  let blk := maskOf 36 (d.out.map fun x => x.2 / 2 * 6 + x.1 / 2)
  blk + d.out.length % 256 * 2 ^ 44 + d.gen % 4096 * 2 ^ 52

/-- PITCHPOS (R37, R38): at the pitch level PX, PY and POS read zero. -/
def State.pitchPos (s : State) (a : Agent) : Nat :=
  let g := s.grid (ctxOf a)
  let (p, pos) := match a with
    | .pitch _ p => (p, 0)
    | a => let w := s.wg (s.wgId a); (w.pitch, w.pos)
  pos + pos % g.pw * 2 ^ 8 + pos / g.pw * 2 ^ 12 + g.pw * 2 ^ 16 + g.ph * 2 ^ 20 + p * 2 ^ 32

/-- What RDSR reads (R37); the index is one of the level's (R36). -/
def State.srRead (s : State) (n : Nat) : Nat :=
  let a := s.cur
  let c := ctxOf a
  let g := s.grid c
  let w := s.wg (s.wgId a)
  let gi := s.grpId a
  let y := s.group gi
  let core := s.coreOf a
  match n with
  | 0x001 => gi.g + (g.k.groups - 1) * 16
  | 0x002 => w.gidx + g.gx * g.gy * g.gz * 2 ^ 32
  | 0x003 => s.pitchPos a
  | 0x004 => w.gidx % g.gx + w.gidx / g.gx % g.gy * 2 ^ 20 + w.gidx / (g.gx * g.gy) * 2 ^ 40
  | 0x005 => core.x + core.y * 16 + core.die * 256
  | 0x006 => core.die
  | 0x007 => (s.die core.die).defsig
  | 0x008 => g.args % 2 ^ 57
  | 0x010 => y.rgn.toNat
  | 0x011 => s.lead (s.ownOf a)
  | 0x012 => (s.seq (s.ownOf a)).slip.toNat
  | 0x013 => if (s.seq (s.ownOf a)).dbg then 1 else 0
  | 0x020 => w.tags.toNat
  | 0x021 => w.tlc y gi.g
  | 0x022 => y.tlm
  | 0x023 => w.tlx
  | 0x024 => y.sealed
  | 0x030 => y.fctl
  | 0x031 => y.fflags
  | 0x032 => w.drawn % 2048
  | 0x033 => g.dgrant % 2048
  | 0x034 => if y.perm then 1 else 0
  | n =>
    if 0x040 ≤ n ∧ n ≤ 0x047 then (s.me.ctr (n - 0x040)).toNat
    else if 0x100 ≤ n ∧ n ≤ 0x107 then cget 0 w.freg (n - 0x100)
    else 0

/-- The bits that FAULTk has (R7, R44). -/
def faultMask (k v : Nat) : Nat :=
  match k with
  | 0 => bits v 10 0 + bits v 19 16 * 2 ^ 16 + bits v 63 32 * 2 ^ 32
  | 1 | 5 => v % 2 ^ 57
  | 3 => v % 2 ^ 32
  | _ => v

/-- MODE is one register of a grid context, which all its sequencers read: R37 does not mark it own (log entry 56). -/
def State.setMode (s : State) (c : Nat) (b : Bool) : State :=
  ({ s with seqs := s.seqs.map fun x => (x.1, if ctxOf x.1 = c then { x.2 with dbg := b } else x.2) } : State).modGrid c
    fun g => { g with dbg := b }

/-- What WRSR writes (R36, R41, R42, R44, R104): SLIP, FCTL, FFLAGS, and in the handler MODE and FAULT0 to FAULT7. -/
def State.srWrite (s : State) (n : Nat) (v : Word) : State :=
  let gi := s.grpId s.cur
  match n with
  | 0x012 => s.modSeq (s.ownOf s.cur) fun q => { q with slip := v }
  | 0x013 => s.setMode (ctxOf s.cur) (v.getLsbD 0)
  | 0x030 => s.modGroup gi fun y => { y with fctl := drndOf v.toNat }
  | 0x031 => s.modGroup gi fun y => { y with fflags := v.toNat % 32 }
  | n =>
    if 0x100 ≤ n ∧ n ≤ 0x107 then
      s.modWg (s.wgId s.cur) fun x => { x with freg := cset 0 x.freg (n - 0x100) (faultMask (n - 0x100) v.toNat) }
    else s

/-- Whether RDSR or WRSR of FCTL or FFLAGS must wait: a queued or running lane block, or an ADRAIN not completed, of
the group, in whose slot a handler runs (R39). -/
def State.flagsBusy (s : State) (n : Nat) : Bool :=
  let y := s.group (s.grpId s.cur)
  let drains (c : TileCmd) : Bool := c.origins.any fun o => match o.op with
    | .adrainSp .. | .adrainReg .. => true
    | _ => false
  match s.cur with
  | .group _ _ _ | .handler _ _ => (n == 0x030 || n == 0x031) && (y.laneQ != [] || y.blk.isSome || y.cmds.any drains)
  | _ => false

end Sys2Proof.Machine
end

