-- ==== Sys2Proof/Machine/Branch.lean ====
section
/-! DEFINITION. Branches, calls and loops of the control sequencers (R105 to R107, R435). -/
namespace Sys2Proof.Machine

/-- The address `off` words from the word (R48). -/
def branchTo (pc : Nat) (off : BitVec 14) : Int := pc + 4 * off.toInt

/-- Go to `t`, which must be a word of the section (R105), with the given change of the sequencer, after `pre`. -/
def State.jump (s : State) (t : Int) (f : Seq → Seq := id) (pre : State → State := id) : State :=
  if 0 ≤ t ∧ s.inSection s.cur t.toNat then (pre s).modSeq s.cur fun q => { f q with pc := t.toNat }
  else s.fault cPROT (wrapN 64 t)

/-- Depth of the call stack: 16 resident entries and 240 spilled (R107). -/
def stackDepth : Nat := 256

/-- Push the return address and go to `t`; a full stack raises STACK (R107). -/
def State.callTo (s : State) (t : Int) (pre : State → State := id) : State :=
  if stackDepth ≤ s.me.stack.length then s.fault cSTACK 0
  else s.jump t (fun q => { q with stack := BitVec.ofNat 64 (q.pc + 4) :: q.stack }) pre

def execBr (sc : BitVec 3) (off : BitVec 14) (s : State) : Out :=
  ctl (.br sc off) s fun l => s.deciding l [] fun s => s.jump (branchTo s.me.pc off) id State.freed

def execBz (sc : BitVec 3) (a : BitVec 6) (off : BitVec 14) (s : State) : Out :=
  ctl (.bz sc a off) s fun l => s.deciding l [a.toNat] fun s =>
    s.jump (if s.me.readReg l a.toNat = 0 then branchTo s.me.pc off else s.me.pc + 4) id State.freed

def execBnz (sc : BitVec 3) (a : BitVec 6) (off : BitVec 14) (s : State) : Out :=
  ctl (.bnz sc a off) s fun l => s.deciding l [a.toNat] fun s =>
    s.jump (if s.me.readReg l a.toNat ≠ 0 then branchTo s.me.pc off else s.me.pc + 4) id State.freed

def execCall (sc : BitVec 3) (off : BitVec 14) (s : State) : Out :=
  ctl (.call sc off) s fun _ => s.callTo (branchTo s.me.pc off)

/-- CALL through a register counts words from the base of the section. -/
def execCallReg (sc : BitVec 3) (a : BitVec 6) (s : State) : Out :=
  ctl (.callReg sc a) s fun l => s.deciding l [a.toNat] fun s =>
    s.callTo ((s.section s.cur).1 + 4 * (s.me.readReg l a.toNat).toNat) State.freed

/-- RET; an empty stack raises STACK (R107). -/
def execRet (sc : BitVec 3) (s : State) : Out :=
  ctl (.ret sc) s fun _ =>
    match s.me.stack with
    | [] => s.fault cSTACK 1
    | t :: _ => s.jump t.toNat fun q => { q with stack := q.stack.tail }

/-- Write loop counter `n` and go on (R27). -/
def State.setCtr (s : State) (n : Nat) (v : Nat) : State :=
  s.modSeq s.cur fun q => { q.adv with lc := cset 0 q.lc n (BitVec.ofNat 32 v) }

def execLoop (sc n : BitVec 3) (a : BitVec 6) (s : State) : Out :=
  ctl (.loop sc n a) s fun l => s.deciding l [a.toNat] fun s =>
    s.freed.setCtr n.toNat (min (s.me.readReg l a.toNat).toNat 0xFFFFFFFF)

def execLoopi (sc n : BitVec 3) (t : BitVec 9) (s : State) : Out :=
  ctl (.loopi sc n t) s fun _ => s.setCtr n.toNat t.toNat

/-- NEXT: the loop ends at a count of 1 or 0 (R106). -/
def execNext (sc n : BitVec 3) (off : BitVec 14) (s : State) : Out :=
  ctl (.next sc n off) s fun _ =>
    let c := (s.me.ctr n.toNat).toNat
    if c ≤ 1 then s.setCtr n.toNat 0
    else s.modSeq s.cur fun q =>
      { q with pc := wrapN 57 (branchTo q.pc off), lc := cset 0 q.lc n.toNat (BitVec.ofNat 32 (c - 1)) }

end Sys2Proof.Machine
end

