-- ==== Sys2Proof/Machine/Frags.lean ====
section
/-!
DEFINITION. Fragments and divergence levels of a lane engine: arrival, merging, slots, and what every lane word does
first and last (R144, R170 to R178).
-/
namespace Sys2Proof.Machine

/-- Whether a split leaves an outstanding word in both fragments as it is: a contribution, a store to NOTIFY, a tile word. -/
def OutKind.shared : OutKind → Bool
  | .raise _ _ | .heldRaise _ _ | .notify _ | .tile _ => true
  | _ => false

/-- The outstanding words of two fragments that merge: a word that both hold is one. -/
def joinOuts (xs ys : List Outst) : List Outst :=
  ys.foldl (fun l o => match l.find? fun z => z.kind.shared && z.kind == o.kind with
    | some z => l.replace z { z with left := min z.left o.left }
    | none => l ++ [o]) xs

/-- Merge fragment `gone` into `keep`: lanes and outstanding words join, and references to `gone` name `keep` (R172,
R174). -/
def Group.merge (g : Group) (keep gone : Nat) : Group :=
  match g.frag keep, g.frag gone with
  | some a, some b =>
    let m : Frag := { a with lanes := a.lanes ||| b.lanes, out := joinOuts a.out b.out, fault := a.fault && b.fault }
    { g with
      frags := (g.frags.filter fun x => x.fid ≠ gone).map fun x =>
        if x.fid = keep then (if a.split = some gone then { m with split := b.split } else m)
        else if x.split = some gone then { x with split := some keep } else x
      log := g.log.map fun e => if e.frag = some gone then { e with frag := some keep } else e }
  | _, _ => g

/-- A fragment arrives at its innermost level when its pc is the join address; a level that all its lanes have reached
is freed and its fragment goes on, perhaps to the parent's join (R172). -/
def Group.arrive (g : Group) (f : Nat) : Nat → Group
  | 0 => g
  | k + 1 =>
    match g.frag f with
    | none => g
    | some x =>
      match x.level with
      | none => g
      | some l =>
        match g.level l with
        | none => g
        | some L =>
          if x.pc ≠ L.join then g
          else
            let arr := L.arrived ||| x.lanes
            let g1 := g.modFrag f fun y => { y with st := .waiting, fault := false }
            let g2 := { g1 with levels := g1.levels.map fun (v : Level) => if v.lid = l then { v with arrived := arr } else v }
            let other := g.frags.find? fun y => y.fid ≠ f ∧ y.level = some l ∧ y.st = .waiting
            let (g3, f') := match other with
              | some o => (g2.merge o.fid f, o.fid)
              | none => (g2, f)
            if arr = L.lanes then
              let g4 := { g3 with levels := g3.levels.filter fun (v : Level) => v.lid ≠ l }
              (g4.modFrag f' fun y => { y with st := .runnable, level := L.parent, split := none }).arrive f' k
            else g3

/-- Put fragment `f` at `pc`, let it arrive, and refill the slots. -/
def State.goTo (s : State) (g : GrpId) (f pc : Nat) : State :=
  s.modGroup g fun y =>
    (((y.modFrag f fun x => { x with pc := pc }).arrive f (y.levels.length + 1)).fill s.clock)

/-- What a lane word works with. -/
structure LaneEnv where
  g : GrpId
  f : Nat
  y : Group
  x : Frag
  act : List Nat                                     -- acting lanes, ascending (R144)
  stream : Seq                                       -- the scalar stream (R21)

/-- The parcels of a lane word. -/
def parcelOf (n : Nat) (k : Nat) : Nat := n / 2 ^ (32 * k) % 2 ^ 32

/-- The mask registers that a lane word reads. -/
def maskReads (w : LaneW) (sp : LaneSpec) : List Nat :=
  (if w.guard = 0 then [] else [w.guard.toNat]) ++ (if sp.va = .q then [w.va.toNat] else []) ++
    (if sp.vb = .q then [w.vb.toNat] else []) ++ (if sp.vc = .q then [w.vc.toNat] else [])

/-- Whether an atomic word compares with VD (R186). -/
def isCas (c o : Nat) (w : LaneW) : Bool := c == 1 && (o == 0x05 || o == 0x06) && bits w.p2.toNat 11 8 == 9

/-- Whether VD, and whether VA, VB and VC, name pairs (R29). CVT reads and writes by its mode (R159). -/
def dstPair (c o : Nat) (w : LaneW) : Bool :=
  if c = 0 ∧ o = 0x38 then
    (if w.mod.toNat % 4 = 0 then tyPair w.fmt.toNat else w.mod.toNat % 4 == 1 && tyPair w.ty.toNat)
  else tyPair w.ty.toNat
def srcPair (c o : Nat) (w : LaneW) : Bool := tyPair w.ty.toNat && !(c == 0 && o == 0x38 && w.mod.toNat % 4 == 1)

/-- Register `f` of a pair or alone. -/
def pairOf (p : Bool) (f : Nat) : List Nat := if p then [f, f + 1] else [f]

/-- The vector registers that a lane word reads. -/
def vecReads (c o : Nat) (w : LaneW) (sp : LaneSpec) : List Nat :=
  let pr := srcPair c o w
  let of (u : Use) (f : Nat) : List Nat := match u with
    | .v => pairOf pr f
    | .v1 => [f]
    | .vb _ => if w.bsc then [] else pairOf pr f
    | _ => []
  of sp.va w.va.toNat ++ of sp.vb w.vb.toNat ++ of sp.vc w.vc.toNat ++
    (if isCas c o w then pairOf (dstPair c o w) w.vd.toNat else [])

/-- The scalar registers that a lane word reads (R50, R217). -/
def scalarReads (w : LaneW) (sp : LaneSpec) : List Nat :=
  let of (u : Use) (f : Nat) : List Nat := match u with
    | .vb _ => if w.bsc ∧ f ≠ 0x7F then [f] else []
    | .sc | .so => if f = 0 then [] else [f]
    | _ => []
  of sp.va w.va.toNat ++ of sp.vb w.vb.toNat ++ of sp.vc w.vc.toNat

/-- The registers that a lane word reads and writes, for R56. -/
def laneRefs (c o : Nat) (w : LaneW) : List RegRef × List RegRef :=
  let sp := (laneSpec c o w).getD {}
  ((maskReads w sp).map RegRef.q ++ (vecReads c o w sp).map RegRef.v ++ (scalarReads w sp).map RegRef.s,
   match sp.vd with
   | .v => (pairOf (dstPair c o w) w.vd.toNat).map RegRef.v
   | .v1 => [.v w.vd.toNat]
   | .qd => if c = 0 ∧ o = 0x4A ∧ w.mod.toNat % 4 = 2 then [.v w.vd.toNat] else [.q (w.vd.toNat % 8)]
   | .e => [.e w.vd.toNat]
   | .dpair => (pairOf true w.vd.toNat).map RegRef.v
   | _ => [])

/-- The registers that a control word reads and writes, for R56 and R291. Raise registers of the level above are numbered
from 16. -/
def ctlRefs (l : Lvl) (i : Instr) : List RegRef × List RegRef :=
  let sp := ctlSpec l (encodeControl i)
  let reg (f : Nat) : List RegRef := if f = 0 ∨ h0Code l ≤ f then [] else [.s f]
  let x : List RegRef := match i with
    | .loop _ n _ | .loopi _ n _ | .next _ n _ => [.lc n.toNat]
    | .bind n _ | .unbind n => [.w n.toNat]
    | .raise n _ _ _ => [.e (16 + n.toNat)]
    | .await _ n _ => [.e n.toNat]
    | _ => []
  ((sp.src.filter (· != 0)).map RegRef.s ++ x, sp.dst.flatMap reg ++ x)

/-- A lane word of row (`c`, `o`): the checks of R65 with the kernel's register allocation, registers in error that it
reads (R415; its guard, and with no acting lane nothing else, R144), then the word's own effect. Only a fragment of a lane
engine executes one. -/
def lane (c o : Nat) (w : LaneW) (s : State) (f : LaneEnv → State) : Out :=
  match s.cur with
  | .lane ci wi gi fi =>
    let g : GrpId := ⟨ci, wi, gi⟩
    let y := s.group g
    match y.frag fi with
    | none => .next s
    | some x =>
      match laneCheck (s.grid ci).k.vregs c o w with
      | some b => .next (s.faultBad b (parcelOf (packLane c o w)))
      | none =>
        let sp := (laneSpec c o w).getD {}
        let stream := s.seq g.stream
        let act := lanesOf (y.acting x.lanes w)
        if (w.guard ≠ 0 ∧ y.badQ.contains w.guard.toNat) ∨ act ≠ [] ∧ ((scalarReads w sp).any stream.badRegs.contains ∨
            (maskReads w sp).any y.badQ.contains ∨ (vecReads c o w sp).any y.badV.contains) then
          .next (s.fault cPOISON)
        else .next (f { g := g, f := fi, y := y, x := x, act := act, stream := stream })
  | _ => .next s

/-- The next lane word of the fragment. -/
def State.laneNext (s : State) (e : LaneEnv) : State := s.goTo e.g e.f (e.x.pc + 12)

/-- Write results and flags, then go to the next word. -/
def State.laneWrite (s : State) (e : LaneEnv) (vs : List (Nat × W32)) (fl : Nat) : State :=
  (s.modGroup e.g fun y => (y.setV vs).orFlags fl).laneNext e

/-- An element-wise word: in each acting lane `f` gives the result of type `t` and its flags (R145, R146). -/
def State.laneMap (s : State) (e : LaneEnv) (t d : Nat) (f : Nat → Nat × Nat) : State :=
  let rs := e.act.map fun j => (j, f j)
  s.laneWrite e (rs.flatMap fun r => resultV t d r.1 r.2.1) (rs.foldl (fun a r => a ||| r.2.2) 0)

/-- Write the bits of mask `d` for the acting lanes (R30). -/
def State.laneMask (s : State) (e : LaneEnv) (d : Nat) (f : Nat → Bool) (fl : Nat := 0) : State :=
  let set := e.act.filter f
  let am := maskOf 32 e.act
  (s.modGroup e.g fun y =>
    let y1 := (y.setMask d ((y.mask d &&& ~~~(BitVec.ofNat 32 am)) ||| BitVec.ofNat 32 (maskOf 32 set))).orFlags fl
    { y1 with badQ := if e.act.length = 32 then y.badQ.filter (· != d) else y.badQ }).laneNext e

/-- Value of VA, VC and VB at the width of the word's type in lane `j` (R145). -/
def LaneEnv.a (e : LaneEnv) (w : LaneW) (j : Nat) : Nat := atWidth w.ty.toNat (e.y.operand w.ty.toNat w.va.toNat j)
def LaneEnv.c (e : LaneEnv) (w : LaneW) (j : Nat) : Nat := atWidth w.ty.toNat (e.y.operand w.ty.toNat w.vc.toNat j)
def LaneEnv.b (e : LaneEnv) (w : LaneW) (j : Nat) : Nat :=
  atWidth w.ty.toNat (e.y.operandB e.stream w.ty.toNat w j)

end Sys2Proof.Machine
end

