-- ==== Sys2Proof/Machine/MemOps.lean ====
section
/-!
DEFINITION. Accesses of scalar and lane memory words (R125 to R129, R180 to R193): address forms and their checks, the
access itself, the operand log, page service and replay (R302 to R304).
-/
namespace Sys2Proof.Machine

/-! ### Addresses -/

/-- What an address names, or the fault of its form. -/
inductive Addr where
  | glob (va : Nat) (win : Option Window)
  | sp (off : Nat)
  | bad (cause info : Nat)
  deriving DecidableEq, Repr, Inhabited

/-- A scalar memory address (R125). -/
def scalarAddr (x : Nat) : Addr :=
  if x / 2 ^ 57 = 0 then .glob x none else if x / 2 ^ 32 = 0xFFFFFFFF then .sp (x % 2 ^ 32) else .bad cPROT x

/-- The address of a lane in the form of MOD[1:0], with base `b` (the scalar of form 01) and offset `o` (R181). -/
def laneAddr (form : Nat) (win : Window) (b o : Nat) : Addr :=
  if form = 2 then .sp o
  else if form = 1 then
    (if b / 2 ^ 57 ≠ 0 ∨ (b + o) / 2 ^ 57 ≠ 0 then .bad cPROT ((b + o) % 2 ^ 64) else .glob (b + o) none)
  else
    let va := win.vbase.toNat + o
    if win.st = .unbound ∨ va / 2 ^ 57 ≠ 0 then .bad cPROT va else .glob va (some win)

/-- The outcome of the checks of an access, in the order of R183. -/
inductive Reach where
  | ok (t : Target)
  | bad (cause info : Nat)
  | page (va : Nat)
  | wait
  deriving DecidableEq, Repr, Inhabited

/-- The byte address as the word gave it (R300). -/
def Addr.info : Addr → Nat
  | .glob va _ => va
  | .sp off => off
  | .bad _ i => i

/-- A window as the translation it holds. -/
def Window.trans (w : Window) : Trans :=
  { start := w.start, len := w.len, frame := w.frame, perm := w.perm, trk := w.trk, ff := w.ff, hv := w.hv, hdie := w.hdie,
    lines := w.lines }

/-- Whether a byte is poisoned at its home, and no accepted store of a core is to write its granule whole (R416). -/
def State.homeBad (s : State) (w : WgId) (x : Nat) : Bool :=
  s.poison.contains (x / 32) && !(s.pend.any fun p => p.src == w && !p.again && p.whole.contains (x / 32))

/-- Check an access of `n` bytes by agent `a`: form, scratchpad bounds, alignment, watch, translation, permission,
poison (R125, R183, R190, R300, R416). `info` is the address as the word gave it. An access waits behind a store of its
group to its bytes that translates again (R57, R368), and for room in L1 (R287). -/
def State.reach (s : State) (a : Agent) (ad : Addr) (n : Nat) (k : Acc4) (info : Nat) : State × Reach :=
  let reads := k = .read ∨ k = .atomic
  match ad with
  | .bad c i => (s, .bad c i)
  | .sp off =>
    match s.spTarget (s.wgId a) off n with
    | none => (s, .bad cSPBOUND info)
    | some (w, o) =>
      if off % n ≠ 0 then (s, .bad cALIGN info)
      else if reads ∧ (s.spPoisonAt w o n).isSome then (s, .bad cPOISON info)
      else (s, .ok (.sp w o))
  | .glob va win =>
    let g := s.grpId a
    if va % n ≠ 0 then (s, .bad cALIGN info)
    else if s.pend.any fun p => p.again && p.src == g.wg && p.grp == g.g && overlap p.va p.data.length va n then (s, .wait)
    else
      match s.watchHit va n with
      | some x => (s, .bad cWATCH x)
      | none =>
        let fast : Option Window := match win with
          | some w => if w.st = .bound ∧ w.start ≤ va ∧ va < w.start + w.len then some w else none
          | none => none
        let poisoned (pa : Nat) (trk : Bool) (lines : List Nat) : Option Nat :=
          if !reads then none
          else if k = .read ∧ trk then ((List.range n).find? fun i => s.grpBad g lines (pa + i)).map (va + ·)
          else ((List.range n).find? fun i => s.homeBad g.wg (pa + i)).map (va + ·)
        let full (pa : Nat) (trk : Bool) : Bool := trk && !s.l1Open g.wg (lineOf pa)
        let sp := s.space a
        match fast with
        | some w =>
          let pa := w.frame + (va - w.start)
          if !permits w.perm k then (s, .bad cPROT va)
          else if full pa w.trk then (s, .wait)
          else match poisoned pa w.trk w.lines with
            | some x => (s, .bad cPOISON x)
            | none => (s.touch sp w.trans pa, .ok (.mem pa w.trk w.lines))
        | none =>
          match s.access sp va k with
          | (s1, .ok tr) =>
            if full (tr.pa va) tr.trk then (s, .wait)
            else
              (match poisoned (tr.pa va) tr.trk tr.lines with
               | some x => (s1, .bad cPOISON x)
               | none => (s1, .ok (.mem (tr.pa va) tr.trk tr.lines)))
          | (s1, .fault .page) => (s1, .page va)
          | (s1, .fault .prot) => (s1, .bad cPROT va)
          | (s1, .fault .poison) => (s1, .bad cPOISON va)
          | (s1, .wait) => (s1, .wait)

/-! ### The access -/

/-- The granules of 32 bytes that accesses of `n` bytes at the addresses `xs` write whole (R416). -/
def wholeGranules (n : Nat) (xs : List Nat) : List Nat :=
  (xs.map (· / 32)).eraseDups.filter fun g => (List.range 32).all fun i => xs.any fun x => x ≤ 32 * g + i && 32 * g + i < x + n

/-- The granules of memory that the targets of one word write whole. -/
def wholeMem (n : Nat) (ts : List (Nat × Target)) : List Nat :=
  wholeGranules n (ts.filterMap fun t => match t.2 with
    | .mem pa _ _ => some pa
    | .sp _ _ => none)

/-- Granules of reservations that the targets of one store word write whole lose their marks (R416). -/
def State.spWhole (s : State) (n : Nat) (ts : List (Nat × Target)) : State :=
  let at' (w : WgId) : List Nat := ts.filterMap fun t => match t.2 with
    | .sp v off => if v = w then some off else none
    | .mem _ _ _ => none
  (ts.filterMap fun t => match t.2 with | .sp w _ => some w | .mem _ _ _ => none).eraseDups.foldl (fun s w =>
    s.modWg w fun x => { x with spPoison := x.spPoison.filter fun g => !(wholeGranules n (at' w)).contains g }) s

/-- Write `n` bytes: scratchpad at once; a store to memory is accepted and performs later (R127, R183, R282). `va`, `waddr`
and `lanes` say which word stores it, `whole` the granules that its word writes whole. -/
def State.writeAt (s : State) (g : GrpId) (t : Target) (n v : Nat) (va waddr lanes : Nat := 0) (whole : List Nat := []) : State :=
  match t with
  | .sp w off => s.spWrite w off (toBytes n v)
  | .mem pa trk lines =>
    s.acceptStore g { pa := pa, data := toBytes n v, trk := trk, lines := lines, va := va, waddr := waddr, lanes := lanes
                      whole := whole.filter fun k => overlap (32 * k) 32 pa n }

/-- One indivisible read-modify-write at the home (R187, R292): its core's earlier stores to the bytes perform first, and
the stored value is what the group last wrote there (R285). A value of the host is an input of the node (R423). Answers the
old value; none while the home cannot perform it, or while a re-run has another atomic first there (R424). -/
def State.atomicAt (s : State) (g : GrpId) (t : Target) (n : Nat) (f : Nat → Nat) : Option (State × Nat) :=
  match t with
  | .sp w off =>
    let old := ofBytes (s.spBytes w off n)
    (s.ordered g.c (.atomicSp w.w off g.w g.g)).map fun s1 => (s1.spWrite w off (toBytes n (f old)), old)
  | .mem pa trk _ =>
    match (s.ordered g.c (.atomic pa g.w g.g)).bind fun s => s.drain? fun p => p.src == g.wg && overlap p.pa p.data.length pa n with
    | none => none
    | some s1 =>
      let (s2, v) := s1.hostInput g pa (s1.memNat pa n)
      let old := v % 256 ^ n
      let bs := toBytes n (f old)
      (s2.homeWrite? (.core g.wg (some g.g)) trk pa bs).map fun s3 => (if trk then s3.settleOwn g pa bs else s3, old)

/-- Add of R188: rne, canonical NaN, no flag. -/
def faddBits (packed : Bool) (a b : Nat) : Nat :=
  let add (f : FF) (x y : Nat) : Nat := (f.encode .rne false (addNum .rne (f.decode x) (f.decode y))).1
  if packed then
    add ffBf16 (a % 65536) (b % 65536) + 65536 * add ffBf16 (a / 65536 % 65536) (b / 65536 % 65536)
  else add ffF32 a b

/-- The new value of an atomic of width `w` bits: AOP and the SATOM codes agree on 0x0 to 0xB; 0xC is FADD (R128,
R186). -/
def atomicNew (op w ty old b cmp : Nat) : Nat :=
  let m := 2 ^ w
  match op with
  | 0x0 => (old + b) % m
  | 0x1 => if sintN w b < sintN w old then b else old
  | 0x2 => min old b
  | 0x3 => if sintN w old < sintN w b then b else old
  | 0x4 => max old b
  | 0x5 => old &&& b
  | 0x6 => old ||| b
  | 0x7 => old ^^^ b
  | 0x8 => b
  | 0x9 => if old = cmp then b else old
  | 0xA => if b ≤ old then 0 else old + 1
  | 0xB => if old = 0 ∨ b < old then b else old - 1
  | _ => faddBits (ty == 12) old b

/-- Scope codes of SC (R60, R180) as the codes of R13. -/
def scScope (sc : Nat) : Nat :=
  match sc with
  | 0 => 2
  | 1 => 3
  | 2 => 5
  | _ => 6

def ordAcq (o : Nat) : Bool := o == 1 || o == 3
def ordRel (o : Nat) : Bool := o == 2 || o == 3

/-! ### Stores to NOTIFY (R199) -/

/-- Whether a target touches NOTIFY, and whether it is exactly its eight bytes. -/
def State.notifyHit (s : State) (t : Target) (n : Nat) : Bool :=
  match t with
  | .sp w off => s.touchesNotify w off n
  | _ => false

/-- Hand a store or atomic to NOTIFY to the engine of the reservation it reaches; it is outstanding until recorded, and no
later word of its stream issues before (R200). -/
def State.sendNotify (s : State) (t : Target) (x : Notify) : State × Nat :=
  match t with
  | .sp w off =>
    let h := s.nextHandle
    (({ s with nextHandle := h + 1 } : State).modWg w fun y => { y with
      notifyQ := y.notifyQ ++ [{ x with hid := h, off := off - ((s.grid w.c).k.scratch + 8) }] }, h)
  | .mem _ _ _ => (s, 0)

/-! ### Scalar memory words -/

/-- What a scalar memory word does once its address is reached. -/
inductive SKind where
  | load (d : Nat)
  | store
  | atomic (op d : Nat)
  | waitv (cc : Nat) (signed : Bool)
  deriving DecidableEq, Repr, Inhabited

def SKind.acc : SKind → Acc4
  | .load _ | .waitv _ _ => .read
  | .store => .write
  | .atomic _ _ => .atomic

/-- Operands of a scalar memory word: address, data, compare value (R304). -/
structure SOps where
  base : Nat := 0
  addr : Nat := 0
  data : Nat := 0
  cmp : Nat := 0                                     -- s(d + 1) of CAS, the new value
  deriving DecidableEq, Repr, Inhabited

/-- The operand-log entry of a scalar word, lane 0 (R304). -/
def SOps.entry (o : SOps) (h waddr : Nat) (i : Instr) : LogEntry :=
  { handle := h, word := i, waddr := waddr, mask := 1, base := o.base,
    ops := cset 0 (cset 0 (cset 0 (cset 0 [] 0 o.base) 32 o.cmp) 64 o.data) 96 o.addr }

/-- The operands as a waiting word keeps them (R98). -/
def SOps.vals (o : SOps) : List Word := [o.base, o.addr, o.data, o.cmp].map (BitVec.ofNat 64)
def Seq.heldOps (q : Seq) : SOps :=
  { base := (q.latched 0).toNat, addr := (q.latched 1).toNat, data := (q.latched 2).toNat, cmp := (q.latched 3).toNat }

def LogEntry.sops (e : LogEntry) : SOps :=
  { base := cget 0 e.ops 0, cmp := cget 0 e.ops 32, data := cget 0 e.ops 64, addr := cget 0 e.ops 96 }

/-- The value SATOM stores (R128): for CAS s(d) is compared and s(d + 1) stored. -/
def satomNew (op w : Nat) (o : SOps) (old : Nat) : Nat :=
  let m := 2 ^ w
  if op = 9 then (if old = o.data % m then o.cmp % m else old) else atomicNew op w 0 old (o.data % m) 0

/-- Perform a scalar access that is reached, its address known at `since`; the result of a load or atomic, and whether a
watched condition holds. None while the home cannot perform it. -/
def State.scalarDo (s : State) (g : GrpId) (t : Target) (n : Nat) (k : SKind) (e : LogEntry) (since : Nat) :
    Option (State × Nat × Bool) :=
  let o := e.sops
  match k with
  | .load _ => let (s1, v) := s.readAt g t n since; some (s1, v, true)
  | .store => some (s.writeAt g t n o.data o.addr e.waddr, 0, true)
  | .atomic op _ => (s.atomicAt g t n (satomNew op (8 * n) o)).map fun r => (r.1, r.2, true)
  | .waitv cc sg =>
    -- exempt from the snapshot: the value at the home or in a coherent copy, and from then on the phase's (R129, R283, R286)
    let (s1, v) : State × Nat := match t with
      | .sp w off => (s, ofBytes (s.spBytes w off n))
      | .mem pa trk _ =>
        let (s1, v) := s.hostInput g pa (ofBytes (if trk then s.coreBytes g.wg pa n else s.homeBytes g pa n))
        (if trk then s1.settleOwn g pa (toBytes n v) else s1, v)
    some (s1, v, icond sg (8 * n) cc v (o.data % 2 ^ (8 * n)))

/-- The scope at which a scalar word acquires once its access has performed (R128). -/
def acqOf : Instr → Option Nat
  | .satom _ _ _ _ ord sc _ => if ordAcq ord.toNat then some (scScope sc.toNat) else none
  | _ => none

def State.acquireFor (s : State) (g : GrpId) (i : Instr) : State :=
  match acqOf i with
  | some sc => s.acquire g sc
  | none => s

/-- The destination register of a scalar memory word. -/
def SKind.dst : SKind → Option Nat
  | .load d => some d
  | .atomic _ d => some d
  | _ => none

/-- Whether a word with lookahead may perform after later words of its window (R280): all but SWAITA. -/
def SKind.deferred : SKind → Bool
  | .waitv _ _ => false
  | _ => true

/-- Size, kind of a scalar memory word. -/
def scalarShape : Instr → Option (Nat × SKind)
  | .sld d _ _ sz _ => some (2 ^ sz.toNat, .load d.toNat)
  | .sst _ _ _ sz _ => some (2 ^ sz.toNat, .store)
  | .satom d _ _ op _ _ w => some (if w = 1 then 8 else 4, .atomic op.toNat d.toNat)
  | .swaita _ _ _ sz cc n => some (2 ^ sz.toNat, .waitv cc.toNat (n == 0))
  | _ => none

/-- Operands of a scalar memory word from the registers (R48, R126 to R129). -/
def Seq.sops (q : Seq) (l : Lvl) : Instr → SOps
  | .sld _ b _ sz off =>
    let x := (q.readReg l b.toNat).toNat
    { base := x, addr := (x + off.toNat * 2 ^ sz.toNat) % 2 ^ 64 }
  | .sst d b _ sz off =>
    let x := (q.readReg l b.toNat).toNat
    { base := x, addr := (x + off.toNat * 2 ^ sz.toNat) % 2 ^ 64, data := (q.readReg l d.toNat).toNat }
  | .satom d a _ op _ _ _ =>
    let x := (q.readReg l a.toNat).toNat
    { base := x, addr := x, data := (q.readReg l d.toNat).toNat,
      cmp := if op = 9 then (q.readReg l (d.toNat + 1)).toNat else 0 }
  | .swaita b a _ _ _ _ =>
    let x := (q.readReg l a.toNat).toNat
    { base := x, addr := x, data := (q.readReg l b.toNat).toNat }
  | _ => {}

/-- The bytes that an access from core index `p` touches, for R57. -/
def touchOf (p : Nat) (ad : Addr) (n : Nat) : List (Bool × Nat × Nat) :=
  match ad with
  | .glob va _ => [(false, va, n)]
  | .sp off => [(true, ownOff p off, n)]
  | .bad _ _ => []

/-- A logged scalar word of the stream that reissues at its own address (R310). -/
def Group.scalarLog (y : Group) (pc : Nat) : Option LogEntry :=
  y.log.find? fun e => e.frag = none ∧ e.declined ∧ e.waddr = pc

/-- Free an operand-log entry. -/
def State.dropLog (s : State) (g : GrpId) (h : Nat) : State :=
  { s.modGroup g fun y => { y with log := y.log.filter fun e => e.handle != h } with holds := adel s.holds h }

/-- Put an entry in the operand log. -/
def State.addLog (s : State) (g : GrpId) (e : LogEntry) : State := s.modGroup g fun y => { y with log := y.log ++ [e] }

/-! ### Operands of lane memory words -/

/-- What a lane memory word does in a lane. -/
inductive LKind where
  | load | store | atomic
  deriving DecidableEq, Repr, Inhabited

def LKind.acc : LKind → Acc4
  | .load => .read
  | .store => .write
  | .atomic => .atomic

/-- Kind of a class-01 word by OP. -/
def laneKind (o : Nat) : LKind := if o = 0x01 ∨ o = 0x03 then .load else if o = 0x02 ∨ o = 0x04 then .store else .atomic

/-- Access size by TYPE (R182, R186). -/
def accessSize (t : Nat) : Nat :=
  if t = 10 ∨ t = 12 ∨ t = 14 then 4 else if t < 8 then 2 ^ (t % 4) else 4

/-- Operands of one lane: offset, data, compare value, base (R192). -/
structure LOps where
  off : Nat := 0
  data : Nat := 0
  cmp : Nat := 0
  base : Nat := 0
  addr : Option Nat := none                          -- a byte address that GSET changed or the log holds
  deriving DecidableEq, Repr, Inhabited

/-- Operands of lane `j` from the registers. -/
def LaneEnv.lops (e : LaneEnv) (o : Nat) (w : LaneW) (j : Nat) : LOps :=
  let t := w.ty.toNat
  { off := (e.y.vreg w.va.toNat j).toNat
    data := if o = 0x01 ∨ o = 0x03 then 0 else e.y.operand t w.vc.toNat j
    cmp := if isCas 1 o w then e.y.operand t w.vd.toNat j else 0
    base := if w.mod.toNat % 4 = 1 then (e.stream.readReg .S w.vb.toNat).toNat else 0 }

/-- Operands of lane `j` from a log entry. -/
def LogEntry.lops (e : LogEntry) (j : Nat) : LOps :=
  { off := cget 0 e.ops j, cmp := cget 0 e.ops (32 + j), data := cget 0 e.ops (64 + j), base := e.base,
    addr := some (cget 0 e.ops (96 + j)) }

/-- The address of a lane: from the operands, or as logged. -/
def LOps.address (p : LOps) (w : LaneW) (win : Window) : Addr :=
  let form := w.mod.toNat % 4
  match p.addr with
  | none => laneAddr form win p.base p.off
  | some x =>
    if form = 2 then .sp x
    else if x / 2 ^ 57 ≠ 0 then .bad cPROT x
    else if form = 1 then .glob x none
    else if win.st = .unbound then .bad cPROT x else .glob x (some win)

/-- The window copy of the running block (R21). -/
def Group.window (y : Group) (n : Nat) : Window := ((y.blk.map (·.wins)).getD []).getD n {}

/-- What the lanes of a word came to. -/
structure LRes where
  ok : List (Nat × Target) := []
  bad : List (Nat × Nat × Nat) := []                 -- lane, cause, INFO
  page : List (Nat × Nat) := []                      -- lane, address
  wait : Bool := false
  deriving DecidableEq, Repr, Inhabited

/-- The checks of every lane (R183). -/
def State.laneChecks (s : State) (a : Agent) (w : LaneW) (win : Window) (n : Nat) (k : Acc4) :
    List (Nat × LOps) → State × LRes
  | [] => (s, {})
  | (j, p) :: l =>
    let ad := p.address w win
    let (s1, r) := s.reach a ad n k ad.info
    let (s2, t) := s1.laneChecks a w win n k l
    (s2, match r with
      | .ok x => { t with ok := (j, x) :: t.ok }
      | .bad c i => { t with bad := (j, c, i) :: t.bad }
      | .page va => { t with page := (j, va) :: t.page }
      | .wait => { t with wait := true })

/-- An operand-log entry for the faulted lanes (R192, R304). -/
def logFor (h f waddr : Nat) (i : Instr) (w : LaneW) (win : Window) (base : Nat) (ops : Nat → LOps) (js pages : List Nat) :
    LogEntry :=
  let put (m : Cells Nat) (j : Nat) : Cells Nat :=
    let p := ops j
    cset 0 (cset 0 (cset 0 (cset 0 m j p.off) (32 + j) (if bits w.p2.toNat 11 8 = 9 then p.cmp else base)) (64 + j) p.data) (96 + j)
      (p.address w win).info
  { handle := h, word := i, waddr := waddr, mask := maskOf 32 js, base := base, frag := some f,
    ops := js.foldl put [], pageLanes := maskOf 32 pages }

/-- What one lane of a lane word does with its operands, its address known at `since`: a load or an atomic answers what it
read (R183, R187). None while the home cannot perform it. -/
def State.laneDo (s : State) (g : GrpId) (o : Nat) (w : LaneW) (waddr n since : Nat) (whole : List Nat) (p : LOps) (va j : Nat)
    (t : Target) : Option (State × List (Nat × Nat)) :=
  let data := p.data % 2 ^ (8 * n)
  match laneKind o with
  | .load => let (s1, v) := s.readAt g t n since; some (s1, [(j, v)])
  | .store => some (s.writeAt g t n data va waddr (2 ^ j) whole, [])
  | .atomic =>
    (s.atomicAt g t n fun old => atomicNew (bits w.p2.toNat 11 8) (8 * n) w.ty.toNat old data (p.cmp % 2 ^ (8 * n))).map fun r =>
      (r.1, [(j, r.2)])

/-- Register results of a lane load or atomic from the values of its lanes (R182, R187). -/
def laneResults (i : Instr) (vals : List (Nat × Nat)) : List (Nat × W32) :=
  match laneCode i with
  | some (_, o, w) =>
    let ty := w.ty.toNat
    vals.flatMap fun v => resultV (if laneKind o = .atomic then (if accessSize ty = 8 then 7 else 14) else ty) w.vd.toNat v.1 v.2
  | none => []

/-! ### Outstanding accesses (R98, R280) -/

/-- The outstanding words of an agent. -/
def State.outs (s : State) (a : Agent) : List Outst :=
  match a with
  | .lane c w g f => (((s.group ⟨c, w, g⟩).frag f).map (·.out)).getD []
  | a => (s.seq a).out

/-- Change the outstanding words of an agent. -/
def State.modOuts (s : State) (a : Agent) (f : List Outst → List Outst) : State :=
  match a with
  | .lane c w g k => s.modGroup ⟨c, w, g⟩ fun y => y.modFrag k fun x => { x with out := f x.out }
  | a => s.modSeq a fun q => { q with out := f q.out }

/-- Remove outstanding word `k` of an agent. -/
def State.dropOut (s : State) (a : Agent) (k : Nat) : State := s.modOuts a fun l => ldel l k

/-- One target of an outstanding access performs, by its word. -/
def State.entryDo (s : State) (g : GrpId) (e : LogEntry) (n since : Nat) (whole : List Nat) (j : Nat) (t : Target) :
    Option (State × List (Nat × Nat)) :=
  match scalarShape e.word, laneCode e.word with
  | some (_, k), _ => (s.scalarDo g t n k e since).map fun r => (r.1, [(0, r.2.1)])
  | none, some (_, o, w) => s.laneDo g o w e.waddr n since whole (e.lops j) (cget 0 e.ops (96 + j)) j t
  | none, none => some (s, [])

/-- The targets of an outstanding access perform in order, as far as their homes allow: what is left, and the values. -/
def State.runTargets (s : State) (g : GrpId) (e : LogEntry) (n since : Nat) (whole : List Nat) :
    List (Nat × Target) → State × List (Nat × Target) × List (Nat × Nat)
  | [] => (s, [], [])
  | (j, t) :: l =>
    match s.entryDo g e n since whole j t with
    | none => (s, (j, t) :: l, [])
    | some (s1, v) =>
      let (s2, rest, vs) := s1.runTargets g e n since whole l
      (s2, rest, v ++ vs)

/-- An outstanding access performs, as far as its homes allow. -/
def State.runOut (s : State) (g : GrpId) (o : Outst) : State × Outst :=
  match o.kind with
  | .deferred k e n since ts vals =>
    let (s1, rest, vs) := s.runTargets g e n since (wholeMem n ts) ts
    (if k = .write then s1.spWhole n ts else s1, { o with kind := .deferred k e n since rest (vals ++ vs) })
  | _ => (s, o)

/-- Outstanding word `k` of an agent performs. -/
def State.runAt (s : State) (a : Agent) (k : Nat) : State :=
  match (s.outs a)[k]? with
  | some o =>
    let (s1, o1) := s.runOut (s.grpId a) o
    s1.modOuts a fun l => lset l k o1
  | none => s

/-- Outstanding stores and atomics of a group that `p` selects perform. -/
def State.forceOwed (s : State) (g : GrpId) (p : Target → Nat → Bool) : State :=
  let pick (o : Outst) : Bool := match o.kind with
    | .deferred k _ n _ ts _ => k != .read && ts.any fun t => p t.2 n
    | _ => false
  (s.readers g ++ (s.group g).frags.map fun f => g.lane f.fid).foldl (fun s a =>
    (List.range (s.outs a).length).foldl (fun s k => if ((s.outs a)[k]?.map pick).getD false then s.runAt a k else s) s) s

/-- An access of a group comes after those of its outstanding ones that share a byte with it, which perform now (R57,
R283); none while one of them cannot. -/
def State.inOrder? (s : State) (g : GrpId) (t : Target) (n : Nat) : Option State :=
  let s1 := (s.forceReads g (t.meets n)).forceOwed g (t.meets n)
  if s1.owes g (t.meets n) then none else some s1

/-- Accesses to granules of memory, or of a reservation. -/
def memGranules (gs : List Nat) : Target → Nat → Bool
  | .mem pa _ _, n => gs.any fun g => overlap pa n (32 * g) 32
  | .sp _ _, _ => false
def spGranules (w : WgId) (gs : List Nat) : Target → Nat → Bool
  | .sp v off, n => v == w && gs.any fun g => overlap off n (32 * g) 32
  | .mem _ _ _, _ => false

/-- Bytes that `p` selects are about to be marked: outstanding accesses to them perform first, so that none finds at its
completion a mark that it did not find at its issue (R416; log entry 69). None while one cannot. -/
def State.beforeMark (s : State) (p : Target → Nat → Bool) : Option State :=
  let s1 := s.groups.foldl (fun s x => (s.forceReads x.1 p).forceOwed x.1 p) s
  if s1.groups.any fun x => s1.owes x.1 p then none else some s1

/-- What a kill has left of a workgroup's accesses performs, as far as the homes allow (R389). -/
def State.payOwed (s : State) (w : WgId) : State :=
  (s.wg w).owed.foldl (fun s x =>
    let (s1, o) := s.runOut ⟨w.c, w.w, x.1⟩ x.2
    s1.modWg w fun y => { y with owed := if o.owes then y.owed.replace x (x.1, o) else y.owed.erase x }) s

/-! ### Scalar memory words -/

/-- A scalar memory word at its issue (R125 to R129): SLD, SST, SATOM, SWAITA. Operands come from the registers, or from
the operand log when the word reissues. A word with lookahead performs by the time it completes (R280). On PAGE the word
stays outstanding with its access held (R302). -/
def State.scalarMem (s : State) (i : Instr) (la n : Nat) (k : SKind) (o0 : SOps) (rd wr : List RegRef) : State :=
  let a := s.cur
  let g := s.grpId a
  let q := s.me
  let y := s.group g
  let logged := y.scalarLog q.pc
  let o := (logged.map LogEntry.sops).getD o0
  let s0 := match logged with | some e => s.dropLog g e.handle | none => s
  let ad := scalarAddr o.addr
  let since := knownAt q y rd
  let e := o.entry 0 q.pc i
  let bytes := touchOf (s.wg g.wg).pos ad n
  match s0.reach a ad n k.acc o.addr with
  | (_, .wait) => s.stall
  | (s1, .bad c info) =>
    let h := s1.nextHandle
    (({ s1 with nextHandle := h + 1 }).addLog g (o.entry h q.pc i)).fault c info
  | (s1, .page va) =>
    let (h, s2) := s1.hold { who := .scalar a, va := va, asid := (s1.space a).asid, kind := k.acc, ctx := ctxOf a }
    (s2.addLog g (o.entry h q.pc i)).issueLong la (.paged h) rd wr bytes
  | (s1, .ok t) =>
    if s1.notifyHit t n ∧ k.acc ≠ .read then
      let op := match k with | .atomic op _ => some op | _ => none
      let (s2, h) := s1.sendNotify t
        { who := a, size := n, aop := op, opnd := o.data, cmp := o.cmp, dst := k.dst, waddr := q.pc, saddr := q.pc,
          entry := e }
      s2.issueLong 0 (.notify h) rd wr bytes
    else
      match s1.inOrder? g t n with
      | none => s.stall
      | some u =>
        if k.deferred ∧ la ≠ 0 then u.issueLong la (.deferred k.acc e n since [(0, t)] []) rd wr bytes
        else
          match u.scalarDo g t n k e since with
          | none => s.stall
          | some (s2, v, holds) =>
            if !holds then s2.issueLong la (.swaita e) rd wr bytes
            else
              let s3 := s2.acquireFor g i
              match k.dst with
              | some d => s3.putReg d (BitVec.ofNat 64 v) false
              | none => if la = 0 then s3.advance else s3.issueLong la .done rd wr bytes

/-- The outstanding word of handle `h` of a stream completes with a register value, or without one. -/
def Seq.finish (q : Seq) (p : OutKind → Bool) (d : Option Nat) (v : Nat) : Seq :=
  let q1 := { q with out := q.out.filter fun o => !p o.kind }
  match d with
  | some d => q1.writeReg d (BitVec.ofNat 64 v) false
  | none => q1

/-- Whether an earlier word of a stream is outstanding than the one of a kind: a precise fault waits for it (R67, R299). -/
def Seq.behind (q : Seq) (p : OutKind → Bool) : Bool := q.out.findIdx (fun o => p o.kind) != 0

/-- Replay of a held scalar word from its log entry (R303): it completes as if it had never faulted, posts a new
request, or faults precisely. -/
def State.replayScalar (s : State) (a : Agent) (h : Nat) : State :=
  let g := s.grpId a
  match (s.group g).log.find? fun e => e.handle = h ∧ e.frag = none with
  | none => { s with holds := adel s.holds h }
  | some e =>
    match scalarShape e.word with
    | none => s
    | some (n, k) =>
      let o := e.sops
      let isP (x : OutKind) : Bool := x == .paged h
      match s.reach a (scalarAddr o.addr) n k.acc o.addr with
      | (_, .wait) => s
      | (s1, .page va) =>
        let s2 := { s1 with holds := adel s1.holds h }
        let (h', s3) := s2.hold { who := .scalar a, va := va, asid := (s1.space a).asid, kind := k.acc, ctx := ctxOf a }
        (s3.modGroup g fun y => { y with log := y.log.map fun z => if z.handle = h then { z with handle := h' } else z }).modSeq
          a fun q => { q with out := q.out.map fun x => if isP x.kind then { x with kind := .paged h' } else x }
      | (s1, .bad c info) =>
        if (s.seq a).behind isP then s
        else { s1.takeFault a { s1.record a c info with waddr := e.waddr } with holds := adel s1.holds h }
      | (s1, .ok t) =>
        if s1.notifyHit t n ∧ k.acc ≠ .read then
          let op := match k with | .atomic op _ => some op | _ => none
          let (s2, nh) := (s1.dropLog g h).sendNotify t
            { who := a, size := n, aop := op, opnd := o.data, cmp := o.cmp, dst := k.dst, waddr := e.waddr,
              saddr := e.waddr, entry := o.entry 0 e.waddr e.word }
          s2.modSeq a fun q =>
            { q with out := q.out.map fun x => if isP x.kind then { x with kind := .notify nh, left := 0 } else x }
        else
          match ((s1.dropLog g h).inOrder? g t n).bind fun u => u.scalarDo g t n k e s.clock with
          | none => s
          | some (s2, v, holds) =>
            if holds then
              (((s2.acquireFor g e.word).modSeq a fun q => q.finish isP k.dst v).know a ((k.dst.map RegRef.s).toList) s.clock)
            else s2.modSeq a fun q =>
              { q with out := q.out.map fun x => if isP x.kind then { x with kind := .swaita e } else x }

/-- An outstanding scalar access completes (R280, R288, R291): it performs now unless it has, its result arrives, and it
acquires; or, cancelled by R368, it translates again as a replay does. -/
def State.completeScalar (s : State) (a : Agent) (k : Nat) (o : Outst) : State :=
  let g := s.grpId a
  match o.kind with
  | .deferred _ e n _ _ _ =>
    if e.cancelled then
      let h := s.nextHandle
      if 4 ≤ (s.group g).log.length ∨ (s.reach a (scalarAddr e.sops.addr) n .read e.sops.addr).2 = .wait then s
      else
        let s1 := ({ s with nextHandle := h + 1 } : State).addLog g { e with handle := h, cancelled := false }
        (s1.modOuts a fun l => lset l k { o with kind := .paged h }).replayScalar a h
    else
      let s1 := s.runAt a k
      match ((s1.outs a)[k]?).map Outst.kind with
      | some (.deferred _ _ _ _ [] vals) =>
        let s2 := (s1.dropOut a k).acquireFor g e.word
        (match (scalarShape e.word).bind fun x => x.2.dst with
         | some d => (s2.modSeq a fun q => q.writeReg d (BitVec.ofNat 64 (vals.headD (0, 0)).2) false).know a [.s d] s.clock
         | none => s2)
      | _ => s1
  | _ => s

/-! ### Lane memory words -/

/-- The lanes that passed: those of a store or atomic that reach NOTIFY, and the others. -/
def State.splitNotify (s : State) (k : Acc4) (n : Nat) (ts : List (Nat × Target)) : List (Nat × Target) × List (Nat × Target) :=
  ts.partition fun t => k != .read && s.notifyHit t.2 n

/-- Lanes hand their stores or atomics to NOTIFY to the engine; their handles (R199). -/
def State.laneNotify (s : State) (g : GrpId) (f o : Nat) (w : LaneW) (waddr saddr n : Nat) (ops : Nat → LOps) :
    List (Nat × Target) → State × List Nat
  | [] => (s, [])
  | (j, t) :: l =>
    let p := ops j
    let at' := laneKind o = .atomic
    let (s1, h) := s.sendNotify t
      { who := g.lane f, lane := some j, size := n, aop := if at' then some (bits w.p2.toNat 11 8) else none
        opnd := p.data % 2 ^ (8 * n), cmp := p.cmp % 2 ^ (8 * n), dst := if at' then some w.vd.toNat else none
        ty := w.ty.toNat, waddr := waddr, saddr := saddr
        entry := logFor 0 f waddr ((laneRow 1 o w).getD .nop) w {} 0 ops [j] [] }
    let (s2, hs) := s1.laneNotify g f o w waddr saddr n ops l
    (s2, h :: hs)

/-- The other lanes perform, ascending (R184, R187): the values that a load or atomic read; none while one of them must
wait. -/
def State.lanePerform (s : State) (g : GrpId) (o : Nat) (w : LaneW) (waddr n since : Nat) (whole : List Nat) (ops : Nat → LOps)
    (va : Nat → Nat) : List (Nat × Target) → Option (State × List (Nat × Nat))
  | [] => some (s, [])
  | (j, t) :: l =>
    match (s.inOrder? g t n).bind fun u => u.laneDo g o w waddr n since whole (ops j) (va j) j t with
    | none => none
    | some (s1, v) => (s1.lanePerform g o w waddr n since whole ops va l).map fun r => (r.1, v ++ r.2)

/-- Everything that the lanes of a word that passed do at once: register values and NOTIFY handles. -/
def State.laneAll (s : State) (g : GrpId) (f o : Nat) (w : LaneW) (waddr saddr n since : Nat) (ops : Nat → LOps) (va : Nat → Nat)
    (ts : List (Nat × Target)) : Option (State × List (Nat × Nat) × List Nat) :=
  let (ns, ms) := s.splitNotify (laneKind o).acc n ts
  let (s1, hs) := s.laneNotify g f o w waddr saddr n ops ns
  (s1.lanePerform g o w waddr n since (wholeMem n ms) ops va ms).map fun r =>
    (if laneKind o = .store then r.1.spWhole n ms else r.1, r.2, hs)

/-- The outstanding accesses that lanes meet perform first; none while one cannot. -/
def State.lanesInOrder (s : State) (g : GrpId) (n : Nat) : List (Nat × Target) → Option State
  | [] => some s
  | x :: l => (s.inOrder? g x.2 n).bind fun u => u.lanesInOrder g n l

/-- The faulted lanes of a word sleep as a fault fragment with a log entry; a PAGE is posted, another cause is taken
precisely (R191, R192, R310). `f'` is the fragment that holds them. -/
def State.splitFault (s : State) (g : GrpId) (f' : Nat) (k : Acc4) (e : LogEntry) (r : LRes) : State :=
  let a := g.lane f'
  let s1 := (s.addLog g e).modGroup g fun y => y.modFrag f' fun x => { x with st := .asleep }
  let s2 := match r.page with
    | [] => s1
    | (_, va) :: _ =>
      let x : Held := { who := .lane g e.handle, va := va, asid := (s1.space a).asid, kind := k, ctx := g.c, posted := false }
      ({ s1 with holds := aput s1.holds e.handle x }).postHeld e.handle
  match r.bad with
  | [] => s2.refill g
  | (_, c, i) :: _ =>
    (s2.takeFault a { s2.record a c i with lanes := maskOf 32 (r.bad.map Prod.fst), waddr := e.waddr }).refill g

/-- The part of an outstanding word that concerns the lanes of a mask (R191). -/
def Outst.part (o : Outst) (m : W32) : Outst :=
  match o.kind with
  | .deferred k e n since ts vals =>
    { o with kind := .deferred k e n since (ts.filter fun t => natBit m.toNat t.1) (vals.filter fun v => natBit m.toNat v.1) }
  | _ => o

/-- Whether fragment `z` has split, perhaps in several steps, from `f`. -/
def Group.descends (y : Group) (f : Nat) : Nat → Nat → Bool
  | 0, z => z == f
  | k + 1, z => z == f || match (y.frag z).bind (·.split) with
    | some p => y.descends f k p
    | none => false

/-- Whether lanes of an earlier word of a fragment still wait for their access (R296, R314). -/
def Group.lanesWait (y : Group) (f : Nat) : Bool :=
  y.log.any fun e => match e.frag with
    | some z => z != f && y.descends f 32 z
    | none => false

/-- The scope of a lane word's boundary: one to another core's reservation is .pt whatever SC says (R185). -/
def State.laneScope (s : State) (g : GrpId) (w : LaneW) (offs : List Nat) : Nat :=
  let sc := scScope (bits w.p2.toNat 7 6)
  if w.mod.toNat % 4 = 2 ∧ sc = 2 ∧ offs.any fun o => ((s.spTarget g.wg o 1).map fun t => decide (t.1 ≠ g.wg)).getD false then 3
  else sc

/-- Note the bytes that a lane word stores while tile words are undecided (R243, item 4). -/
def Group.noteStore (y : Group) (bs : List (Bool × Nat × Nat)) : Group :=
  if y.hist = [] ∨ bs = [] then y else { y with laneWr := y.laneWr ++ [(y.lastNum, bs)] }

/-- The address that a lane word forms from a log entry, as a number. -/
def LogEntry.va (z : LogEntry) (w : LaneW) (win : Window) (j : Nat) : Nat := ((z.lops j).address w win).info

/-- A lane word that acquires does so (R185, R288). -/
def State.laneAcquire (s : State) (g : GrpId) (w : LaneW) (vas : List Nat) : State :=
  if ordAcq (w.mod.toNat / 4) then s.acquire g (s.laneScope g w vas) else s

/-- A class-01 word of row `o` at issue (R183 to R193). A word with lookahead performs by the time it completes (R280). -/
def State.laneMem (s : State) (e : LaneEnv) (o : Nat) (w : LaneW) : State :=
  let a := s.cur
  let g := e.g
  let n := accessSize w.ty.toNat
  let k := (laneKind o).acc
  let logged := e.y.log.find? fun z => z.frag = some e.f ∧ z.declined ∧ z.waddr = e.x.pc
  let ops (j : Nat) : LOps := match logged with | some z => z.lops j | none => e.lops o w j
  let js := match logged with | some z => onesOf 32 z.mask | none => e.act
  let win := e.y.window (bits w.p2.toNat 2 0)
  let va (j : Nat) : Nat := ((ops j).address w win).info
  let ord := w.mod.toNat / 4
  let scope := s.laneScope g w (js.map va)
  let saddr := (e.y.blk.map (·.saddr)).getD 0
  let la := w.la.toNat
  let (rd, wr) := laneRefs 1 o w
  let since := max (knownAt e.stream e.y rd) (if w.mod.toNat % 4 = 0 then win.since else 0)
  let i := (laneRow 1 o w).getD .nop
  let base := if w.mod.toNat % 4 = 1 then (ops (js.headD 0)).base else 0
  if js = [] then s.laneNext e
  else if ordRel ord ∧ (!s.released g.wg scope ∨ e.y.lanesWait e.f) then s.stall
  else
    let (s1, r) := s.laneChecks a w win n k (js.map fun j => (j, ops j))
    let s2 := match logged with | some z => s1.dropLog g z.handle | none => s1
    let (ns, ms) := s2.splitNotify k n r.ok
    let done : Option (State × List (Nat × Nat) × List Nat) :=
      if la = 0 then s2.laneAll g e.f o w e.x.pc saddr n since ops va r.ok
      else (s2.lanesInOrder g n ms).map fun u => let (u1, hs) := u.laneNotify g e.f o w e.x.pc saddr n ops ns; (u1, [], hs)
    match (if r.wait then none else done) with
    | none => s.stall
    | some (s3, vs, hs) =>
      let s3 := if la = 0 ∧ r.ok ≠ [] then s3.laneAcquire g w (js.map va) else s3
      let bytes := js.flatMap fun j => touchOf (s.wg g.wg).pos ((ops j).address w win) n
      let mk (kd : OutKind) : Outst :=
        { pc := e.x.pc, left := la, kind := kd, rd := rd, wr := wr, bytes := bytes }
      let outs := hs.map (fun h => { mk (.notify h) with left := 0 }) ++
        (if la = 0 then [] else [mk (.deferred k (logFor 0 e.f e.x.pc i w win base ops (ms.map Prod.fst) []) n since ms [])])
      let stored := if k = .read ∨ logged.isSome then [] else bytes
      let s4 := s3.modGroup g fun y =>
        ((y.setV (laneResults i vs)).noteStore stored).modFrag e.f fun x => { x with out := x.out ++ outs }
      let faulted := (r.bad.map Prod.fst) ++ (r.page.map Prod.fst)
      if faulted = [] then s4.laneNext e
      else
        let h := s4.nextHandle
        let s5 := { s4 with nextHandle := h + 1 }
        let fm := BitVec.ofNat 32 (maskOf 32 faulted)
        if r.ok = [] then
          (s5.modGroup g fun y => y.modFrag e.f fun x => { x with fault := x.split.isNone, out := e.x.out }).splitFault g e.f k
            (logFor h e.f e.x.pc i w win base ops faulted (r.page.map Prod.fst)) r
        else
          let nf := e.y.nextId
          let s6 := s5.modGroup g fun y => { y with
            nextId := nf + 1
            frags := (y.modFrag e.f fun x => { x with lanes := x.lanes &&& ~~~fm, out := x.out.map (·.part (~~~fm)) }).frags ++
              [{ e.x with fid := nf, lanes := fm, out := e.x.out.map (·.part fm), split := some e.f, fault := false }] }
          (s6.splitFault g nf k (logFor h nf e.x.pc i w win base ops faulted (r.page.map Prod.fst)) r).laneNext e

/-- An outstanding lane access completes (R280, R288, R291). -/
def State.completeLanes (s : State) (a : Agent) (k : Nat) (o : Outst) : State :=
  let g := s.grpId a
  match o.kind with
  | .deferred _ e _ _ _ _ =>
    let s1 := s.runAt a k
    (match ((s1.outs a)[k]?).map Outst.kind, laneCode e.word with
     | some (.deferred _ _ _ _ [] vals), some (_, _, w) =>
       let s2 := (s1.dropOut a k).modGroup g fun y => y.setV (laneResults e.word vals)
       let s3 := if e.mask = 0 then s2 else s2.laneAcquire g w ((onesOf 32 e.mask).map (e.va w ((s.group g).window (bits w.p2.toNat 2 0))))
       s3.know a o.wr s.clock
     | _, _ => s1)
  | _ => s

/-- What the replay of lanes came to: register results, NOTIFY handles and what became of each lane. -/
structure Replay where
  s : State
  vs : List (Nat × Nat) := []
  hs : List Nat := []
  r : LRes := {}

/-- Retranslate the lanes `js` of a log entry and perform those that pass (R303); with `trickle` one lane at a time, each
after its predecessor has performed (R375). None while a walk or the home must wait. -/
def State.replayEach (s : State) (g : GrpId) (f o : Nat) (w : LaneW) (z : LogEntry) (win : Window) (trickle : Bool) :
    Nat → List Nat → Option Replay
  | 0, _ | _, [] => some { s := s }
  | k + 1, js =>
    let n := accessSize w.ty.toNat
    let now := if trickle then js.take 1 else js
    let (s1, r) := s.laneChecks (g.lane f) w win n (laneKind o).acc (now.map fun j => (j, z.lops j))
    let saddr := ((s.group g).blk.map (·.saddr)).getD 0
    let done := if r.wait then none else s1.laneAll g f o w z.waddr saddr n s.clock z.lops (z.va w win) r.ok
    done.bind fun (s2, vs, hs) =>
      if trickle ∧ r.ok ≠ [] then
        (s2.replayEach g f o w z win trickle k (js.drop 1)).elim
          (some { s := s2, vs := vs, hs := hs, r := { r with wait := true } })
          fun t => some { t with vs := vs ++ t.vs, hs := hs ++ t.hs, r := { t.r with ok := r.ok ++ t.r.ok } }
      else some { s := s2, vs := vs, hs := hs, r := r }

/-- Replay of the lanes of a log entry under page service (R193, R303, R375). A word that acquires does so once every lane
has performed (R288). A fault of another cause waits for the earlier words of the fragment (R67, R299). -/
def State.replayLanes (s : State) (g : GrpId) (z : LogEntry) (trickle : Bool) : State :=
  match laneCode z.word, z.frag with
  | some (_, o, w), some f =>
    let a := g.lane f
    let k := (laneKind o).acc
    let win := (s.group g).window (bits w.p2.toNat 2 0)
    let pages := onesOf 32 z.pageLanes
    match s.replayEach g f o w z win trickle (pages.length + 1) pages with
    | none => s
    | some t =>
      let left := pages.filter fun j => !(t.r.ok.any fun x => x.1 == j) && !(t.r.bad.any fun x => x.1 == j)
      let rest := (onesOf 32 z.mask).filter fun j => !(t.r.ok.any fun x => x.1 == j)
      let s3 := (t.s.modGroup g fun y => (y.setV (laneResults z.word t.vs)).modFrag f fun x => { x with
        out := x.out ++ t.hs.map fun h => { pc := z.waddr, left := 0, kind := .notify h } }).know a (laneRefs 1 o w).2 s.clock
      let s4 := if t.r.wait then s3 else { s3 with holds := adel s3.holds z.handle }
      let (h, s5) := match t.r.page with
        | [] => (z.handle, s4)
        | (_, va) :: _ =>
          let h := s4.nextHandle
          let x : Held := { who := .lane g h, va := va, asid := (s4.space a).asid, kind := k, ctx := g.c, posted := false }
          (h, ({ s4 with nextHandle := h + 1, holds := aput s4.holds h x }).postHeld h)
      -- lanes behind a fault of another cause wait with it for RESUME
      let held := if t.r.bad ≠ [] ∧ t.r.page = [] then [] else left
      let s6 := s5.modGroup g fun y => { y with
        log := if rest = [] then y.log.filter fun e => e.handle != z.handle
          else y.log.map fun e =>
            if e.handle = z.handle then { e with handle := h, mask := maskOf 32 rest, pageLanes := maskOf 32 held } else e }
      let s7 := if rest = [] then
          ((s6.laneAcquire g w ((onesOf 32 z.mask).map (z.va w win))).modGroup g fun y =>
            y.modFrag f fun x => { x with st := .runnable }).goTo g f (z.waddr + 12)
        else if left = [] ∧ z.declined then (s6.modGroup g fun y => y.modFrag f fun x => { x with st := .runnable }).refill g
        else s6
      match t.r.bad with
      | [] => s7
      | (_, c, i) :: _ =>
        if s.outs a ≠ [] then s
        else s7.takeFault a { s7.record a c i with lanes := maskOf 32 (t.r.bad.map Prod.fst), waddr := z.waddr }
  | _, _ => { s with holds := adel s.holds z.handle }

/-- Logged accesses of a stream whose service was declined perform again from the log (R310). -/
def State.retryLogged (s : State) (g : GrpId) : State :=
  ((s.group g).log.filter fun e => e.frag.isNone && e.declined && (s.seq g.stream).out.any fun o =>
      o.kind == .paged e.handle && (aget? s.holds e.handle).isNone).foldl
    (fun s e => s.replayScalar g.stream e.handle) s

/-- A cancelled store translates again (R368) while its context is on its core; one that faults waits for its group to
resume (log entry 20), and one of a killed context is discarded as R389 discards what is logged. -/
def State.retryStore (s : State) (p : PStore) : State :=
  let a := (⟨p.src.c, p.src.w, p.grp⟩ : GrpId).stream
  let put (s : State) (f : PStore → PStore) : State := { s with pend := s.pend.map fun x => if x.sid = p.sid then f x else x }
  let dead := (s.wg p.src).place = .killed
  let drop (s : State) : State := { s with pend := s.pend.filter fun x => x.sid != p.sid }
  let bad (s : State) (c : Nat) : State :=
    if dead then drop s
    else (put s fun x => { x with faulted := true }).takeFault a
      { s.record a c p.va with level := if p.lanes = 0 then 1 else 0, lanes := p.lanes, waddr := p.waddr }
  if !p.again ∨ p.faulted ∨ !((s.wg p.src).place = .resident ∨ dead) ∨ (s.holds.any fun h => h.2.who == .store p.src p.sid) then s
  else
    match s.access (s.space a) p.va .write with
    | (_, .wait) => s
    | (s1, .fault .page) =>
      if dead then drop s1
      else (s1.hold { who := .store p.src p.sid, va := p.va, asid := (s1.space a).asid, kind := .write, ctx := p.src.c }).2
    | (s1, .fault .prot) => bad s1 cPROT
    | (s1, .fault .poison) => bad s1 cPOISON
    | (s1, .ok tr) =>
      let p' : PStore := { p with pa := tr.pa p.va, lines := tr.lines, trk := tr.trk, again := false }
      put (if tr.trk then s1.atL1 ⟨p.src.c, p.src.w, p.grp⟩ p' else s1) fun _ => p'

end Sys2Proof.Machine
end

