-- ==== Sys2Proof/Machine/Tile.lean ====
section
/-!
DEFINITION. Tile words at the lane engine: claims (R215), the checks of entry (R219 to R221), and entry into the matrix
window (R217, R221, R240).
-/
namespace Sys2Proof.Machine

/-! ### Shared conditions -/

/-- Whether a group holds a slot, or a tile (R33). -/
def Wg.holdsSlot (x : Wg) (g m : Nat) : Bool := decide (m < 16) && (agetD {} x.slots m).holder == some g
def Wg.holdsAcc (x : Wg) (g a : Nat) : Bool := decide (a < 16) && (agetD {} x.accs a).holder == some g

/-- The slot that a g2slot chit writes from its start to its completion (R205, R236). -/
def Chit.writesSlot (c : Chit) : Option Nat :=
  if c.started && Sys2Proof.bits c.bits 11 8 == 2 then some (Sys2Proof.bits c.bits 195 192) else none

/-- Slots that running chits write. -/
def Wg.chitSlots (x : Wg) : List Nat := x.chits.filterMap Chit.writesSlot

/-- Slots and tiles that an operation names or reaches, for the tags and banks `p` (R213, R230). -/
def TileOp.slotsIn (p : Pred) (op : TileOp) : List Nat :=
  match op with
  | .mma _ m .. => if ((aget? p.tags m).map fun t => fmtClass t.1) == some 0 then [m, m + 1] else [m]
  | op => op.slot.toList
def TileOp.accsIn (p : Pred) (op : TileOp) : List Nat :=
  match op with
  | .mma a _ b .. => (List.range (max 1 ((agetD {} p.banks b).n / 64))).map (a + ·)
  | op => op.acc.toList
def TileOp.slotsOf (x : Wg) (op : TileOp) : List Nat := op.slotsIn x.pred

/-- Operations of a command: those it runs and those of its origins. -/
def TileCmd.allOps (c : TileCmd) : List TileOp := c.ops ++ c.origins.map (·.op)

/-- Whether a word that has not retired names a slot (or a tile) of a run: a pair and a bank's tiles are judged from the
tags and banks that the words before it leave. -/
def namesRun (k : KObj) (acc : Bool) (run : List Nat) (p : Pred) : List TileOp → Bool
  | [] => false
  | o :: l => (if acc then o.accsIn p else o.slotsIn p).any run.contains || namesRun k acc run (p.after k o) l

/-- A demand point: a cut, at which what is undecided is decided (R240, R242). -/
def State.demand (s : State) (g : GrpId) : State := s.cut g

/-! ### Claims (R215) -/

/-- Whether two runs of one kind overlap. -/
def Claim.meets (a b : Claim) : Bool := a.acc == b.acc && decide (a.m < b.m + b.n) && decide (b.m < a.m + a.n)

/-- Whether every slot or tile of a run is free. -/
def Wg.runFree (x : Wg) (c : Claim) : Bool :=
  (List.range c.n).all fun i =>
    if c.acc then (agetD {} x.accs (c.m + i)).holder.isNone else (agetD {} x.slots (c.m + i)).holder.isNone

/-- A tile at claim (R214): each bit is the one left there or 0, by the free values from `n` on (log entry 5). -/
def Acc.claimed (a : Acc) (g n : Nat) : Acc :=
  { a with
    holder := some g
    el := a.el.map fun x => (x.1, x.2 &&& (Config.freeValue (n + x.1)).setWidth 32) }

/-- Take a run for its group: slots are tagged none, so that what was left in them is never read (R33, R214). -/
def Wg.take (x : Wg) (c : Claim) (n : Nat) : Wg :=
  (List.range c.n).foldl
    (fun x i =>
      if c.acc then { x with accs := aput x.accs (c.m + i) ((agetD {} x.accs (c.m + i)).claimed c.grp (n + 8192 * i)) }
      else { x with slots := aput x.slots (c.m + i) { (agetD {} x.slots (c.m + i)) with holder := some c.grp, tag := none } })
    x

/-- The rewrite stage of a run's group follows its claim or release. -/
def State.followRun (s : State) (w : WgId) (c : Claim) : State :=
  if c.acc then s
  else s.modGroup ⟨w.c, w.w, c.grp⟩ fun y => (List.range c.n).foldl (fun y i => y.follow (s.grid w.c).k (c.m + i)) y

/-- A claim is granted, the claims `l` still waiting. -/
def State.grant (s : State) (w : WgId) (c : Claim) (l : List Claim) : State :=
  ({ s.setWg w { (s.wg w).take c s.freeCtr with claims := l } with
    freeCtr := s.freeCtr + if c.acc then 8192 * c.n else 0 } : State).followRun w c

/-- A slot's tag or contents change: a bank loaded from it no longer matches it (R247). -/
def Wg.touch (x : Wg) (m : Nat) : Wg :=
  { x with banks := x.banks.map fun b => (b.1, if b.2.src = some m then { b.2 with src := none } else b.2) }

/-- Release a run; the flags of its tiles are discarded (R43). -/
def Wg.release (x : Wg) (c : Claim) : Wg :=
  (List.range c.n).foldl
    (fun x i =>
      if c.acc then
        { x with accs := aput x.accs (c.m + i) { (agetD {} x.accs (c.m + i)) with holder := none, flags := 0 } }
      else
        ({ x with slots := aput x.slots (c.m + i) { (agetD {} x.slots (c.m + i)) with holder := none, tag := none } } : Wg).touch
          (c.m + i))
    x

/-- The run that a claim word names. -/
def claimOf (g : Nat) (acc : Bool) (w : LaneW) : Claim :=
  let p := w.p2.toNat
  { grp := g, acc := acc, m := if acc then bits p 19 16 else bits p 15 12, n := bits p 11 8 + 1 }

/-- Slots, or tiles, that the groups of a workgroup hold, ascending. -/
def Wg.heldSlots (x : Wg) : List Nat := (List.range 16).filter fun m => (agetD {} x.slots m).holder.isSome
def Wg.heldAccs (x : Wg) : List Nat := (List.range 16).filter fun a => (agetD {} x.accs a).holder.isSome

/-- Whether a claim may be granted now, behind the waiters before it; a run of slots needs as many physical ones beside
those of a staged context (R383). -/
def Wg.grantable (x : Wg) (before : List Claim) (c : Claim) : Bool :=
  x.runFree c && !before.any c.meets && (c.acc || decide (x.heldSlots.length + c.n ≤ x.phys))

/-- A tile word of row `o`: ILLCONV in a partial fragment (R63), then its own effect. -/
def tile (o : Nat) (w : LaneW) (s : State) (f : LaneEnv → State) : Out :=
  lane 2 o w s fun e => if e.x.lanes ≠ 0xFFFFFFFF then s.fault cILLCONV (~~~e.x.lanes).toNat else f e

/-- SCLAIM and ACLAIM: granted at once, or a waiter whose grant is CLAIM_GRANT; in a re-run they arrive as captured
(R424). -/
def claimWord (o : Nat) (acc : Bool) (w : LaneW) (s : State) : Out :=
  tile o w s fun e =>
    let x := s.wg e.g.wg
    let c := claimOf e.g.g acc w
    let held := (List.range c.n).find? fun i => if acc then x.holdsAcc c.grp (c.m + i) else x.holdsSlot c.grp (c.m + i)
    match held with
    | some i => s.fault (if acc then cACCSTATE else cSLOTSTATE) (c.m + i)
    | none =>
      if x.claims.any (·.grp == c.grp) then s.stall
      else
        match s.ordered e.g.c (.claim e.g.w c.grp acc c.m c.n) with
        | none => s.stall
        | some s1 =>
          if x.grantable x.claims c then (s1.grant e.g.wg c x.claims).laneNext e
          else s1.setWg e.g.wg { x with claims := x.claims ++ [c] }

/-- Whether words of the group that have not retired name the run of a release word (R215): a demand point. -/
def State.releaseNamed (s : State) (g : GrpId) (acc : Bool) (w : LaneW) : Bool :=
  let c := claimOf g.g acc w
  namesRun (s.grid g.c).k acc ((List.range c.n).map (c.m + ·)) (s.wg g.wg).pred ((s.group g).cmds.flatMap TileCmd.allOps)

/-- The slot or tile of a release word's run that the group does not hold. -/
def State.releaseBad (s : State) (g : GrpId) (acc : Bool) (w : LaneW) : Option Nat :=
  let x := s.wg g.wg
  let c := claimOf g.g acc w
  ((List.range c.n).map (c.m + ·)).find? fun m => if acc then !x.holdsAcc c.grp m else !x.holdsSlot c.grp m

/-- SREL and AREL wait for the group's words that name the run, and for chits that write it. -/
def releaseWord (o : Nat) (acc : Bool) (w : LaneW) (s : State) : Out :=
  tile o w s fun e =>
    let x := s.wg e.g.wg
    let c := claimOf e.g.g acc w
    match s.releaseBad e.g acc w with
    | some m => s.fault (if acc then cACCSTATE else cSLOTSTATE) m
    | none =>
      if s.releaseNamed e.g acc w ∨ (!acc && x.chitSlots.any ((List.range c.n).map (c.m + ·)).contains) then s.stall
      else ((s.setWg e.g.wg (x.release c)).followRun e.g.wg c).laneNext e

def execSclaim (w : LaneW) (s : State) : Out := claimWord 0x01 false w s
def execSrel (w : LaneW) (s : State) : Out := releaseWord 0x02 false w s
def execAclaim (w : LaneW) (s : State) : Out := claimWord 0x09 true w s
def execArel (w : LaneW) (s : State) : Out := releaseWord 0x0A true w s

/-! ### Entry -/

/-- A scalar register named by a field, none for code 0 (R217). -/
def LaneEnv.opt (e : LaneEnv) (f : BitVec 7) : Option Nat :=
  if f.toNat % 64 = 0 then none else some (e.stream.readReg .S (f.toNat % 64)).toNat
/-- The valid count (R217). -/
def LaneEnv.valid (e : LaneEnv) (w : LaneW) : Nat := (e.stream.readReg .S w.vb.toNat).toNat
/-- The offset of a shape word (R219). -/
def LaneEnv.offset (e : LaneEnv) (w : LaneW) : Nat := (e.opt w.vc).getD 0 % 2 ^ 32
/-- RND with FCTL.DRND read at entry (R217). -/
def LaneEnv.rndCode (e : LaneEnv) (w : LaneW) : Nat := if w.rnd = 5 then e.y.fctl else w.rnd.toNat

/-- SHAPE and TABLE of an operation that names a shape (R220): the cause. -/
def shapeFault (k : KObj) (op : TileOp) : Option Nat :=
  match op.shapeIx with
  | none => none
  | some i =>
    match k.shape i with
    | none => some cSHAPE
    | some r =>
      match op with
      | .ldslot .. | .stslot .. =>
        if (if fmtClass r.fmt = 4 then 32 else 128) < r.rows ∨ slotCols r.fmt < r.cols then some cSHAPE else none
      | .aload .. => if 0x17 < r.fmt ∨ 128 < r.rows ∨ 64 < r.cols then some cSHAPE else none
      | .adrainSp _ _ _ _ f _ _ => if r.fmt ≠ f ∨ 128 < r.rows ∨ 64 < r.cols then some cSHAPE else none
      | .tblw .. => if r.fmt ≠ 3 ∨ r.rows ≠ 1 then some cTABLE else if 256 < r.cols then some cSHAPE else none
      | _ => none

/-- The elements whose bounds R219 checks and whose bytes R57 protects: for STSLOT all of its shape. -/
def extent (k : KObj) (op : TileOp) : Nat × List Nat :=
  match op with
  | .stslot _ sh o =>
    (match k.shape sh with
     | some r => (recBits r.fmt, r.elems o r.rows r.cols)
     | none => (1, []))
  | op => ({} : Pred).positions k op

/-- The bytes of elements of `w` bits, as a core at pitch core index `p` names them (R57, R181). -/
def tileBytes (p w : Nat) (es : List Nat) : List (Bool × Nat × Nat) :=
  (byteRanges w es).map fun r => (true, ownOff p r.1, r.2)

/-- The scratchpad place of element bits `b` to `b + w - 1` of the form-10 space. -/
def State.elemPlace (s : State) (x : WgId) (w e : Nat) : Option (WgId × Nat) :=
  s.spTarget x (w * e / 8) ((w * e % 8 + w + 7) / 8)

/-- The precise fault of entry, in the order of R221: cause and INFO. -/
def State.entryFault (s : State) (g : GrpId) (op : TileOp) : Option (Nat × Nat) :=
  let k := (s.grid g.c).k
  let x := s.wg g.wg
  let noSlot := op.slot.any fun m => !x.holdsSlot g.g m
  let noAcc := op.acc.any fun a => !x.holdsAcc g.g a
  if noSlot then some (cSLOTSTATE, op.slot.getD 0)
  else if noAcc then some (cACCSTATE, op.acc.getD 0)
  else
    match shapeFault k op with
    | some c => some (c, op.shapeIx.getD 0)
    | none =>
      let (w, es) := extent k op
      match es.find? fun e => (s.elemPlace g.wg w e).isNone with
      | some e => some (cSPBOUND, w * e / 8)
      | none => none

/-- Whether 15 numbered words follow the oldest undecided one in the window (R240). -/
def Group.crowded (y : Group) : Bool :=
  match y.hist.find? fun z => y.undecided z.num with
  | some z => decide (15 ≤ ((y.cmds.flatMap (·.origins)).filter fun q => decide (z.num < q.num)).length)
  | none => false

/-- Entry into the matrix window (R221): the number, the operands that travel, the back-distances, and the rewrite
stage. The word is outstanding until it retires (R223). -/
def State.enterWindow (s : State) (e : LaneEnv) (w : LaneW) (o : Nat) (op : TileOp) (sva : Nat) : State :=
  match s.entryFault e.g op with
  | some (c, i) => s.fault c i
  | none =>
    let k := (s.grid e.g.c).k
    let rules := (s.wg e.g.wg).rules
    let s0 := if op.flushes rules then s.cut e.g else s.dueCut e.g
    let x := s0.wg e.g.wg
    let n := e.y.lastNum + 1
    let p2 := w.p2.toNat
    let pd := ([bits p2 31 26, bits p2 25 20].filter fun d => d != 0 && decide (d < n)).map (n - ·)
    let og : Origin :=
      { num := n, waddr := e.x.pc, op := op, pd := pd, perm := (e.y.blk.map (·.perm)).getD false, rgn := e.y.rgn.toNat,
        saddr := (e.y.blk.map (·.saddr)).getD 0, sva := sva, sval := op.count.getD 0, soff := e.offset w }
    let (wd, es) := extent k op
    let (rd, wr) := laneRefs 2 o w
    let out : Outst :=
      { pc := e.x.pc, left := w.la.toNat, kind := .tile n, rd := rd, wr := wr, bytes := tileBytes (s.wg e.g.wg).pos wd es }
    let s1 := s0.modGroup e.g fun y =>
      let y1 : Group := { y with
        lastNum := n, cmds := y.cmds ++ [{ origins := [og], ops := [op] }]
        base := some (y.base.getD (standing k x y)), hist := y.hist ++ [og] }
      let y2 : Group := if y1.crowded then y1.decideOne k x e.g.g else y1
      y2.modFrag e.f fun z => { z with out := z.out ++ [out] }
    (if op.flushes rules then s1.cut e.g else s1).laneNext e

/-! ### The numbered words (R216, R217) -/

/-- The operation of a numbered word with the operands that it reads at entry (R217). -/
def LaneEnv.tileOp (e : LaneEnv) : Instr → Option TileOp
  | .ldslot w => some (.ldslot (bits w.p2.toNat 15 12) w.vd.toNat (e.offset w) (e.valid w))
  | .stslot w => some (.stslot (bits w.p2.toNat 15 12) w.vd.toNat (e.offset w))
  | .trans w => some (.trans (bits w.p2.toNat 15 12))
  | .scale w => some (.scale (bits w.p2.toNat 15 12) (natBit w.mod.toNat 0) ((e.opt w.va).getD 0))
  | .ldw w =>
    let p := w.p2.toNat
    some (.ldw (bits p 7 7) (bits p 15 12) (bits p 6 4) (natBit w.mod.toNat 0) (e.opt w.va))
  | .mma w =>
    let p := w.p2.toNat
    let m := w.mod.toNat
    some (.mma (bits p 19 16) (bits p 15 12) (bits p 7 7) (bits p 6 4) (e.valid w) (natBit m 0) (natBit m 1) (natBit m 2)
      (e.opt w.va))
  | .aload w => some (.aload (bits w.p2.toNat 19 16) w.vd.toNat (e.offset w) (e.rndCode w))
  | .adrainSp w =>
    some (.adrainSp (bits w.p2.toNat 19 16) w.vd.toNat (e.offset w) (e.valid w) w.fmt.toNat (e.rndCode w) w.sat)
  | .adrainReg w => some (.adrainReg (bits w.p2.toNat 19 16) w.vc.toNat w.vd.toNat w.fmt.toNat (e.rndCode w) w.sat)
  | .tblw w => some (.tblw (bits w.p2.toNat 6 4) w.vd.toNat (e.offset w))
  | _ => none

/-- A numbered word enters the window with its operation, and the address of its scale vector where it names one. -/
def State.enterOp (s : State) (e : LaneEnv) (w : LaneW) (o : Nat) (i : Instr) : State :=
  match e.tileOp i with
  | some op => s.enterWindow e w o op (op.vec.getD 0)
  | none => s

def execLdslot (w : LaneW) (s : State) : Out := tile 0x03 w s fun e => s.enterOp e w 0x03 (.ldslot w)
def execStslot (w : LaneW) (s : State) : Out := tile 0x04 w s fun e => s.enterOp e w 0x04 (.stslot w)
def execTrans (w : LaneW) (s : State) : Out := tile 0x05 w s fun e => s.enterOp e w 0x05 (.trans w)

/-- SCALE: an absent or misaligned vector raises ALIGN at entry (R227). -/
def execScale (w : LaneW) (s : State) : Out :=
  tile 0x06 w s fun e =>
    let a := (e.opt w.va).getD 0
    match s.entryFault e.g (.scale (bits w.p2.toNat 15 12) (natBit w.mod.toNat 0) a) with
    | some (c, i) => s.fault c i
    | none => if (e.opt w.va).isNone ∨ a % 4 ≠ 0 then s.fault cALIGN a else s.enterOp e w 0x06 (.scale w)

def execLdw (w : LaneW) (s : State) : Out := tile 0x07 w s fun e => s.enterOp e w 0x07 (.ldw w)
def execMma (w : LaneW) (s : State) : Out := tile 0x08 w s fun e => s.enterOp e w 0x08 (.mma w)
def execAload (w : LaneW) (s : State) : Out := tile 0x0B w s fun e => s.enterOp e w 0x0B (.aload w)
def execAdrainSp (w : LaneW) (s : State) : Out := tile 0x0C w s fun e => s.enterOp e w 0x0C (.adrainSp w)
/-- The register form: VC holds the row, and no offset register is read. -/
def execAdrainReg (w : LaneW) (s : State) : Out :=
  tile 0x0C w s fun e => s.enterOp { e with stream := {} } w 0x0C (.adrainReg w)
def execTblw (w : LaneW) (s : State) : Out := tile 0x0D w s fun e => s.enterOp e w 0x0D (.tblw w)

end Sys2Proof.Machine
end

