-- ==== Sys2Proof/Machine/Array.lean ====
section
/-!
DEFINITION. What numbered tile words do: elements of slots, banks and scratchpad (R93, R212 to R219), scale vectors
(R223), the products of the array (R94, R95), and each operation whole (R224 to R235, R247).
-/
namespace Sys2Proof.Machine

/-- What a deferred failure is attributed to (R253). -/
inductive Blame where
  | slot (m : Nat) | bank (b : Nat) | tile (a : Nat) | vec (addr : Nat) | own (op : TileOp)
  deriving DecidableEq, Repr, Inhabited

/-- A deferred failure (R238): cause, INFO, the byte address of the snapshot, a bank that becomes Empty. -/
structure TFault where
  cause : Nat
  info : Nat
  addr : Nat := 0
  blame : Blame
  empty : Option Nat := none
  deriving DecidableEq, Repr, Inhabited

/-- The outcome of an operation. -/
inductive TRes where
  | ok (s : State) (flags : Nat) (vals : List (Nat × W32))
  | fail (f : TFault)
  | page (s : State) (va : Nat)
  | wait
  deriving DecidableEq, Repr, Inhabited

/-! ### Scale vectors (R223, R238) -/

/-- Pieces of one entry: its four bytes, one by one where they do not share a word. -/
def entryPieces (va : Nat) : List (Nat × Nat) := if va % 4 = 0 then [(va, 4)] else (List.range 4).map fun i => (va + i, 1)

/-- What reading a vector came to. -/
inductive Vec where
  | ok (xs : List W32)
  | bad (cause info : Nat)
  | page (va : Nat)
  | wait
  deriving DecidableEq, Repr

/-- Relaxed reads of a group, in order, as its scalar loads reach memory (R223). -/
def State.readPieces (s : State) (g : GrpId) : List (Nat × Nat) → State × Vec
  | [] => (s, .ok [])
  | (va, n) :: l =>
    if 2 ^ 57 < va + n then (s, .bad cPROT va)
    else
      match s.reach g.stream (.glob va none) n .read va with
      | (s1, .ok t) =>
        (match s1.inOrder? g t n with
         | none => (s1, .wait)
         | some u =>
           let (s2, v) := u.readAt g t n u.clock
           match s2.readPieces g l with
           | (s3, .ok xs) => (s3, .ok (BitVec.ofNat 32 v :: xs))
           | r => r)
      | (s1, .page va) => (s1, .page va)
      | (s1, .bad c i) => (s1, .bad c i)
      | (s1, .wait) => (s1, .wait)

/-- The f32 entries from bytes, when an entry was read in pieces. -/
def joinEntries (aligned : Bool) (xs : List W32) : List W32 :=
  if aligned then xs
  else (List.range (xs.length / 4)).map fun i =>
    BitVec.ofNat 32 (ofBytes ((List.range 4).map fun j => BitVec.ofNat 8 (xs.getD (4 * i + j) 0).toNat))

/-- The first `n` entries of a vector. -/
def State.readVec (s : State) (g : GrpId) (addr n : Nat) : State × Vec :=
  match s.readPieces g ((List.range n).flatMap fun i => entryPieces (addr + 4 * i)) with
  | (s1, .ok xs) => (s1, .ok (joinEntries (addr % 4 = 0) xs))
  | r => r

/-- Go on with the entries of a vector, or fail. -/
def Vec.elim (v : Vec) (s : State) (addr : Nat) (f : List W32 → TRes) : TRes :=
  match v with
  | .ok xs => f xs
  | .bad c i => .fail { cause := c, info := i, addr := i, blame := .vec addr }
  | .page va => .page s va
  | .wait => .wait

/-! ### Scratchpad elements (R213, R219) -/

/-- Element bits of the form-10 space. -/
def State.spElem (s : State) (g : GrpId) (w e : Nat) : Nat :=
  match s.elemPlace g.wg w e with
  | some (x, o) => ofBytes (s.spBytes x o ((w * e % 8 + w + 7) / 8)) / 2 ^ (w * e % 8) % 2 ^ w
  | none => 0

/-- Write element bits, leaving the other bits of their bytes. -/
def State.spPutElem (s : State) (g : GrpId) (w e v : Nat) : State :=
  match s.elemPlace g.wg w e with
  | some (x, o) =>
    let n := (w * e % 8 + w + 7) / 8
    s.spWrite x o (toBytes n (setBits (ofBytes (s.spBytes x o n)) (w * e % 8) w v))
  | none => s

/-- The first element that stands in a poisoned granule: its byte offset in the form-10 space. -/
def State.spBadElem (s : State) (g : GrpId) (w : Nat) (es : List Nat) : Option Nat :=
  (es.find? fun e => match s.elemPlace g.wg w e with
    | some (x, o) => (s.spPoisonAt x o ((w * e % 8 + w + 7) / 8)).isSome
    | none => false).map fun e => w * e / 8

/-- Write elements; a granule written whole loses its mark (R416). -/
def State.spPutElems (s : State) (g : GrpId) (w : Nat) (xs : List (Nat × Nat)) : State :=
  let s1 := xs.foldl (fun s x => s.spPutElem g w x.1 x.2) s
  (byteRanges w (xs.map Prod.fst)).foldl
    (fun s r => match s.spTarget g.wg r.1 r.2 with
      | some (x, o) => s.modWg x fun y =>
          { y with spPoison := y.spPoison.filter fun p => !(decide (o ≤ 32 * p) && decide (32 * p + 32 ≤ o + r.2)) }
      | none => s) s1

/-! ### Slots -/

/-- The first poisoned byte of `n` bits of the rows of a slot from `lo` up to `rows`. -/
def Slot.badIn (x : Slot) (pitch rows n : Nat) (lo : Nat := 0) : Option Nat :=
  (x.bad.find? fun b => decide (lo ≤ 32 * b / pitch) && decide (32 * b / pitch < rows) && decide (32 * b % pitch * 8 < n)).map
    (32 * ·)

/-- Marks that a write of `rows` rows of `n` bits leaves. -/
def Slot.badLeft (x : Slot) (pitch rows n : Nat) : List Nat :=
  x.bad.filter fun b => !(decide (32 * b / pitch < rows) && decide ((32 * b % pitch + 32) * 8 ≤ n))

/-- A row of elements. -/
def packRow (w : Nat) : List Nat → Nat
  | [] => 0
  | x :: l => x % 2 ^ w + 2 ^ w * packRow w l

def Wg.slot (x : Wg) (m : Nat) : Slot := agetD {} x.slots m
def Wg.acc (x : Wg) (a : Nat) : Acc := agetD {} x.accs a
def Wg.bank (x : Wg) (b : Nat) : Bank := agetD {} x.banks b

/-- New contents of a slot; banks loaded from it no longer match it (R247). -/
def Wg.putSlot (x : Wg) (m : Nat) (v : Slot) : Wg :=
  { x with slots := aput x.slots m v
           banks := x.banks.map fun b => (b.1, if b.2.src = some m then { b.2 with src := none } else b.2) }

/-- FORMAT of a slot (R238). -/
def formatFault (m f : Nat) : TFault := { cause := cFORMAT, info := m + f * 2 ^ 8, blame := .slot m }
def slotFault (m : Nat) : TFault := { cause := cSLOTSTATE, info := m, blame := .slot m }

/-- Operate on a tagged slot whose valid elements carry no mark. -/
def Wg.tagged (x : Wg) (m : Nat) (f : Nat → Nat → Nat → TRes) : TRes :=
  match (x.slot m).tag with
  | none => .fail (slotFault m)
  | some (fm, rv, cv) => f fm rv cv

/-- Fail when a slot's valid elements are poisoned. -/
def Wg.clean (x : Wg) (m f rv cv : Nat) (k : TRes) : TRes :=
  match (x.slot m).badIn (rowPitch f) rv (recBits f * cv) with
  | some b => .fail { cause := cPOISON, info := b, addr := b, blame := .slot m }
  | none => k

/-! ### The array (R93 to R95) -/

/-- An operand element: its value, and the sign and exponent of a nonzero logarithmic one (R77). -/
abbrev Elem := Num × Option (Bool × Int)

/-- Decode an element for the array. -/
def arrayElem (table : Nat → Nat) (f code : Nat) : Elem :=
  let d := denseOf f
  let lg : Option (Bool × Int) :=
    if 0x0C ≤ d ∧ d ≤ 0x0F then
      let w := (lgSpec d).1
      if code % 2 ^ w = 0 then none else some (natBit code w, lgX d (code % 2 ^ w))
    else none
  (fmtDecode table f code, lg)

/-- Negation of every element (R93). -/
def negElem (n : Bool) (e : Elem) : Elem := if n then (e.1.neg, e.2.map fun x => (!x.1, x.2)) else e

/-- A product (R77, R94). -/
def prodElem (a b : Elem) : Num :=
  match a.2, b.2 with
  | some (sa, xa), some (sb, xb) => .fin (lgVal (sa != sb) (xa + xb))
  | _, _ => mulNum a.1 b.1

/-- f32 arithmetic of the array: rne, canonical NaN (R95). -/
def f32op (v : Num) : Nat × Nat := ffF32.encode .rne false v
def f32dec (c : Nat) : Num := ffF32.decode c

/-- One chunk sum (R95). -/
def chunkSum (ps : List Num) : Nat × Nat :=
  let nv := if ps.any Num.nv then fNV else 0
  let inf (n : Bool) : Bool := ps.any fun p => p == .inf n
  if ps.any Num.isNan then (0x7FC00000, nv)
  else if inf false && inf true then (0x7FC00000, fNV)
  else if inf false then f32op (.inf false)
  else if inf true then f32op (.inf true)
  else f32op (.fin (ps.foldl (fun a p => match p with | .fin d => a.add d | _ => a) {}))

/-- An output element: its bits, its flags, and the f32 intermediates on the way (R95, R245). -/
def outElem (prods : Nat → List Num) (rs cs : Nat) (old : Option Nat) : Nat × Nat × List Nat :=
  let step (st : Nat × Nat × List Nat) (c : Nat) : Nat × Nat × List Nat :=
    let (v, fl, l) := st
    let (sm, f1) := chunkSum (prods c)
    let (p, f2) := f32op (addNum .rne (f32dec v) (f32dec sm))
    (p, fl ||| f1 ||| f2, l ++ [sm, p])
  let (p, fl, l) := (List.range 4).foldl step (0, 0, [])
  let (t1, f1) := f32op (mulNum (f32dec p) (f32dec rs))
  let (t2, f2) := f32op (mulNum (f32dec t1) (f32dec cs))
  match old with
  | none => (t2, fl ||| f1 ||| f2, l ++ [t1, t2])
  | some d =>
    let (r, f3) := f32op (addNum .rne (f32dec d) (f32dec t2))
    (r, fl ||| f1 ||| f2 ||| f3, l ++ [t1, t2, r])

/-- Element (k, n) of a bank; none at a position that a sparse record does not keep (R80, R93), nor for a record outside
the valid extents: it keeps no position (DESIGN CHOICE, log entry 51). -/
def Bank.elem (b : Bank) (table : Nat → Nat) (k n : Nat) : Option Elem :=
  let zero : Elem := (.fin {}, none)
  if fmtClass b.fmt = 4 then
    let w := fmtBits b.fmt
    let r := elemAt b.rows (2 * w + 4) (k / 4) n
    if ¬(k / 4 < b.rv ∧ n < b.cv) then none
    else if r / 2 ^ (2 * w) % 4 = k % 4 then some (arrayElem table b.fmt (r % 2 ^ w))
    else if r / 2 ^ (2 * w + 2) % 4 = k % 4 then some (arrayElem table b.fmt (r / 2 ^ w % 2 ^ w))
    else none
  else if k < b.rv ∧ n < b.cv then some (arrayElem table b.fmt (elemAt b.rows (fmtBits b.fmt) k n))
  else some zero

/-- Element (i, k) of an A stream from slot `m`, and from `m + 1` for a 32-bit format with `pair` (R213, R230). -/
def Wg.aElem (x : Wg) (table : Nat → Nat) (m f : Nat) (pair : Bool) (i k : Nat) : Elem :=
  let (m', k') := if pair ∧ fmtClass f = 0 ∧ 64 ≤ k then (m + 1, k - 64) else (m, k)
  match (x.slot m').tag with
  | some (_, rv, cv) =>
    if i < rv ∧ k' < cv then arrayElem table f (elemAt (x.slot m').rows (fmtBits f) i k') else (.fin {}, none)
  | none => (.fin {}, none)

/-- Cost of a rate class: the class of the wider operand (R3, R53). -/
def classRank (f : Nat) : Nat :=
  match fmtClass (denseOf f) with
  | 0 => 0
  | 1 => 1
  | 2 => 2
  | _ => 3
def rateCost (fa fb : Nat) : Nat :=
  match min (classRank fa) (classRank fb) with
  | 0 => 6
  | 1 => 10
  | 2 => 12
  | _ => 14

/-- The failure of an MMA before it reads its scales, in the order of R230. With `single` the A stream is one slot. -/
def Wg.mmaFault (x : Wg) (g a m b : Nat) : Option TFault :=
  match (x.slot m).tag with
  | none => some (slotFault m)
  | some (fa, _, _) =>
    if fmtClass fa = 4 then some (formatFault m fa)
    else if fmtClass fa = 0 ∧ ¬(x.holdsSlot g (m + 1) ∧ ((x.slot (m + 1)).tag.map Prod.fst) = some fa) then
      some { slotFault m with info := m + 1 }
    else if !(x.bank b).loaded then some { cause := cSLOTSTATE, info := 0x10 + b, blame := .bank b }
    else
      ((List.range ((x.bank b).n / 64)).find? fun t => t != 0 && !x.holdsAcc g (a + t)).map fun t =>
        { cause := cACCSTATE, info := a + t, blame := .tile a }

/-- Poison and parity that the rows of an MMA from `lo` up to `rows` meet (R416, R417). -/
def Wg.mmaPoison (x : Wg) (a m b rows : Nat) (ow : Bool) (lo : Nat := 0) : Option TFault :=
  let (fa, rv, cv) := ((x.slot m).tag).getD (0, 0, 0)
  let slotBad (m : Nat) := (x.slot m).badIn (rowPitch fa) (min rows rv) (fmtBits fa * cv) lo
  let bad := if fmtClass fa = 0 then (slotBad m).orElse fun _ => slotBad (m + 1) else slotBad m
  match bad with
  | some p => some { cause := cPOISON, info := p, addr := p, blame := .slot m }
  | none =>
    if (x.bank b).bad ∧ lo < rows then some { cause := cPOISON, info := 0x10 + b, blame := .bank b, empty := some b }
    else if ow then none
    else
      ((List.range ((x.bank b).n / 64)).findSome? fun t => (x.acc (a + t)).bad.find? fun p => decide (lo ≤ 32 * p / 256) && decide (32 * p / 256 < rows)).map
        fun p => { cause := cPOISON, info := 32 * p, addr := 32 * p, blame := .tile a }

/-- The parts of an MMA that its elements need. -/
structure MmaArgs where
  m : Nat
  b : Nat
  ct : Nat
  gen : Nat
  pair : Bool := true
  na : Bool := false
  nb : Bool := false
  rs : List W32 := []
  deriving DecidableEq, Repr

/-- One output element with its intermediates. -/
def Wg.mmaElem (x : Wg) (p : MmaArgs) (old : Option Nat) (i j : Nat) : Nat × Nat × List Nat :=
  let bk := x.bank p.b
  let fa := (((x.slot p.m).tag).map Prod.fst).getD 0
  let ta := (agetD {} x.cts p.ct : CodeTab)
  let tb := (agetD {} x.cts bk.ct : CodeTab)
  let lookup (t : CodeTab) (g k : Nat) : Nat := (cget 0 t.ent (256 * g + k)).toNat
  let prods (c : Nat) : List Num := (List.range 32).filterMap fun d =>
    let k := 32 * c + d
    (bk.elem (lookup tb bk.gen) k j).map fun be =>
      prodElem (negElem p.na (x.aElem (lookup ta p.gen) p.m fa p.pair i k)) (negElem p.nb be)
  outElem prods (p.rs.getD i 0x3F800000).toNat (cget 0x3F800000 bk.cs j).toNat old

/-- The product (R95, R230): every element of the rows from `lo` up to `rows`, flags gathered in its tile. -/
def Wg.mmaAll (x : Wg) (p : MmaArgs) (a rows : Nat) (ow : Bool) (lo : Nat := 0) : Wg :=
  let n := (x.bank p.b).n
  (List.range (n / 64)).foldl
    (fun z t =>
      let acc := x.acc (a + t)
      let r := ((List.range rows).drop lo).foldl
        (fun st i => (List.range 64).foldl
          (fun st c =>
            let old := if ow then none else some (cget 0 acc.el (64 * i + c)).toNat
            let (v, fl, _) := x.mmaElem p old i (64 * t + c)
            (cset 0 st.1 (64 * i + c) (BitVec.ofNat 32 v), st.2 ||| fl)) st)
        (acc.el, acc.flags)
      let new : Acc := { acc with el := r.1, flags := r.2, bad := acc.bad.filter fun q => !(decide (lo ≤ 32 * q / 256) && decide (32 * q / 256 < rows)) }
      { z with accs := aput z.accs (a + t) new }) x

/-! ### The operations -/

/-- Replace a workgroup. -/
def okWg (s : State) (w : WgId) (x : Wg) (fl : Nat := 0) : TRes := .ok (s.setWg w x) fl []

/-- LDSLOT (R224). -/
def State.runLdslot (s : State) (g : GrpId) (m sh o v : Nat) : TRes :=
  match (s.grid g.c).k.shape sh with
  | none => .wait
  | some r =>
    let w := recBits r.fmt
    let rows := min v r.rows
    match s.spBadElem g w (r.elems o rows r.cols) with
    | some b => .fail { cause := cPOISON, info := b, addr := b, blame := .own (.ldslot m sh o v) }
    | none =>
      let x := s.wg g.wg
      let sl := x.slot m
      let new := (List.range rows).foldl
        (fun c i =>
          let es := (List.range r.cols).map fun j => s.spElem g w (r.off + o + i * r.rstr + j * r.cstr)
          cset 0 c i (setBits (cget 0 c i) 0 (w * r.cols) (packRow w es))) sl.rows
      okWg s g.wg (x.putSlot m { sl with
        rows := new, tag := some (r.fmt, rows, r.cols), bad := sl.badLeft (rowPitch r.fmt) rows (w * r.cols) })

/-- STSLOT (R225). -/
def State.runStslot (s : State) (g : GrpId) (m sh o : Nat) : TRes :=
  match (s.grid g.c).k.shape sh with
  | none => .wait
  | some r =>
    let x := s.wg g.wg
    x.tagged m fun f rv cv =>
      if f ≠ r.fmt then .fail (formatFault m f)
      else
        let w := recBits f
        let rows := min rv r.rows
        let cols := min cv r.cols
        x.clean m f rows cols (.ok (s.spPutElems g w ((List.range rows).flatMap fun i => (List.range cols).map fun j =>
          (r.off + o + i * r.rstr + j * r.cstr, elemAt (x.slot m).rows w i j))) 0 [])

/-- TRANS (R226): the valid elements; what stands outside them reads as +0. -/
def State.runTrans (s : State) (g : GrpId) (m : Nat) : TRes :=
  let x := s.wg g.wg
  x.tagged m fun f rv cv =>
    if !transposable f then .fail (formatFault m f)
    else
      let sl := x.slot m
      let w := fmtBits f
      x.clean m f rv cv (okWg s g.wg (x.putSlot m { sl with
        tag := some (f, cv, rv)
        rows := (List.range cv).foldl
          (fun c i => cset 0 c i (packRow w ((List.range rv).map fun r => elemAt sl.rows w r i))) [] }))

/-- SCALE (R227): rne, SAT 0; its flags reach FFLAGS when it retires. -/
def State.runScale (s : State) (g : GrpId) (m : Nat) (col : Bool) (addr : Nat) : TRes :=
  let x := s.wg g.wg
  x.tagged m fun f rv cv =>
    if 0x0F < f then .fail (formatFault m f)
    else
      let (s1, v) := s.readVec g addr (if col then cv else rv)
      v.elim s1 addr fun vs =>
        let sl := x.slot m
        let w := fmtBits f
        let one (r c : Nat) : Nat × Nat :=
          let y := f32dec (vs.getD (if col then c else r) 0x3F800000).toNat
          fmtEncode f .rne false false (mulNum (fmtDecode (fun _ => 0) f (elemAt sl.rows w r c)) y)
        let rows := (List.range rv).map fun r => (r, (List.range cv).map (one r))
        let fl := rows.foldl (fun a x => x.2.foldl (fun a e => a ||| e.2) a) 0
        x.clean m f rv cv (okWg s1 g.wg
          ((s1.wg g.wg).putSlot m { sl with
            rows := rows.foldl (fun c x => cset 0 c x.1 (setBits (cget 0 c x.1) 0 (w * cv) (packRow w (x.2.map Prod.fst)))) sl.rows })
          fl)

/-- Whether a valid record of a sparse slot breaks P0 < P1 (R80). -/
def Slot.badRecord (x : Slot) (f rv cv : Nat) : Bool :=
  let w := fmtBits f
  (List.range rv).any fun r => (List.range cv).any fun c =>
    let e := elemAt x.rows (2 * w + 4) r c
    decide (e / 2 ^ (2 * w + 2) % 4 ≤ e / 2 ^ (2 * w) % 4)

/-- LDW (R228), with the generation `gen` of its code table that was current at its issue. -/
def State.runLdw (s : State) (g : GrpId) (b m ct gen : Nat) (t : Bool) (cs : Option Nat) : TRes :=
  let x := s.wg g.wg
  x.tagged m fun f rv cv =>
    if t && !transposable f then .fail (formatFault m f)
    else
      let sl := x.slot m
      let w := recBits f
      let cols := min (if t then rv else cv) (bankN f)
      x.clean m f rv cv
        (if fmtClass f = 4 ∧ sl.badRecord f rv cv then .fail { formatFault m f with empty := some b }
         else
          let (s1, v) := match cs with
            | none => (s, Vec.ok [])
            | some a => s.readVec g a cols
          v.elim s1 (cs.getD 0) fun vs =>
            let rows : Cells Nat := if t then
                (List.range cv).foldl (fun c k => cset 0 c k (packRow w ((List.range rv).map fun n => elemAt sl.rows w n k))) []
              else sl.rows
            let csv := (List.range vs.length).foldl (fun c i => cset 0x3F800000 c i (vs.getD i 0)) []
            let bk : Bank :=
              { loaded := true, fmt := f, n := bankN f, rv := if t then cv else rv, cv := if t then rv else cv, ct := ct,
                gen := gen, rows := rows, cs := csv, src := if t then none else some m }
            let y := s1.wg g.wg
            okWg s1 g.wg { y with banks := aput y.banks b bk })

/-- Rows `lo` up to `hi` of an MMA whose scales are read enter the array (R230). -/
def State.runMma (s : State) (g : GrpId) (a m b ct gen v : Nat) (na nb ow : Bool) (rs : List W32) (pair : Bool := true)
    (lo : Nat := 0) (hi : Nat := 128) : TRes :=
  let x := s.wg g.wg
  let top := min hi (vc v)
  match (if pair then x.mmaFault g.g a m b else none) with
  | some f => .fail f
  | none =>
    match x.mmaPoison a m b top ow lo with
    | some f => .fail f
    | none =>
      okWg s g.wg (x.mmaAll { m := m, b := b, ct := ct, gen := gen, pair := pair, na := na, nb := nb, rs := rs } a top ow lo)

/-- ALOAD (R232). -/
def State.runAload (s : State) (g : GrpId) (a sh o rnd : Nat) : TRes :=
  match (s.grid g.c).k.shape sh with
  | none => .wait
  | some r =>
    let w := recBits r.fmt
    match s.spBadElem g w (r.elems o r.rows r.cols) with
    | some b => .fail { cause := cPOISON, info := b, addr := b, blame := .own (.aload a sh o rnd) }
    | none =>
      let x := s.wg g.wg
      let acc := x.acc a
      let (el, fl) := (List.range r.rows).foldl
        (fun st i => (List.range r.cols).foldl
          (fun st j =>
            let e := s.spElem g w (r.off + o + i * r.rstr + j * r.cstr)
            let (v, fl) := ffF32.encode (Rnd.ofCode 0 rnd) false (fmtDecode (fun _ => 0) r.fmt e)
            (cset 0 st.1 (64 * i + j) (BitVec.ofNat 32 v), st.2 ||| fl)) st) (([] : Cells W32), 0)
      okWg s g.wg { x with accs := aput x.accs a { acc with el := el, flags := acc.flags ||| fl, bad := [] } }

/-- The first poisoned byte of `rows` rows of `n` bytes of a tile. -/
def Acc.badIn (x : Acc) (rows n : Nat) : Option Nat :=
  (x.bad.find? fun p => decide (32 * p / 256 < rows) && decide (32 * p % 256 < n)).map (32 * ·)

/-- The scratchpad form of ADRAIN (R233). -/
def State.runAdrainSp (s : State) (g : GrpId) (a sh o v f rnd : Nat) (sat : Bool) : TRes :=
  match (s.grid g.c).k.shape sh with
  | none => .wait
  | some r =>
    let acc := (s.wg g.wg).acc a
    let rows := min v r.rows
    match acc.badIn rows (4 * r.cols) with
    | some b => .fail { cause := cPOISON, info := b, addr := b, blame := .tile a }
    | none =>
      let xs := (List.range rows).flatMap fun i => (List.range r.cols).map fun j =>
        (r.off + o + i * r.rstr + j * r.cstr,
         fmtEncode f (Rnd.ofCode 0 rnd) sat false (f32dec (cget 0 acc.el (64 * i + j)).toNat))
      .ok (s.spPutElems g (recBits f) (xs.map fun x => (x.1, x.2.1))) (xs.foldl (fun fl x => fl ||| x.2.2) 0) []

/-- The register form of ADRAIN (R234). -/
def State.runAdrainReg (s : State) (g : GrpId) (a row vd f rnd : Nat) (sat : Bool) : TRes :=
  let acc := (s.wg g.wg).acc a
  match acc.bad.find? fun p => decide (32 * p / 256 = row) with
  | some p => .fail { cause := cPOISON, info := 32 * p, addr := 32 * p, blame := .tile a }
  | none =>
    let xs := (List.range 64).map fun j =>
      (32 * vd + j, fmtEncode f (Rnd.ofCode 0 rnd) sat false (f32dec (cget 0 acc.el (64 * row + j)).toNat))
    .ok s (xs.foldl (fun fl x => fl ||| x.2.2) 0) (xs.map fun x => (x.1, BitVec.ofNat 32 x.2.1))

/-- TBLW (R235). -/
def State.runTblw (s : State) (g : GrpId) (ct sh o : Nat) : TRes :=
  match (s.grid g.c).k.shape sh with
  | none => .wait
  | some r =>
    match s.spBadElem g 16 (r.elems o 1 r.cols) with
    | some b => .fail { cause := cPOISON, info := b, addr := b, blame := .own (.tblw ct sh o) }
    | none =>
      let x := s.wg g.wg
      let t := (agetD {} x.cts ct : CodeTab)
      let gen := 1 - t.cur
      let ent := (List.range 256).foldl
        (fun c i => cset 0 c (256 * gen + i)
          (if i < r.cols then BitVec.ofNat 16 (s.spElem g 16 (r.off + o + i * r.cstr)) else 0)) t.ent
      okWg s g.wg { x with cts := aput x.cts ct { cur := gen, ent := ent } }

/-- Step 2 of R247: rows of tile `a` converted and loaded into bank `b`; the tile's flags leave it. -/
def State.runRload (s : State) (g : GrpId) (a b f rnd : Nat) (sat : Bool) (rows : Nat) : TRes :=
  let x := s.wg g.wg
  let acc := x.acc a
  let w := fmtBits f
  let conv (i j : Nat) := fmtEncode f (Rnd.ofCode 0 rnd) sat false (f32dec (cget 0 acc.el (64 * i + j)).toNat)
  let fl := (List.range rows).foldl (fun fl i => (List.range 64).foldl (fun fl j => fl ||| (conv i j).2) fl) acc.flags
  let bk : Bank :=
    { loaded := true, fmt := f, n := bankN f, rv := rows, cv := 64, ct := (x.bank b).ct, gen := (x.bank b).gen
      rows := (List.range rows).foldl (fun c i => cset 0 c i (packRow w ((List.range 64).map fun j => (conv i j).1))) [] }
  okWg s g.wg { x with accs := aput x.accs a { acc with flags := 0 }, banks := aput x.banks b bk } fl

/-- The tag of a slot becomes none (R247). -/
def State.runUntag (s : State) (g : GrpId) (m : Nat) : TRes :=
  let x := s.wg g.wg
  okWg s g.wg (x.putSlot m { (x.slot m) with tag := none })

end Sys2Proof.Machine
end

