-- ==== Sys2Proof/Machine/Matrix.lean ====
section
/-!
DEFINITION. The matrix sequencer (R222, R223, R230, R235, R236, R245, R246, R253, R270): issue, the draw check, rows
in the array, retirement. An MMA acts row by row as its rows enter; any other command acts whole at its issue, and RASSOC
whole as it enters the array.
-/
namespace Sys2Proof.Machine

/-! ### Commands -/

/-- TLM number of the first origin: the name of a command. -/
def TileCmd.num (c : TileCmd) : Nat := (c.origins.map (·.num)).headD 0

def Group.cmd (y : Group) (n : Nat) : Option TileCmd := y.cmds.find? fun c => c.num == n
def Group.setCmd (y : Group) (c : TileCmd) : Group :=
  { y with cmds := y.cmds.map fun d => if d.num = c.num then c else d }
def State.setCmd (s : State) (g : GrpId) (c : TileCmd) : State := s.modGroup g fun y => y.setCmd c

/-- Whether every word that the origins name, other than the origins, has retired (R222, R246). -/
def Group.predsDone (y : Group) (c : TileCmd) : Bool :=
  let own := c.origins.map (·.num)
  (c.origins.flatMap (·.pd)).all fun n => own.contains n || !y.unretired.contains n

def TileOp.isMma : TileOp → Bool
  | .mma .. => true
  | _ => false

/-- Banks that the rows of a command carry. -/
def TileCmd.mmaBanks (c : TileCmd) : List Nat := c.ops.filterMap fun o => if o.isMma then o.bank else none

/-- Commands of a workgroup with rows in the array. -/
def State.inArray (s : State) (w : WgId) : List TileCmd :=
  (s.groupsOf w).flatMap fun g => (s.group g).cmds.filter fun c => c.st == .inArray

/-- A: the cost of the heaviest class with rows in the array; C: 3 while the copy engine runs (R269). -/
def State.arrayCost (s : State) (w : WgId) : Nat := (s.inArray w).foldl (fun a c => max a c.cost) 0
def Wg.engineRuns (x : Wg) : Bool := x.chits.any fun c => c.started && !c.finished && !c.drawHeld
def Wg.engineCost (x : Wg) : Nat := if x.engineRuns then 3 else 0

/-- Whether DRAWN covers the first row of a command of this cost (R270). -/
def State.drawCovers (s : State) (w : WgId) (cost : Nat) : Bool :=
  decide (max (s.arrayCost w) cost + (s.wg w).engineCost ≤ (s.wg w).drawn)

/-- The class cost of an MMA with the formats that stand (R3, R53). -/
def Wg.mmaCost (x : Wg) : TileOp → Nat
  | .mma _ m b .. => rateCost ((((x.slot m).tag).map Prod.fst).getD 0) (x.bank b).fmt
  | _ => 0

/-- Whether an MMA of a command reads code table `ct`. -/
def TileCmd.readsTable (c : TileCmd) (ct : Nat) : Bool :=
  c.ops.any fun o => match o with
    | .mma _ _ _ t .. => t == ct
    | _ => false

/-- Whether the generation that is not current of a code table is in use: a Loaded bank latches it, or an issued MMA that
has not retired reads it (R235). -/
def State.genBusy (s : State) (w : WgId) (ct : Nat) : Bool :=
  let x := s.wg w
  let other := 1 - (agetD {} x.cts ct).cur
  x.banks.any (fun b => b.2.loaded && b.2.ct == ct && b.2.gen == other) ||
    (s.groupsOf w).any fun g => (s.group g).cmds.any fun c => c.readsTable ct && c.gens.any fun z => z.1 == ct && z.2 == other

/-- Generations that a command takes as it issues (R35, R228, R230): of the table that an LDW names, and of the tables of
codebook A operands of an MMA. -/
def Wg.latch (x : Wg) (c : TileCmd) : Assoc Nat Nat :=
  let cur (ct : Nat) : Nat × Nat := (ct, (agetD {} x.cts ct).cur)
  c.ops.filterMap fun o => match o with
    | .mma _ m _ ct .. =>
      let f := (((x.slot m).tag).map Prod.fst).getD 0
      if 0x18 ≤ f ∧ f ≤ 0x1B then some (cur ct) else none
    | .ldw _ _ ct .. => some (cur ct)
    | _ => none

/-! ### Running -/

/-- One operation; an MMA takes the next of the row scales already read, and enters rows `lo` up to `hi`. -/
def State.runOp (s : State) (g : GrpId) (gens : Assoc Nat Nat) (rs : List W32) (single : Bool) (lo : Nat := 0) (hi : Nat := 128) :
    TileOp → TRes
  | .ldslot m sh o v => s.runLdslot g m sh o v
  | .stslot m sh o => s.runStslot g m sh o
  | .trans m => s.runTrans g m
  | .scale m col a => s.runScale g m col a
  | .ldw b m ct t cs => s.runLdw g b m ct (agetD (agetD {} (s.wg g.wg).cts ct).cur gens ct) t cs
  | .mma a m b ct v na nb ow _ =>
    s.runMma g a m b ct (agetD (agetD {} (s.wg g.wg).cts ct).cur gens ct) v na nb ow rs (!single) lo hi
  | .aload a sh o rnd => s.runAload g a sh o rnd
  | .adrainSp a sh o v f rnd sat => s.runAdrainSp g a sh o v f rnd sat
  | .adrainReg a row vd f rnd sat => s.runAdrainReg g a row vd f rnd sat
  | .tblw ct sh o => s.runTblw g ct sh o
  | .rload a b f rnd sat rows => s.runRload g a b f rnd sat rows
  | .untag m => s.runUntag g m

/-- Operations in order, flags ORed; a failure leaves nothing of them. The first MMA of RASSOC takes one slot. -/
def State.runOps (s : State) (g : GrpId) (gens : Assoc Nat Nat) (single : Bool) (lo : Nat := 0) (hi : Nat := 128) :
    List TileOp → List (List W32) → TRes
  | [], _ => .ok s 0 []
  | o :: l, rs =>
    let rest := if o.isMma then rs.tail else rs
    match s.runOp g gens (if o.isMma then rs.headD [] else []) single lo hi o with
    | .ok s1 f1 v1 =>
      (match s1.runOps g gens false lo hi l rest with
       | .ok s2 f2 v2 => .ok s2 (f1 ||| f2) (v1 ++ v2)
       | r => r)
    | r => r

/-- Row scales of the MMAs of a command (R230). -/
def State.readScales (s : State) (g : GrpId) : List TileOp → State × Except TRes (List (List W32))
  | [] => (s, .ok [])
  | o :: l =>
    match o with
    | .mma _ _ _ _ v _ _ _ rs =>
      let (s1, x) := match rs with
        | none => (s, Vec.ok [])
        | some a => s.readVec g a (vc v)
      (match x with
       | .ok xs =>
         (match s1.readScales g l with
          | (s2, .ok r) => (s2, .ok (xs :: r))
          | r => r)
       | v => (s1, .error (v.elim s1 (rs.getD 0) fun _ => .wait)))
    | _ => s.readScales g l

/-! ### Failure (R238, R253, R313) -/

/-- Whether an origin names what a failure is attributed to. -/
def Blame.names (x : Wg) (b : Blame) (op : TileOp) : Bool :=
  match b with
  | .slot m => (op.slotsOf x).contains m
  | .bank k => op.bank == some k
  | .tile a => (op.accsIn x.pred).contains a
  | .vec v => op.vec == some v
  | .own o => o == op

/-- The report of a failure. -/
def State.tileReport (s : State) (g : GrpId) (c : TileCmd) (f : TFault) (cause : Nat) : Report :=
  let x := s.wg g.wg
  let idx := (List.range c.origins.length).filter fun i => f.blame.names x (c.origins.getD i {}).op
  let idx := if idx = [] then [0] else idx
  let o := c.origins.getD (idx.headD 0) {}
  { fr := { cause := cause, level := 0, grp := g.g, lanes := 0xFFFFFFFF, waddr := o.waddr, info := f.info, rgn := o.rgn,
            tln := o.num, saddr := o.saddr, x0 := if c.move = 0 then 0 else maskOf 4 idx,
            x1 := if c.move = 0 then 0 else c.origins.length }
    snap := [o.sva, o.sval, o.soff, f.addr]
    origins := if c.move = 0 then [] else c.origins.map fun o => (o.num, o.waddr)
    key := .tile o.num }

/-- A command fails: it will retire with a report, with no effect on a destination (R238). -/
def State.failCmd (s : State) (g : GrpId) (c : TileCmd) (f : TFault) : State :=
  let r := s.tileReport g c f (0x80 + f.cause)
  let s1 := s.setCmd g { c with st := .done, report := some r }
  match f.empty with
  | some b => s1.modWg g.wg fun x => { x with banks := aput x.banks b {} }
  | none => s1

/-- A command waits for page service (R238). -/
def State.holdCmd (s : State) (g : GrpId) (c : TileCmd) (va : Nat) : State :=
  let (h, s1) := s.hold { who := .tile g c.num, va := va, asid := (s.space g.stream).asid, kind := .read, ctx := g.c }
  s1.setCmd g { c with hold := some h }

/-- The SCALE that SROW, SROWP, SCOL and SCOLP issue as written (R244). -/
def TileCmd.tail (c : TileCmd) : List TileOp := if 0x06 ≤ c.move ∧ c.move ≤ 0x09 then c.ops.drop 1 else []
/-- The operations of a command without it. -/
def TileCmd.main (c : TileCmd) : List TileOp := if 0x06 ≤ c.move ∧ c.move ≤ 0x09 then c.ops.take 1 else c.ops

/-- Run a command whole, but for a SCALE issued as written. -/
def State.runCmd (s : State) (g : GrpId) (c : TileCmd) (st : CmdSt) : State :=
  match s.runOps g c.gens (c.move == 0x0B) 0 128 c.main c.rs with
  | .ok s1 f1 vals => s1.setCmd g { c with st := st, flags := f1, vals := vals }
  | .fail f => s.failCmd g c f
  | .page _ va => s.holdCmd g c va
  | .wait => s

/-- The SCALE issued as written is a command of its own, with a list of one origin, once the other has taken effect: when it
fails, the effects of the first stand (R244, R253). -/
def State.runTail (s : State) (g : GrpId) (c : TileCmd) : State :=
  let own : TileCmd := { c with origins := c.origins.take 1 }
  match s.runOps g c.gens false 0 128 c.tail [] with
  | .ok s1 f1 _ => s1.setCmd g { c with ops := c.main, flags := c.flags ||| f1 }
  | .fail f => s.setCmd g { c with ops := c.main, report := some (s.tileReport g own f (0x80 + f.cause)) }
  | .page _ va => s.holdCmd g c va
  | .wait => s

/-- A command with MMAs enters the array: its rows follow (R230, R388), or it is RASSOC and runs whole. -/
def State.enterArray (s : State) (g : GrpId) (c : TileCmd) : State :=
  let c1 := { c with bank := c.mmaBanks }
  let x := s.wg g.wg
  let tiles := (c.ops.flatMap fun o => o.accsIn x.pred).eraseDups
  if c.move = 0x0B then s.runCmd g c1 .inArray
  else s.setCmd g { c1 with st := .inArray, undo := tiles.map fun a => (a, x.acc a) }

/-- Rows of an MMA in the array enter. One that meets poison, or a bank in error, fails: no tile keeps an effect of it
(R230, R416, R417). -/
def State.enterRows (s : State) (g : GrpId) (c : TileCmd) (rows : Nat) : State :=
  let hi := min 128 (c.cursor + rows)
  let c1 := { c with cursor := hi }
  if c.move = 0x0B then s.setCmd g c1
  else
    match s.runOps g c.gens false c.cursor hi c.main c.rs with
    | .ok s1 _ _ => s1.setCmd g c1
    | .fail f => (s.modWg g.wg fun x => { x with accs := c.undo.foldl (fun m u => aput m u.1 u.2) x.accs }).failCmd g c1 f
    | _ => s

/-! ### Class F (R245) -/

/-- An f32 code that is a positive power of two; a normal finite nonzero one. -/
def isPow2 (c : Nat) : Bool :=
  match f32dec c with
  | .fin d => !d.neg && d.m != 0 && d.m == 2 ^ (len d.m - 1)
  | _ => false
def isNormal (c : Nat) : Bool := let e := c / 2 ^ 23 % 256; 0 < e && e < 255
def isPlain (c : Nat) : Bool := match f32dec c with | .fin d => d.m != 0 | _ => false

/-- Whether a finite nonzero f32 value and its product with a scale are normal. -/
def normalUnder (scale v : Nat) : Bool :=
  !isPlain v || (isNormal v && isNormal (f32op (mulNum (f32dec v) (f32dec scale))).1)

/-- Whether SCALE words of a command produce only exact elements: no rounding flag. -/
def State.scalesExact (s : State) (g : GrpId) (ops : List TileOp) : TRes :=
  s.runOps g [] false 0 128 (ops.filter fun o => match o with | .scale .. => true | _ => false) []

/-- The identity conditions of a class F replacement: none when they hold, a state when a PAGE or a failure comes
first. -/
def State.identityHolds (s : State) (g : GrpId) (c : TileCmd) : Except TRes Bool :=
  let x := s.wg g.wg
  let vecs : List (Nat × Bool × Vec) := c.ops.filterMap fun o => match o with
    | .scale m col a =>
      ((x.slot m).tag).map fun t => (m, col, (s.readVec g a (if col then t.2.2 else t.2.1)).2)
    | _ => none
  let pow := vecs.all fun v => match v.2.2 with | .ok xs => xs.all (fun e => isPow2 e.toNat) | _ => true
  match s.scalesExact g c.ops with
  | .ok _ fl _ =>
    let exact := fl &&& (fNX + fOF + fUF) == 0
    let vec (i : Nat) : List W32 := match vecs[i]? with | some (_, _, .ok xs) => xs | _ => []
    let inter : Bool := match c.move, c.ops with
      | 0x07, [_, .mma a m b ct v na nb ow _] =>
        let p : MmaArgs :=
          { m := m, b := b, ct := ct, gen := agetD (agetD {} x.cts ct).cur c.gens ct, na := na, nb := nb, rs := vec 0 }
        (List.range (vc v)).all fun i => (List.range (x.bank b).n).all fun j =>
          let old := if ow then none else some (cget 0 (x.acc (a + j / 64)).el (64 * i + j % 64)).toNat
          (x.mmaElem p old i j).2.2.all (normalUnder ((vec 0).getD i 0x3F800000).toNat)
      | 0x0A, _ =>
        (List.range (vec 0).length).all fun i =>
          normalUnder 0x3F800000 (f32op (mulNum (f32dec ((vec 0).getD i 0).toNat) (f32dec ((vec 1).getD i 0).toNat))).1
      | _, _ => true
    .ok (pow && exact && inter)
  | r => .error r

/-- Dissolve a replacement: its origins issue as written in TLM order (R245). -/
def State.dissolve (s : State) (g : GrpId) (c : TileCmd) : State :=
  s.modGroup g fun y => { y with cmds := y.cmds.flatMap fun d =>
    if d.num = c.num then c.origins.map fun o => { origins := [o], ops := [o.op], st := .decided, dissolved := c.num } else [d] }

/-- Whether an earlier origin of the same dissolved replacement has still to issue (R245). -/
def Group.behindOrigin (y : Group) (c : TileCmd) : Bool :=
  c.dissolved != 0 && y.cmds.any fun d => d.dissolved == c.dissolved && decide (d.num < c.num) && d.st == .decided

/-! ### Issue -/

/-- A draw stall counts on the workgroup sequencer (R274). -/
def State.slipWg (s : State) (w : WgId) : State := s.modSeq (.wg w.c w.w) fun q => { q with slip := q.slip + 1 }

/-- The draw check of a command with MMA rows: it enters the array, waits as a draw stall, or can never be covered
(R270). One that arrives covered does not pass an engine that waits at its check: R270 speaks of the two waiting (log entry
68). -/
def State.drawCheck (s : State) (g : GrpId) (c : TileCmd) : State :=
  let x := s.wg g.wg
  let cost := c.ops.foldl (fun a o => max a (x.mmaCost o)) 0
  if (s.grid g.c).dgrant < cost then
    s.failCmd g c { cause := cDRAW, info := cost, blame := .own ((c.ops.find? TileOp.isMma).getD (.trans 0)) }
  else
    let c1 := { c with cost := cost }
    let s := (s.ordered g.c (.check g.w (some (g.g, c.num)))).getD s
    if x.drawWait = [] ∧ s.drawCovers g.wg cost then s.enterArray g c1
    else
      ((s.modWg g.wg fun x => { x with drawWait := x.drawWait ++ [some (g.g, c.num)] }).slipWg g.wg).setCmd g
        { c1 with st := .drawWait }

/-- Whether a command must wait before it runs: a chit writes a slot it names (R236), rows carry a bank it loads (R229),
another MMA's rows are entering (R231), or rows that enter use a slot or tile that it names: then no outcome differs from
that of whole commands in some order (R222). -/
def State.issueBlocked (s : State) (g : GrpId) (c : TileCmd) : Bool :=
  let x := s.wg g.wg
  let arr := s.inArray g.wg
  let loads := c.ops.filterMap fun o => match o with
    | .ldw b .. | .rload _ b .. => some b
    | _ => none
  (c.allOps.any fun o => (o.slotsOf x).any x.chitSlots.contains) ||
    (arr.any fun d => d.bank.any loads.contains) ||
    (c.mmaBanks != [] && arr.any fun d => decide (d.cursor < 128)) ||
    arr.any fun d => decide (d.cursor < 128) && d.ops.any fun p => c.allOps.any fun o =>
      (p.slotsOf x).any (o.slotsOf x).contains || (p.accsIn x.pred).any (o.accsIn x.pred).contains

/-- A command that may run now: an MMA reads its scales and meets the draw check, where a re-run lets it arrive as
captured (R424), a TBLW its generation (R230, R235, R270). -/
def State.startCmd (s : State) (g : GrpId) (c : TileCmd) : State :=
  let x := s.wg g.wg
  match c.ops with
  | [.tblw ct _ _] => if s.genBusy g.wg ct then s.setCmd g { c with st := .genWait } else s.runCmd g c .done
  | _ =>
    if c.mmaBanks = [] then s.runCmd g c .done
    else if !s.mayInput g.c (.check g.w (some (g.g, c.num))) then s
    else
      let early : Option TFault := match c.ops with
        | .mma a m b .. :: _ => if c.move = 0x0B then none else x.mmaFault g.g a m b
        | _ => none
      match early with
      | some f => s.failCmd g c f
      | none =>
        match s.readScales g c.ops with
        | (s1, .ok rs) => s1.drawCheck g { c with rs := rs }
        | (_, .error (.fail f)) => s.failCmd g c f
        | (_, .error (.page _ va)) => s.holdCmd g c va
        | _ => s

/-- The matrix sequencer issues command `n` once its predecessors have retired (R222); one that a PAGE held goes on after
service. An undecided one counts a slip of the group (R274). -/
def execMatrixIssue (c w g n : Nat) (s : State) : Out :=
  let q : GrpId := ⟨c, w, g⟩
  let y := s.group q
  match y.cmd n with
  | none => .next s
  | some k =>
    if (s.wg q.wg).place ≠ .resident ∨ !y.predsDone k ∨ k.hold.isSome then .next s
    else if k.st = .undecided then
      .next (if k.slipped then s else (s.modSeq q.stream fun z => { z with slip := z.slip + 1 }).setCmd q { k with slipped := true })
    else if k.st ≠ .decided ∧ k.st ≠ .issued ∨ s.issueBlocked q k ∨ y.behindOrigin k then .next s
    else
      let k1 := if k.st = .issued then k else { k with st := .issued, gens := (s.wg q.wg).latch k }
      let s1 := s.setCmd q k1
      if moveClass k.move = 1 then
        match s1.identityHolds q k1 with
        | .ok true => .next (s1.startCmd q k1)
        | .ok false => .next (s1.dissolve q k1)
        | .error (.page _ va) => .next (s1.holdCmd q k1 va)
        | .error (.fail f) => .next (s1.failCmd q k1 f)
        | .error _ => .next s1
      else .next (s1.startCmd q k1)

/-- Rows enter the array, each computed as it enters (R388): the first once DRAWN covers it and it is the first in the draw
check's order, then in order (R230, R231, R270). -/
def execMmaRowEntry (c w g n rows : Nat) (s : State) : Out :=
  let q : GrpId := ⟨c, w, g⟩
  let x := s.wg q.wg
  match (s.group q).cmd n with
  | none => .next s
  | some k =>
    if x.place ≠ .resident then .next s
    else if k.st = .inArray then .next (s.enterRows q k rows)
    else if k.st = .drawWait ∧ x.drawWait.head? = some (some (g, n)) ∧ s.drawCovers q.wg k.cost ∧ !s.issueBlocked q k then
      let s1 := (s.modWg q.wg fun x => { x with drawWait := x.drawWait.tail }).enterArray q k
      .next (match (s1.group q).cmd n with
        | some k1 => if k1.st = .inArray then s1.enterRows q k1 rows else s1
        | none => s1)
    else .next s

/-- A TBLW goes on when the generation that is not current is free (R235). -/
def execTblwGenerationFree (c w g n : Nat) (s : State) : Out :=
  let q : GrpId := ⟨c, w, g⟩
  match (s.group q).cmd n with
  | some k =>
    (match k.st, k.ops with
     | .genWait, [.tblw ct _ _] =>
       if (s.wg q.wg).place ≠ .resident ∨ s.genBusy q.wg ct then .next s else .next (s.runCmd q k .done)
     | _, _ => .next s)
  | none => .next s

/-- Flags of tiles that a draining command reads reach FFLAGS and leave the tile (R43, R233). -/
def State.takeTileFlags (s : State) (g : GrpId) : List TileOp → State × Nat
  | [] => (s, 0)
  | o :: l =>
    match o with
    | .adrainSp a .. | .adrainReg a .. =>
      let f := ((s.wg g.wg).acc a).flags
      let (s1, r) := (s.modWg g.wg fun x => { x with accs := aput x.accs a { (x.acc a) with flags := 0 } }).takeTileFlags g l
      (s1, f ||| r)
    | _ => s.takeTileFlags g l

/-- A command leaves the window, and the words of its origins are no longer outstanding. -/
def Group.dropCmd (y : Group) (c : TileCmd) : Group :=
  let own := c.origins.map (·.num)
  let isOwn (o : Outst) : Bool := match o.kind with
    | .tile k => own.contains k
    | _ => false
  { y with cmds := y.cmds.filter fun d => d.num != c.num
           frags := y.frags.map fun f => { f with out := f.out.filter fun o => !isOwn o } }

/-- A command retires once its effects have taken place (R223), a SCALE issued as written among them: vector registers and flags are written, or its failure
is queued as a report, for which it waits while eight are held (R312). -/
def execCommandRetire (c w g n : Nat) (s : State) : Out :=
  let q : GrpId := ⟨c, w, g⟩
  match (s.group q).cmd n with
  | none => .next s
  | some k =>
    if (s.wg q.wg).place ≠ .resident ∨ k.hold.isSome then .next s
    else if k.st = .done ∨ (k.st = .inArray ∧ 128 ≤ k.cursor) then
      if k.report.isNone ∧ k.tail ≠ [] then .next (s.runTail q k)
      else match k.report with
      | some r =>
        (match s.queueReport q r with
         | some s1 => .next (s1.modGroup q fun y => y.dropCmd k)
         | none => .next s)
      | none =>
        let (s1, tf) := s.takeTileFlags q k.ops
        .next (s1.modGroup q fun y => ((y.setV k.vals).orFlags (k.flags ||| tf)).dropCmd k)
    else .next s

end Sys2Proof.Machine
end

