-- ==== Sys2Proof/Machine/Chit.lean ====
section
/-!
DEFINITION. The copy engine (R194 to R210, R236, R270, R313, R437): recording NOTIFY, consuming ring entries, chits.
-/
namespace Sys2Proof.Machine

/-! ### Reports of chits (R209, R313, R434) -/

/-- FAULT record, snapshot and key of a chit's deferred report. `batch` is the batch it is tied to. -/
def chitReport (grp cause info idx bits batch : Nat) (te : Bool) (remote : Option Nat) (p : Pub) : Report :=
  let named := cause == cCHIT || cause == cLAYOUT || cause == cXFAB
  { fr := { cause := 0x80 + cause, level := p.level, grp := grp, waddr := p.waddr, info := info, rgn := p.rgn, tln := batch,
            saddr := p.saddr, x0 := if named then idx else 0, x1 := if named then bits % 2 ^ 64 else 0 }
    snap := (List.range 4).map fun i => bits / 2 ^ (64 * i) % 2 ^ 64
    key := .chit batch te (Sys2Proof.bits bits 21 16) remote }

/-- The report of a failure of a chit. -/
def State.chitFail (s : State) (w : WgId) (c : Chit) (cause info : Nat) : Report :=
  let y := s.group ⟨w.c, w.w, c.grp⟩
  chitReport c.grp cause info c.idx c.bits (y.batchOf c.idx) (natBit c.bits 22 && !c.untagged) c.remote c.pub

/-! ### NOTIFY (R199, R200) -/

/-- The scope at which a word that stores to NOTIFY acquires once it is recorded (R128, R185). -/
def State.notifyAcq (s : State) (x : Notify) : Option Nat :=
  match laneCode x.entry.word with
  | some (_, _, w) =>
    if ordAcq (w.mod.toNat / 4) then some (s.laneScope (s.grpId x.who) w [cget 0 x.entry.ops (96 + x.lane.getD 0)]) else none
  | none => acqOf x.entry.word

/-- Complete the word that stored to NOTIFY: the old value reaches the register of an atomic, and a word that acquires
does so once its last lane is recorded. A word that RESUME .rg or a kill has discarded writes nothing. -/
def State.notifyDone (s : State) (x : Notify) (old : Nat) : State :=
  let mine (o : Outst) : Bool := o.kind == .notify x.hid
  let g := s.grpId x.who
  let w := g.wg
  let done (s : State) : State :=
    let more := (s.wg w).notifyQ.any fun z => z.who == x.who && z.waddr == x.waddr
    match s.notifyAcq x with
    | some sc => if more then s else s.acquire g sc
    | none => s
  match x.who with
  | .lane _ _ _ _ =>
    if !((s.group g).frags.any fun f => f.out.any mine) then s
    else
      done (s.modGroup g fun y =>
        let y1 : Group := { y with frags := y.frags.map fun f => { f with out := f.out.filter fun o => !mine o } }
        match x.dst, x.lane with
        | some d, some j => y1.setV (resultV (if x.size = 8 then 7 else 14) d j old)
        | _, _ => y1)
  | a =>
    if !(s.seq a).out.any mine then s
    else done ((s.modSeq a fun q => q.finish (fun k => k == .notify x.hid) x.dst old).know a ((x.dst.map RegRef.s).toList) s.clock)

/-- Whether an outstanding word is of another address than a NOTIFY word's: a precise fault of that word waits for it. -/
def Notify.earlier (x : Notify) (o : Outst) : Bool := o.pc != x.waddr

/-- RESERVE (R200): precise at the storing lane or word, which performs nothing, once every earlier word of the stream has
completed (R299) and the operand log has room (R192); `s0` is the state in which it waits. A lane splits off with its part
of the word (R191); nothing of the word is outstanding any more for the stream or fragment that takes the fault, which
issues it again (R17). -/
def State.notifyReserve (s0 s : State) (x : Notify) (v p : Nat) : State :=
  let h := s.nextHandle
  let s1 : State := { s with nextHandle := h + 1 }
  let mine (o : Outst) : Bool := o.kind == .notify x.hid
  let full := 4 ≤ (s.group (s.grpId x.who)).log.length
  match x.who, x.lane with
  | .lane c w gi _, some j =>
    let g : GrpId := ⟨c, w, gi⟩
    let y := s1.group g
    match y.frags.find? fun f => f.out.any mine with
    | none => s
    | some f =>
      if f.out.any x.earlier then s0.demand g
      else if full then s0
      else
      let bit : W32 := BitVec.ofNat 32 (2 ^ j)
      let alone := f.lanes &&& ~~~bit = 0
      let nf := if alone then f.fid else y.nextId
      let keep := if alone then f.out.filter x.earlier else (f.out.filter fun o => !mine o).map (·.part (~~~bit))
      let unarrive (l : Level) : Level := if f.st = .waiting ∧ f.level = some l.lid then { l with arrived := l.arrived &&& ~~~bit } else l
      let y1 : Group := if alone then
          y.modFrag f.fid fun z => { z with pc := x.waddr, st := .asleep, out := keep, fault := z.split.isNone }
        else { y with
          nextId := y.nextId + 1
          frags := (y.modFrag f.fid fun z => { z with lanes := z.lanes &&& ~~~bit, out := keep }).frags ++
            [{ f with fid := nf, lanes := bit, pc := x.waddr, st := .asleep, out := [], split := some f.fid, fault := false }] }
      let y2 : Group := { y1 with
        levels := y1.levels.map unarrive, log := y1.log ++ [{ x.entry with handle := h, frag := some nf }] }
      let s2 := s1.setGroup g y2
      let r : FaultRec := { s2.record (g.lane nf) cRESERVE v p 0 with lanes := 2 ^ j, waddr := x.waddr }
      (s2.takeFault (g.lane nf) r).refill g
  | a, _ =>
    if (s.seq a).out.all (fun o => !mine o) then s
    else if full ∨ (s.seq a).out.any x.earlier then s0
    else
    let s2 := (s1.addLog (s1.grpId a) { x.entry with handle := h }).modSeq a fun q =>
      { q with out := q.out.filter x.earlier, pc := x.waddr }
    s2.takeFault a { s2.record a cRESERVE v p 0 with waddr := x.waddr }

/-- What a store or atomic would leave in the bytes it writes, and the old value of those bytes. -/
def Notify.effect (x : Notify) (now : Nat) : Nat × Nat :=
  let old := now / 256 ^ x.off % 2 ^ (8 * x.size)
  match x.aop with
  | none => (x.opnd % 2 ^ (8 * x.size), old)
  | some op =>
    -- for CAS a scalar word compares `opnd` and stores `cmp`, a lane word the other way round (R128, R186)
    let swap := op == 9 && x.lane.isNone
    (if swap then (if old = x.opnd % 2 ^ (8 * x.size) then x.cmp % 2 ^ (8 * x.size) else old)
     else atomicNew op (8 * x.size) x.ty old (x.opnd % 2 ^ (8 * x.size)) x.cmp, old)

/-- The engine records the next store to NOTIFY: malformed with a report and no effect, refused by RESERVE, or as the END
of its group (R199, R200). -/
def State.recordNotify (s : State) (wi : WgId) : State :=
  let x := s.wg wi
  match x.notifyQ with
  | [] => s
  | n :: l =>
    let k := (s.grid wi.c).k
    let (v, old) := n.effect x.notify
    let e := v % 2 ^ 48
    let grp := bits v 51 48
    let full := n.size == 8 && n.off == 0
    let by' := s.grpId n.who
    let pub (e : Nat) : Pub :=
      { e := e, grp := by'.g, level := if n.lane.isSome then 0 else 1, waddr := n.waddr, saddr := n.saddr,
        rgn := (s.group by').rgn.toNat }
    let reserve := ofBytes (s.spBytes wi k.scratch 8)
    let s1 := s.setWg wi { x with notifyQ := l }
    if !full ∨ bits v 63 52 ≠ 0 ∨ reserve < e ∨ k.groups ≤ grp then
      let tgt : GrpId := if full ∧ grp < k.groups then ⟨wi.c, wi.w, grp⟩ else by'
      let r := chitReport tgt.g cCHIT 0x08 e 0 ((s.group tgt).sealed + 1) false none (pub e)
      match s1.queueReport tgt r with
      | some s2 => s2.notifyDone n old
      | none => s
    else
      let top := (List.range k.groups).foldl (fun m g => max m (cget 0 x.ends g)) 0
      let new := max top e
      let p := (new - x.cons) + (x.chits.filter fun q => q.idx < new).length
      if k.copyq < p then s.notifyReserve s1 n v p
      else
        let s2 := s1.modWg wi fun x => { x with
          notify := v, ends := cset 0 x.ends grp (max (cget 0 x.ends grp) e)
          pubs := if top < new then x.pubs ++ [pub new] else x.pubs }
        s2.notifyDone n old

def execNotifyRecord (c w : Nat) (s : State) : Out :=
  .next (if (s.wg ⟨c, w⟩).place = .resident then s.recordNotify ⟨c, w⟩ else s)

/-! ### Consuming (R199) -/

/-- The engine reads the entry at CONS: it is consumed, was overwritten, or is not written yet. -/
def execEntryConsume (c w : Nat) (s : State) : Out :=
  let wi : WgId := ⟨c, w⟩
  let x := s.wg wi
  let k := (s.grid c).k
  let top := (List.range k.groups).foldl (fun m g => max m (cget 0 x.ends g)) 0
  if x.place ≠ .resident ∨ k.ring = 0 ∨ top ≤ x.cons then .next s
  else
    let off := k.scratch + 128 + 32 * (x.cons % k.ring)
    let b := ofBytes (s.spBytes wi off 32)
    let lap := (x.cons / k.ring + 1) % 256
    let pub := (x.pubs.find? fun p => x.cons < p.e).getD {}
    let grp := if bits b 15 12 < k.groups then bits b 15 12 else pub.grp
    let late := bits b 7 0 == (lap + 1) % 256
    if bits b 7 0 ≠ lap ∧ !late then .next s
    else
      let remote := !late && (bits b 11 8 == 6 || bits b 11 8 == 7)
      let q : Chit :=
        { idx := x.cons, bits := b, grp := grp, pub := pub, remote := if remote then some x.remotes else none
          started := late, finished := late, untagged := late }
      let q := if late then { q with report := some (s.chitFail wi q cCHIT 0x09) } else q
      let q := match s.spPoisonAt wi off 32 with
        | some p => if late then q else { q with started := true, finished := true, report := some (s.chitFail wi q cPOISON p) }
        | none => q
      .next (s.setWg wi { x with
        cons := x.cons + 1, chits := x.chits ++ [q], remotes := if remote then x.remotes + 1 else x.remotes
        pubs := x.pubs.filter fun p => x.cons + 1 < p.e })

/-! ### Layout records (R202, R203) -/

def layDim (l k : Nat) : Nat := bits l (95 + 32 * k) (64 + 32 * k)
def layStr (l k : Nat) : Nat := if k = 0 then 0 else bits l (255 + 48 * k) (208 + 48 * k)
def layNdim (l : Nat) : Nat := bits l 482 480
def layTh (l : Nat) : Nat := bits l 479 464
def layTw (l : Nat) : Nat := bits l 463 448
def layFmt (l : Nat) : Nat := bits l 61 57
def layW (l : Nat) : Nat := fmtBits (layFmt l)
def layFill (l : Nat) : Nat := bits l 255 224 % 2 ^ layW l
/-- RB: bytes of a packed row. -/
def layRb (l : Nat) : Nat := layTw l * layW l / 8

/-- A record that R202 calls malformed; its reserved field is ignored (R7). -/
def layBad (l : Nat) : Bool :=
  let n := layNdim l
  n == 0 || decide (5 < n) || bits l 63 62 == 3 ||
    (List.range 5).any (fun k => decide (n ≤ k) && (layDim l k != 0 || layStr l k != 0)) ||
    layTh l == 0 || layTw l == 0 || layTw l * layW l % 8 != 0 || decide (0x1C ≤ layFmt l)

/-- Origins of a chit by dimension (R197). -/
def Chit.origin (c : Chit) : List Int :=
  let b := Sys2Proof.bits c.bits
  [sintN 32 (b 95 64), sintN 32 (b 127 96), sintN 16 (b 143 128), sintN 16 (b 159 144), sintN 16 (b 175 160)]

/-- Origins at the destination of g2g, rput and rred (R205). -/
def Chit.origin2 (c : Chit) : List Int :=
  let b := Sys2Proof.bits c.bits
  [sintN 32 (b 223 192), sintN 32 (b 255 224)] ++ c.origin.drop 2

def Chit.opc (c : Chit) : Nat := Sys2Proof.bits c.bits 11 8
/-- Rows read and written (R204). -/
def Chit.rows (c : Chit) : Nat := min (Sys2Proof.bits c.bits 48 40) (layTh c.lay)

/-- Whether row `r` of a tile with this origin is in bounds in every dimension but the first (R203). -/
def rowIn (l : Nat) (o : List Int) (r : Nat) : Bool :=
  (List.range 5).all fun k =>
    let x := o.getD k 0 + (if k = 1 then (r : Int) else 0)
    k == 0 || (if k < layNdim l then decide (0 ≤ x) && decide (x < layDim l k) else x == 0)

/-- Columns `[lo, hi)` of `[c0, c1)` that are in bounds in dimension 0. -/
def colsIn (l : Nat) (o : List Int) (r c0 c1 : Nat) : Nat × Nat :=
  if !rowIn l o r then (c0, c0)
  else
    let x0 := o.getD 0 0
    let lo := max c0 (-x0).toNat
    let hi := min c1 ((layDim l 0 : Int) - x0).toNat
    if lo < hi then (lo, hi) else (c0, c0)

/-- Bit address of element (c, r) of an in-bounds position. -/
def elemBit (l : Nat) (o : List Int) (r c : Nat) : Nat :=
  let row : Int := (bits l 56 0 : Nat) + (List.range 5).foldl
    (fun a k => a + (layStr l k : Int) * (o.getD k 0 + (if k = 1 then (r : Int) else 0))) 0
  8 * row.toNat + layW l * (o.getD 0 0 + c).toNat

/-! ### The checks of a start (R437) -/

/-- Offset and size of layout record `i` in the reservation (R195). -/
def KObj.layAt (k : KObj) (i : Nat) : Nat := k.scratch + 128 + 32 * k.ring + 64 * i
def State.layRec (s : State) (w : WgId) (i : Nat) : Nat := ofBytes (s.spBytes w ((s.grid w.c).k.layAt i) 64)

/-- DEST bits that an operation does not use (R205). -/
def destUnused (opc bits : Nat) : Nat :=
  match opc with
  | 0 | 1 | 5 => Sys2Proof.bits bits 255 224
  | 2 => Sys2Proof.bits bits 255 196
  | 4 => Sys2Proof.bits bits 255 236
  | _ => 0

/-- The first failure of steps 1 to 7: cause and INFO. A VALID of 257 to 511 fails only against TH: R197 gives it the range
0 to 256, and no reason code names one beyond it (log entry 68). -/
def State.chitCheck (s : State) (w : WgId) (c : Chit) : Option (Nat × Nat) :=
  let k := (s.grid w.c).k
  let g := s.grid w.c
  let x := s.wg w
  let b := Sys2Proof.bits c.bits
  let o := c.opc
  let two := o == 3 || o == 6 || o == 7
  let l := s.layRec w (b 31 24)
  let l2 := s.layRec w (b 39 32)
  let rb := layRb l
  let n := min (b 48 40) (layTh l) * rb
  let off := b 223 192
  if 8 ≤ o then some (cCHIT, 0x01)
  else if b 63 49 ≠ 0 ∨ b 23 23 ≠ 0 ∨ (!two ∧ b 39 32 ≠ 0) ∨ destUnused o c.bits ≠ 0 then some (cCHIT, 0x02)
  else if k.groups ≤ b 15 12 then some (cCHIT, 0x0A)
  else if k.layouts.length ≤ b 31 24 ∨ (two ∧ k.layouts.length ≤ b 39 32) then some (cCHIT, 0x07)
  else if layBad l then some (cLAYOUT, b 31 24)
  else if two ∧ layBad l2 then some (cLAYOUT, b 39 32 + 0x100)
  else if o = 2 ∧ (128 < layTh l ∨ 32768 < rb * layTh l ∨ slotCols (layFmt l) < layTw l) then some (cLAYOUT, b 31 24)
  else if two ∧ (layFmt l2 ≠ layFmt l ∨ layTw l2 ≠ layTw l ∨ layTh l2 ≠ layTh l) then some (cLAYOUT, b 39 32 + 0x100)
  else if o = 7 ∧ ¬(layFmt l = 0 ∨ layFmt l = 2 ∨ layFmt l = 3) then some (cLAYOUT, b 31 24)
  else if layTh l < b 48 40 then some (cCHIT, 0x03)
  else if b 95 64 * layW l % 8 ≠ 0 then some (cCHIT, 0x04)
  else if (o = 0 ∨ o = 1 ∨ o = 5) ∧ off % 4 ≠ 0 then some (cCHIT, 0x05)
  else if o = 4 ∧ b 235 212 / 2 ^ (g.pw * g.ph) ≠ 0 then some (cCHIT, 0x06)
  else if o = 2 ∧ !x.holdsSlot (b 15 12) (b 195 192) then some (cSLOTSTATE, b 195 192)
  else if (o = 0 ∨ o = 1 ∨ o = 5) ∧ n ≠ 0 then
    ((List.range n).find? fun i => (s.spTarget w (off + i) 1).isNone).map fun i => (cSPBOUND, off + i)
  else if o = 4 ∧ n ≠ 0 ∧ b 235 212 ≠ 0 ∧ k.reservation < b 211 192 + n then some (cSPBOUND, max (b 211 192) k.reservation)
  else none

/-! ### Draw (R210, R270) -/

/-- Whether the engine may go on: DRAWN covers it, and, when it waits at its check, no MMA began waiting earlier. An engine
that comes to its check covered goes on at once, whatever waits: R270 speaks of the two waiting (log entry 68). -/
def State.engineCovered (s : State) (w : WgId) : Bool :=
  let x := s.wg w
  decide (s.arrayCost w + 3 ≤ x.drawn) && (!x.drawWait.contains none || x.drawWait.head? == some none)

/-- The engine comes to its check, in a re-run when the captured order lets it (R424). -/
def State.engineCheck (s : State) (w : WgId) : Option State :=
  if (s.wg w).drawWait.contains none then some s else s.ordered w.c (.check w.w none)

/-- The engine waits at its check: a draw stall, counted when it begins. -/
def State.engineStall (s : State) (w : WgId) : State :=
  if (s.wg w).drawWait.contains none then s
  else (s.modWg w fun x => { x with drawWait := x.drawWait ++ [none] }).slipWg w

/-- The engine goes on from its check; a paused chit keeps the engine's place. -/
def State.engineGo (s : State) (w : WgId) : State :=
  s.modWg w fun x => if x.chits.any (·.drawHeld) then x else { x with drawWait := x.drawWait.filter (· != none) }

/-- Replace chit `k`. -/
def State.setChit (s : State) (w : WgId) (k : Nat) (c : Chit) : State := s.modWg w fun x => { x with chits := lset x.chits k c }

/-- Whether an issued, unretired tile word of a group names a slot (R236). -/
def State.slotInUse (s : State) (g : GrpId) (m : Nat) : Bool :=
  (s.group g).cmds.any fun c => c.st != .undecided && c.st != .decided && c.allOps.any fun o => (o.slotsOf (s.wg g.wg)).contains m

/-- The engine starts chit `k`: the draw check, the layout records, and the checks of R437. -/
def execChitStart (c w k : Nat) (s : State) : Out :=
  let wi : WgId := ⟨c, w⟩
  let x := s.wg wi
  match x.chits[k]? with
  | none => .next s
  | some q =>
    let m := bits q.bits 195 192
    if x.place ≠ .resident ∨ q.started then .next s
    else if q.opc = 2 ∧ s.slotInUse ⟨c, w, q.grp⟩ m then .next s
    else
      match (if x.engineRuns then some s else s.engineCheck wi) with
      | none => .next s
      | some s =>
      if !x.engineRuns ∧ !s.engineCovered wi then .next (s.engineStall wi)
      else
      let s1 := if x.engineRuns then s else s.engineGo wi
      let b := bits q.bits
      match s.chitCheck wi q with
      | some (cause, info) =>
        .next (s1.setChit wi k { q with started := true, finished := true, report := some (s.chitFail wi q cause info) })
      | none =>
        let kk := (s.grid c).k
        let two := q.opc == 3 || q.opc == 6 || q.opc == 7
        let bad := (s.spPoisonAt wi (kk.layAt (b 31 24)) 64).orElse fun _ =>
          if two then s.spPoisonAt wi (kk.layAt (b 39 32)) 64 else none
        match bad with
        | some p =>
          .next (s1.setChit wi k { q with started := true, finished := true, report := some (s.chitFail wi q cPOISON p) })
        | none =>
          .next (s1.setChit wi k { q with
            started := true, lay := s.layRec wi (b 31 24), lay2 := if two then s.layRec wi (b 39 32) else 0 })

/-! ### The transfer -/

/-- Pieces of a byte range within 4 KiB pages. -/
def pagePieces (va : Nat) : Nat → Nat → List (Nat × Nat)
  | 0, _ => []
  | k + 1, n =>
    if n = 0 then [] else
    let m := min n (4096 - va % 4096)
    (va, m) :: pagePieces (va + m) k (n - m)

/-- What a transfer met. -/
inductive Xfer (α : Type) where
  | ok (x : α)
  | bad (cause info : Nat)
  | page (va : Nat) (kind : Acc4)
  | wait

/-- A translated piece: its virtual and physical address, length, and whether its leaf is tracked. -/
structure Piece where
  va : Nat
  pa : Nat
  n : Nat
  trk : Bool

/-- Translate the pieces of a byte range for an access. -/
def State.xlatePieces (s : State) (w : WgId) (kind : Acc4) : List (Nat × Nat) → State × Xfer (List Piece)
  | [] => (s, .ok [])
  | (va, n) :: l =>
    if 2 ^ 57 < va + n then (s, .bad cPROT va)
    else
      match s.watchHit va n with
      | some x => (s, .bad cWATCH x)
      | none =>
        match s.access (s.space (.wg w.c w.w)) va kind with
        | (s1, .ok tr) =>
          (match s1.xlatePieces w kind l with
           | (s2, .ok ps) => (s2, .ok (⟨va, tr.pa va, n, tr.trk⟩ :: ps))
           | r => r)
        | (s1, .fault .page) => (s1, .page va kind)
        | (s1, .fault .prot) => (s1, .bad cPROT va)
        | (s1, .fault .poison) => (s1, .bad cPOISON va)
        | (s1, .wait) => (s1, .wait)

/-- Bytes of a step with the marks of their granules; each byte with its name for INFO. -/
abbrev ByteRun := List (Byte × Bool)

/-- Coherent bytes of a global range (R293), those that its core's stores are to write whole unmarked (R416); an untracked
one is read at its home (R372). -/
def State.globBytes (s : State) (w : WgId) (ps : List Piece) : ByteRun :=
  ps.flatMap fun p => (List.range p.n).map fun i =>
    let x := p.pa + i
    if p.trk then (s.coreByte w x, (s.coreBad w (lineOf x)).contains (x % 128 / 32)) else (cget 0 s.mem x, s.homeBad w x)

/-- An element of `w` bits at bit `b` of a run. -/
def runElem (r : ByteRun) (w b : Nat) : Nat × Bool :=
  let xs := (r.drop (b / 8)).take ((b % 8 + w + 7) / 8)
  (ofBytes (xs.map Prod.fst) / 2 ^ (b % 8) % 2 ^ w, xs.any (·.2))

/-- The bytes of a range of bits from bit `b`, with elements of `w` bits put over the old bytes. -/
def putElems (old : List Byte) (w b : Nat) (vs : List (Nat × Bool)) : List Byte :=
  toBytes old.length (setBits (ofBytes old) b (w * vs.length) (packRow w (vs.map Prod.fst)))

/-- Byte range of `n` elements of `w` bits from bit `b`. -/
def bitRange (w b n : Nat) : Nat × Nat := (b / 8, (b % 8 + w * n + 7) / 8)

/-! ### Marks (R416) -/

/-- Granules of 32 bytes that `n` elements of `w` bits from bit `b` on touch. -/
def granules (w b n : Nat) : List Nat := (List.range ((b + w * n + 255) / 256 - b / 256)).map (b / 256 + ·)

/-- Bits `[lo, hi)` of granule `g`, as a mask of its 256. -/
def granuleBits (g lo hi : Nat) : Nat := 2 ^ (min hi (256 * g + 256) - 256 * g) - 2 ^ (max lo (256 * g) - 256 * g)

/-- Which granules stay marked once elements of `w` bits have been written from bit `b` on, where `bad` says which were: those
of marked elements, and those of which the chit has not yet written every bit. `cov` holds what it has written of them, at
`key`. -/
def marksAfter (cov : Cells Nat) (key : Nat → Nat) (bad : Nat → Bool) (w b : Nat) (vs : List (Nat × Bool)) : List Nat × Cells Nat :=
  (granules w b vs.length).foldl (fun a g =>
    let part (marked : Bool) : Nat := vs.zipIdx.foldl (fun m v =>
      if v.1.2 = marked then m ||| granuleBits g (b + w * v.2) (b + w * (v.2 + 1)) else m) 0
    let m := if bad g then cget 0 a.2 (key g) ||| part false else 0
    (if part true ≠ 0 ∨ (bad g ∧ m ≠ 2 ^ 256 - 1) then a.1 ++ [g] else a.1, cset 0 a.2 (key g) m)) ([], cov)

/-- The marks `ms`, with `new` in the place of those among `ofs`. -/
def remark (ms ofs new : List Nat) : List Nat := (ms.filter fun g => !ofs.contains g) ++ new

/-- Write elements to the scratchpad space of a workgroup from bit `b` on. -/
def State.putSp (s0 : State) (w : WgId) (cov : Cells Nat) (b wd : Nat) (vs : List (Nat × Bool)) : State × Cells Nat :=
  let (off, n) := bitRange wd b vs.length
  match s0.spTarget w off n with
  | some (x, o) =>
    let bit := 8 * o + b % 8
    let bad := (s0.wg x).spPoison
    let (ms, cov) := marksAfter cov (fun g => 3 * (2 ^ 32 * x.w + g) + 1) bad.contains wd bit vs
    let s := (s0.beforeMark (spGranules x ms)).getD s0
    ((s.spWrite x o (putElems (s.spBytes x o n) wd (b % 8) vs)).modWg x fun y => { y with
      spPoison := remark bad (granules wd bit vs.length) ms }, cov)
  | none => (s0, cov)

/-- Write elements to a slot's row, in the slot layout (R213). -/
def State.putSlotRow (s : State) (w : WgId) (cov : Cells Nat) (m f r c : Nat) (vs : List (Nat × Bool)) : State × Cells Nat :=
  let wd := fmtBits f
  let sl := (s.wg w).slot m
  let bit := 8 * rowPitch f * r + wd * c
  let (ms, cov) := marksAfter cov (fun g => 3 * g + 2) sl.bad.contains wd bit vs
  let rows := cset 0 sl.rows r (setBits (cget 0 sl.rows r) (wd * c) (wd * vs.length) (packRow wd (vs.map Prod.fst)))
  (s.modWg w fun x => x.putSlot m { sl with rows := rows, bad := remark sl.bad (granules wd bit vs.length) ms }, cov)

/-- Write bytes to global memory at their home, after the workgroup's own accepted stores to them; none while a core
withholds its acknowledgement. -/
def State.putGlob (s : State) (w : WgId) : List Piece → List Byte → Option State
  | [], _ => some s
  | p :: l, bs =>
    let own := s.drain? fun x => x.src == w && overlap x.pa x.data.length p.pa p.n
    (own.bind fun s1 => s1.homeWrite? (.core w none) p.trk p.pa (bs.take p.n)).bind fun s2 => s2.putGlob w l (bs.drop p.n)

/-- Elements from bit `bit` on reach global memory, with the marks of their granules. -/
def State.putElemsGlob (s : State) (w : WgId) (cov : Cells Nat) (ps : List Piece) (wd bit : Nat) (vs : List (Nat × Bool)) :
    Option (State × Cells Nat) :=
  let pa (g : Nat) : Option Nat := (ps.find? fun p => p.va ≤ 32 * g + 31 && 32 * g < p.va + p.n).map fun p => (p.pa + 32 * g - p.va) / 32
  let bad (g : Nat) : Bool := ((pa g).map s.poison.contains).getD false
  let (ms, cov) := marksAfter cov (3 * ·) bad wd bit vs
  let new := (ms.filter fun g => !bad g).filterMap pa
  ((if new = [] then some s else s.beforeMark (memGranules new)).bind fun s =>
    s.putGlob w ps (putElems ((s.globBytes w ps).map Prod.fst) wd (bit % 8) vs)).map fun s1 =>
    ({ s1 with poison := remark s1.poison ((granules wd bit vs.length).filterMap pa) (ms.filterMap pa) }, cov)

/-! ### Peers (R206, R408) -/

/-- Whether a port may carry a transfer: no die has its link failed (R408). -/
def State.portUp (s : State) (net : Bool) (p : Nat) : Bool := !(s.dies.any fun d => d.failedLinks.contains (if net then 8 else 7, p))

/-- Where the transfer of a remote chit goes: the destination package or the endpoint's record, the ports in service that may
carry it, and the peer's job; none when the peer cannot be reached (R408). -/
def State.route (s : State) (c : Nat) (q : Chit) : Option (Nat × Nat × Nat) :=
  let b := Sys2Proof.bits q.bits
  let net := natBit q.bits 191
  let e := cget 0 s.fe.peers (32768 * c + b 190 176)
  let x := cget 0 s.fe.endpoints (bits e 75 64)
  let ports := (onesOf (if net then 12 else 32) (if net then bits x 11 0 else bits e 95 64)).filter (s.portUp net)
  if natBit e 127 ∧ natBit e 126 = net ∧ ports ≠ [] then
    some (if net then x / 2 ^ 12 else bits e 111 96, maskOf 32 ports, bits e 63 48)
  else none

/-- INFO of XFAB: the peer and its fabric. -/
def Chit.peerInfo (q : Chit) : Nat := Sys2Proof.bits q.bits 190 176 + (if natBit q.bits 191 then 0x8000 else 0)

/-- Elements of the next step after `n` elements of `w` bits: `rest`, or those that start in the present 4 KiB of the
transfer (R270). -/
def stepLen (w n rest : Nat) : Nat := min rest ((32768 - n * w % 32768 + w - 1) / w)

/-- What a chit reads at a host-homed address is an input of its node, element by element (R423, R424). -/
def State.hostElems (s : State) (w : WgId) (q : Chit) : List (Nat × Option Nat × Nat × Bool) → State × List (Nat × Bool)
  | [] => (s, [])
  | (i, pa, v, b) :: l =>
    let (s1, v1) := match pa with
      | some pa => s.hostInput ⟨w.c, w.w, 4096 + 2 ^ 32 * q.idx + i⟩ pa v
      | none => (s, v)
    let (s2, vs) := s1.hostElems w q l
    (s2, (v1, b) :: vs)

/-- Elements `[c0, c1)` of row `r` at the source, with the byte that names a poisoned one. -/
def State.chitSource (s : State) (w : WgId) (q : Chit) (r c0 c1 : Nat) :
    State × Xfer (List (Nat × Bool) × Option Nat) :=
  let l := q.lay
  let wd := layW l
  if q.opc = 5 then (s, .ok ((List.range (c1 - c0)).map fun _ => (layFill l, false), none))
  else if q.opc = 1 then
    let off := bits q.bits 223 192 + r * layRb l
    let n := c1 - c0
    let (o, m) := bitRange wd (wd * c0) n
    (match s.spTarget w (off + o) m with
     | some (x, p) =>
       let run : ByteRun := (List.range m).map fun i => (s.spByte x (p + i), (s.wg x).spPoison.contains ((p + i) / 32))
       let vs := (List.range n).map fun i => runElem run wd (wd * c0 % 8 + wd * i)
       (s, .ok (vs, ((List.range m).find? fun i => (run.getD i (0, false)).2).map (off + o + ·)))
     | none => (s, .bad cSPBOUND (off + o)))
  else
    let (lo, hi) := colsIn l q.origin r c0 c1
    if hi ≤ lo then (s, .ok ((List.range (c1 - c0)).map fun _ => (layFill l, false), none))
    else
      let b := elemBit l q.origin r lo
      let (va, m) := bitRange wd b (hi - lo)
      match s.xlatePieces w .read (pagePieces va (m / 4096 + 2) m) with
      | (s1, .ok ps) =>
        let run := s1.globBytes w ps
        let vs := (List.range (c1 - c0)).map fun i =>
          if lo ≤ c0 + i ∧ c0 + i < hi then
            let k := b + wd * (c0 + i - lo)
            let e := runElem run wd (k - 8 * va)
            (layTw l * r + c0 + i, (ps.find? fun p => p.va ≤ k / 8 && k / 8 < p.va + p.n).map (·.pa), e.1, e.2)
          else (0, none, layFill l, false)
        let (s2, vs) := s1.hostElems w q vs
        -- a read with HINT stream allocates nothing in L2 (R202)
        let s3 := if bits l 63 62 = 1 then s2 else
          ((ps.filter (·.trk)).flatMap fun p => linesOf p.pa p.n).foldl (fun s x => s.l2Miss w.c (s.wg w).core.die x false) s2
        (s3, .ok (vs, ((List.range m).find? fun i => (run.getD i (0, false)).2).map (va + ·)))
      | (s1, .bad c i) => (s1, .bad c i)
      | (s1, .page va k) => (s1, .page va k)
      | (s1, .wait) => (s1, .wait)

/-- Write elements `[c0, c0 + vs.length)` of row `r` at the destination. -/
def State.chitDest (s : State) (w : WgId) (q : Chit) (r c0 : Nat) (vs : List (Nat × Bool)) : State × Xfer (State × Cells Nat) :=
  let l := q.lay
  let wd := layW l
  let b := Sys2Proof.bits q.bits
  let at' := 8 * (r * layRb l) + wd * c0
  let glob (l : Nat) (o : List Int) : State × Xfer (State × Cells Nat) :=
    let (lo, hi) := colsIn l o r c0 (c0 + vs.length)
    if hi ≤ lo then (s, .ok (s, q.cover))
    else
      let xs := (vs.drop (lo - c0)).take (hi - lo)
      let bit := elemBit l o r lo
      let (va, m) := bitRange wd bit (hi - lo)
      match s.xlatePieces w .write (pagePieces va (m / 4096 + 2) m) with
      | (s1, .ok ps) =>
        (match s1.putElemsGlob w q.cover ps wd bit xs with
         | some s2 => (s1, .ok s2)
         | none => (s1, .wait))
      | (s1, .bad c i) => (s1, .bad c i)
      | (s1, .page va k) => (s1, .page va k)
      | (s1, .wait) => (s1, .wait)
  match q.opc with
  | 0 | 5 => (s, .ok (s.putSp w q.cover (8 * b 223 192 + at') wd vs))
  | 1 => glob l q.origin
  | 2 => (s, .ok (s.putSlotRow w q.cover (b 195 192) (layFmt l) r c0 vs))
  | 3 => glob q.lay2 q.origin2
  | 4 =>
    let ts := ((s.pitch w.c (s.wg w).pitch).wgs.zipIdx).filter fun t => natBit (b 235 212) t.2
    (s, .ok (ts.foldl (fun (a : State × Cells Nat) t => a.1.putSp ⟨w.c, t.1⟩ a.2 (8 * b 211 192 + at') wd vs) (s, q.cover)))
  | _ =>
    match s.route w.c q with
    | none => (s, .bad cXFAB q.peerInfo)
    | some (via, ports, job) =>
      let (lo, hi) := colsIn q.lay2 q.origin2 r c0 (c0 + vs.length)
      if hi ≤ lo then (s, .ok (s, q.cover))
      else
        let bit := elemBit q.lay2 q.origin2 r lo
        let xs := (vs.drop (lo - c0)).take (hi - lo)
        let p : Packet :=
          { src := w, idx := q.idx, peer := b 190 176, net := natBit q.bits 191, via := via, ports := ports, job := job
            va := bit / 8, bit := bit % 8, fmt := layFmt q.lay2, add := q.opc == 7, elems := xs.map Prod.fst
            marked := (xs.zipIdx.filter fun x => x.1.2).map Prod.snd }
        (s, .ok ({ s with peerOut := s.peerOut ++ [p] }, q.cover))

/-- Elements `[e, e + n)` of a chit have performed. -/
def Chit.did (q : Chit) (e n : Nat) : Chit :=
  let part := if e = q.pos then q.part else q.part ++ (List.range n).map (e + ·)
  let pos := part.foldl (fun p _ => if part.contains p then p + 1 else p) (if e = q.pos then e + n else q.pos)
  { q with pos := pos, part := part.filter (pos ≤ ·) }

/-- The elements that a step transfers: consecutive ones of a row that have not performed, in the present 4 KiB; by choices
the first of them is any, and they are fewer (R293). -/
def State.chitPick (s : State) (q : Chit) : State × Nat × Nat :=
  let tw := layTw q.lay
  let (k, s1) := s.choose
  let (j, s2) := s1.choose
  let e0 := q.pos + k % (tw * q.rows - q.pos)
  let e := if q.part.contains e0 then q.pos else e0
  let rest := ((List.range (tw - e % tw)).takeWhile fun i => !q.part.contains (e + i)).length
  let n := stepLen (layW q.lay) (q.pos + q.part.length) rest
  (s2, e, if j = 0 then n else min n j)

/-- One step of chit `k`: some elements of a row, within the present 4 KiB, each read and written once (R203, R209, R293,
R416). Before each 4 KiB the engine repeats its draw check (R270). -/
def execChitStep (c w k : Nat) (s : State) : Out :=
  let wi : WgId := ⟨c, w⟩
  let x := s.wg wi
  match x.chits[k]? with
  | none => .next s
  | some q =>
    if x.place ≠ .resident ∨ !q.started ∨ q.finished ∨ q.hold.isSome then .next s
    else
      let tw := layTw q.lay
      let step := (q.pos + q.part.length) * layW q.lay / 32768
      if tw * q.rows ≤ q.pos ∨ (q.opc = 4 ∧ bits q.bits 235 212 = 0) then
        .next ((s.setChit wi k { q with finished := true, drawHeld := false }).engineGo wi)
      else
        let edge := q.checked ≤ step
        match (if edge then s.engineCheck wi else some s) with
        | none => .next s
        | some s =>
        if edge ∧ !s.engineCovered wi then
          .next (if q.drawHeld then s else (s.engineStall wi).setChit wi k { q with drawHeld := true })
        else
          let q := { q with drawHeld := false, checked := step + 1 }
          let (s0, e, n) := (if edge then (s.setChit wi k q).engineGo wi else s).chitPick q
          let r := e / tw
          let c0 := e % tw
          let fail (cause info : Nat) : State :=
            s0.setChit wi k { q with finished := true, report := q.report.orElse fun _ => some (s.chitFail wi q cause info) }
          let paged (va : Nat) (kind : Acc4) : State :=
            let (h, s1) := s0.hold
              { who := .chit wi q.idx, va := va, asid := (s0.space (.wg c w)).asid, kind := kind, ctx := c }
            s1.setChit wi k { q with hold := some h }
          match s0.chitSource wi q r c0 (c0 + n) with
          | (_, .wait) => .next s
          | (_, .page va kind) => .next (paged va kind)
          | (_, .bad cause info) => .next (fail cause info)
          | (s1, .ok (vs, p)) =>
            match s1.chitDest wi q r c0 vs with
            | (_, .wait) => .next s
            | (_, .page va kind) => .next (paged va kind)
            | (_, .bad cause info) => .next (fail cause info)
            | (_, .ok (s2, cov)) =>
              let rep := q.report.orElse fun _ => p.map fun i => s.chitFail wi q cPOISON i
              let q1 := q.did e n
              .next (s2.setChit wi k { q1 with report := rep, cover := cov, finished := tw * q.rows ≤ q1.pos })

/-! ### Completion (R207) -/

/-- A finished chit whose remote transfers are acknowledged completes: its failure is queued as a report, for which it waits while the group holds eight (R312);
DONE, TAGS and its batch count it; a slot it wrote is tagged (R236). -/
def execChitComplete (c w k : Nat) (s : State) : Out :=
  let wi : WgId := ⟨c, w⟩
  let x := s.wg wi
  match x.chits[k]? with
  | none => .next s
  | some q =>
    if x.place ≠ .resident ∨ !q.finished ∨ (s.peerOut.any fun p => p.src == wi && p.idx == q.idx) then .next s
    else
      let reported := match q.report with
        | some r => s.queueReport ⟨c, w, q.grp⟩ r
        | none => some s
      match reported with
      | none => .next s
      | some s1 =>
        let b := bits q.bits
        let te := natBit q.bits 22 && !q.untagged
        .next (s1.modWg wi fun x =>
          let x1 : Wg := if q.opc = 2 ∧ (q.report.isNone ∨ (q.pos ≠ 0 ∧ layTw q.lay * q.rows ≤ q.pos)) then
              x.putSlot (b 195 192) { (x.slot (b 195 192)) with tag := some (layFmt q.lay, q.rows, layTw q.lay) }
            else x
          { x1 with
            chits := ldel x1.chits k, doneCnt := x1.doneCnt + 1
            tags := if te then x1.tags ||| BitVec.ofNat 64 (2 ^ b 21 16) else x1.tags })

end Sys2Proof.Machine
end

