-- ==== Sys2Proof/Machine/Crypto.lean ====
section
/-!
DEFINITION. The standards that R427 names: SHA-256 and SHA-384 (FIPS 180-4), ECDSA over P-384 (FIPS 186-5), and HSS of one
level with LMS_SHA256_M24_H15 and LMOTS_SHA256_N24_W4 (RFC 8554, SP 800-208). They come from outside the spec (log entry 9).
-/
namespace Sys2Proof.Machine

/-- Big-endian numbers. -/
def beNat (bs : List Byte) : Nat := bs.foldl (fun a b => 256 * a + b.toNat) 0
def beBytes (n v : Nat) : List Byte := (toBytes n v).reverse

/-! ### SHA-2 -/

/-- The greatest `r` with `r ^ k` at most `n`, from the `i` bits below those of `r`. -/
def rootBits (k n : Nat) : Nat → Nat → Nat
  | 0, r => r
  | i + 1, r => rootBits k n i (if (r + 2 ^ i) ^ k ≤ n then r + 2 ^ i else r)

/-- The first `w` bits of the fraction of the `k`-th root of `p`. -/
def fracRoot (k w p : Nat) : Nat := rootBits k (p * 2 ^ (k * w)) (w + 5) 0 % 2 ^ w

/-- The primes up to 409, of which there are 80. -/
def shaPrimes : List Nat := (List.range 410).filter fun p => decide (2 ≤ p) && (List.range p).all fun d => decide (d < 2) || p % d != 0

/-- A member of the family: bits of a word, rounds, and the rotations of its four functions; the last of a small one is a
shift. -/
structure Sha2 where
  w : Nat
  rounds : Nat
  big0 : Nat × Nat × Nat
  big1 : Nat × Nat × Nat
  small0 : Nat × Nat × Nat
  small1 : Nat × Nat × Nat

def sha2Small : Sha2 :=
  { w := 32, rounds := 64, big0 := (2, 13, 22), big1 := (6, 11, 25), small0 := (7, 18, 3), small1 := (17, 19, 10) }
def sha2Large : Sha2 :=
  { w := 64, rounds := 80, big0 := (28, 34, 39), big1 := (14, 18, 41), small0 := (1, 8, 7), small1 := (19, 61, 6) }

def Sha2.rotr (h : Sha2) (n x : Nat) : Nat := x / 2 ^ n + x % 2 ^ n * 2 ^ (h.w - n)
def Sha2.big (h : Sha2) (r : Nat × Nat × Nat) (x : Nat) : Nat := h.rotr r.1 x ^^^ h.rotr r.2.1 x ^^^ h.rotr r.2.2 x
def Sha2.small (h : Sha2) (r : Nat × Nat × Nat) (x : Nat) : Nat := h.rotr r.1 x ^^^ h.rotr r.2.1 x ^^^ x / 2 ^ r.2.2
def Sha2.k (h : Sha2) (i : Nat) : Nat := fracRoot 3 h.w (shaPrimes.getD i 0)

/-- The message schedule, latest word first. -/
def Sha2.extend (h : Sha2) : Nat → List Nat → List Nat
  | 0, l => l
  | n + 1, l =>
    h.extend n ((h.small h.small1 (l.getD 1 0) + l.getD 6 0 + h.small h.small0 (l.getD 14 0) + l.getD 15 0) % 2 ^ h.w :: l)

/-- One round on the working variables a to h. -/
def Sha2.round (h : Sha2) (v : List Nat) (kw : Nat) : List Nat :=
  match v with
  | [a, b, c, d, e, f, g, z] =>
    let ch := (e &&& f) ^^^ ((2 ^ h.w - 1 - e) &&& g)
    let maj := (a &&& b) ^^^ (a &&& c) ^^^ (b &&& c)
    let t1 := z + h.big h.big1 e + ch + kw
    [(t1 + h.big h.big0 a + maj) % 2 ^ h.w, a, b, c, (d + t1) % 2 ^ h.w, e, f, g]
  | v => v

/-- One block. -/
def Sha2.compress (h : Sha2) (ks v : List Nat) (block : List Byte) : List Nat :=
  let n := h.w / 8
  let first := (List.range 16).map fun i => beNat ((block.drop (n * i)).take n)
  let ws := (h.extend (h.rounds - 16) first.reverse).reverse
  let out := (List.range h.rounds).foldl (fun v i => h.round v (ks.getD i 0 + ws.getD i 0)) v
  (List.range 8).map fun i => (v.getD i 0 + out.getD i 0) % 2 ^ h.w

/-- Blocks of `n` bytes, `k` of them. -/
def byteBlocks (n : Nat) : Nat → List Byte → List (List Byte)
  | 0, _ => []
  | k + 1, bs => bs.take n :: byteBlocks n k (bs.drop n)

/-- The digest from an initial value, `out` bytes of it. -/
def Sha2.hash (h : Sha2) (iv : List Nat) (out : Nat) (msg : List Byte) : List Byte :=
  let b := 2 * h.w
  let z := (b - (msg.length + 1 + h.w / 4) % b) % b
  let m := msg ++ [0x80] ++ List.replicate z 0 ++ beBytes (h.w / 4) (8 * msg.length)
  let ks := (List.range h.rounds).map h.k
  (((byteBlocks b (m.length / b) m).foldl (h.compress ks) iv).flatMap (beBytes (h.w / 8))).take out

/-- SHA-384. -/
def sha384 (msg : List Byte) : List Byte := sha2Large.hash (((shaPrimes.drop 8).take 8).map (fracRoot 2 64)) 48 msg

/-- SHA-256 truncated to 192 bits (SP 800-208). -/
def sha192 (msg : List Byte) : List Byte := sha2Small.hash ((shaPrimes.take 8).map (fracRoot 2 32)) 24 msg

/-! ### ECDSA over P-384 -/

namespace P384

def p : Nat := 2 ^ 384 - 2 ^ 128 - 2 ^ 96 + 2 ^ 32 - 1
def n : Nat := 0xFFFFFFFFFFFFFFFFFFFFFFFFFFFFFFFFFFFFFFFFFFFFFFFFC7634D81F4372DDF581A0DB248B0A77AECEC196ACCC52973
def b : Nat := 0xB3312FA7E23EE7E4988E056BE3F82D19181D9C6EFE8141120314088F5013875AC656398D8A2ED19D2A85C8EDD3EC2AEF
def gx : Nat := 0xAA87CA22BE8B05378EB1C71EF320AD746E1D3B628BA79B9859F741E082542A385502F25DBF55296C3A545E3872760AB7
def gy : Nat := 0x3617DE4A96262C6F5D9E98BF9292DC29F8F41DBD289A147CE9DA3113B5F0B8C00A60B1CE1D7E819D7A431D7C90EA0E5F

/-- `x ^ e` modulo `m`, by the low `k` bits of the exponent. -/
def powMod (m x e : Nat) : Nat → Nat
  | 0 => 1 % m
  | k + 1 => let y := powMod m (x * x % m) (e / 2) k; if e % 2 = 1 then x * y % m else y
/-- The inverse modulo a prime. -/
def inv (m x : Nat) : Nat := powMod m (x % m) (m - 2) 384

/-- A point; none at infinity. -/
abbrev Point := Option (Nat × Nat)

def onCurve (x y : Nat) : Bool := decide (x < p) && decide (y < p) && y * y % p == (x * x * x + (p - 3) * x + b) % p

def add (u v : Point) : Point :=
  match u, v with
  | none, v => v
  | u, none => u
  | some (x1, y1), some (x2, y2) =>
    if x1 = x2 ∧ (y1 + y2) % p = 0 then none
    else
      let l := if x1 = x2 then (3 * x1 * x1 + (p - 3)) * inv p (2 * y1) % p else (y2 + p - y1) * inv p (x2 + p - x1) % p
      let x3 := (l * l + 2 * p - x1 - x2) % p
      some (x3, (l * (x1 + p - x3) + p - y1) % p)

/-- The multiple of a point by the low `i` bits of `k`. -/
def mul (k : Nat) (u : Point) : Nat → Point
  | 0 => none
  | i + 1 =>
    let v := mul (k / 2) u i
    let d := add v v
    if k % 2 = 1 then add d u else d

def base : Point := some (gx, gy)

/-- Verify a signature, r then s, over a digest with a key in uncompressed form. -/
def verify (key digest sig : List Byte) : Bool :=
  let x := beNat ((key.drop 1).take 48)
  let y := beNat ((key.drop 49).take 48)
  let r := beNat (sig.take 48)
  let s := beNat ((sig.drop 48).take 48)
  key.length == 97 && key.head? == some 4 && onCurve x y && sig.length == 96 && 0 < r && r < n && 0 < s && s < n &&
    (let w := inv n s
     match add (mul (beNat digest * w % n) base 384) (mul (r * w % n) (some (x, y)) 384) with
     | some (x1, _) => x1 % n == r
     | none => false)

/-- The public key of a private one. -/
def publicKey (d : Nat) : List Byte :=
  match mul d base 384 with
  | some (x, y) => 4 :: (beBytes 48 x ++ beBytes 48 y)
  | none => []

/-- The signature of a digest by a private key, with the secret number `k` of the signature. -/
def sign (d k : Nat) (digest : List Byte) : List Byte :=
  let r := ((mul k base 384).map fun u => u.1 % n).getD 0
  beBytes 48 r ++ beBytes 48 (inv n k * (beNat digest + r * d) % n)

end P384

/-! ### HSS of one level -/

namespace Hss

/-- Four bits of a string, the higher of a byte first. -/
def coef (bs : List Byte) (i : Nat) : Nat := let b := (bs.getD (i / 2) 0).toNat; if i % 2 = 0 then b / 16 else b % 16

/-- Hash on in a chain from step `j`, `k` times. -/
def chain (pre : List Byte) : Nat → Nat → List Byte → List Byte
  | 0, _, t => t
  | k + 1, j, t => chain pre k (j + 1) (sha192 (pre ++ beBytes 1 j ++ t))

/-- The key that a one-time signature yields. -/
def candidate (id q msg c : List Byte) (y : Nat → List Byte) : List Byte :=
  let h := sha192 (id ++ q ++ beBytes 2 0x8181 ++ c ++ msg)
  let sum := (List.range 48).foldl (fun a i => a + (15 - coef h i)) 0
  let d := h ++ beBytes 2 (sum * 16)
  let z := (List.range 51).flatMap fun i => chain (id ++ q ++ beBytes 2 i) (15 - coef d i) (coef d i) (y i)
  sha192 (id ++ q ++ beBytes 2 0x8080 ++ z)

/-- The root that a path from node `k` yields. -/
def climb (id : List Byte) (path : Nat → List Byte) : Nat → Nat → Nat → List Byte → List Byte
  | 0, _, _, t => t
  | n + 1, i, k, t =>
    climb id path n (i + 1) (k / 2)
      (sha192 (id ++ beBytes 4 (k / 2) ++ beBytes 2 0x8383 ++ (if k % 2 = 1 then path i ++ t else t ++ path i)))

/-- Verify a signature of 1,624 bytes with a public key of 52: one level, LMS type 0x0C, one-time type 7. -/
def verify (key msg sig : List Byte) : Bool :=
  let part (l : List Byte) (o n : Nat) : List Byte := (l.drop o).take n
  let id := part key 12 16
  let q := part sig 4 4
  key.length == 52 && sig.length == 1624 && beNat (part key 0 4) == 1 && beNat (part key 4 4) == 0x0C &&
    beNat (part key 8 4) == 7 && beNat (part sig 0 4) == 0 && beNat (part sig 8 4) == 7 && beNat (part sig 1260 4) == 0x0C &&
    beNat q < 2 ^ 15 &&
    (let kc := candidate id q msg (part sig 12 24) fun i => part sig (36 + 24 * i) 24
     let node := 2 ^ 15 + beNat q
     climb id (fun i => part sig (1264 + 24 * i) 24) 15 0 node (sha192 (id ++ beBytes 4 node ++ beBytes 2 0x8282 ++ kc)) ==
       part key 28 24)

end Hss

end Sys2Proof.Machine
end

