-- ==== Sys2Proof/Machine/Service.lean ====
section
/-!
DEFINITION. Service of page faults (R302, R303, R333, R374, R375) and the events of coherence: performing stores,
invalidations, translation invalidations, evictions, host requests, transfers from peers (R284, R287, R367 to R371,
R396 to R400).
-/
namespace Sys2Proof.Machine

/-! ### Service (R303, R375) -/

/-- The workgroup that a held access belongs to. -/
def State.holderWg (s : State) (x : Held) : Option WgId :=
  match x.who with
  | .lane g _ | .tile g _ => some g.wg
  | .scalar a | .fetch a => (match a with
    | .grid _ => none
    | a => some (s.wgId a))
  | .chit w _ | .store w _ => some w
  | .host _ | .front _ _ => none

/-- Whether a held access can be acted on now: its context is on its core, and not stopped by NOFRAME. -/
def State.holderHere (s : State) (x : Held) : Bool :=
  match s.holderWg x with
  | some w => (s.wg w).place == .resident
  | none => !(s.grid x.ctx).noframe

/-- The record of a declined PAGE of an accepted store that R368 cancelled (log entry 20). -/
def State.storeRecord (s : State) (p : PStore) (va : Nat) : FaultRec :=
  let a := (⟨p.src.c, p.src.w, p.grp⟩ : GrpId).stream
  { s.record a cPAGE va with level := if p.lanes = 0 then 1 else 0, lanes := p.lanes, waddr := p.waddr }

/-! ### Writes that wait at their home -/

/-- Whether queued home write `k` may perform: no earlier one to its lines, and for a rel none of its agent (R400). -/
def State.mayHost (s : State) (k : Nat) : Bool :=
  match s.hostPend[k]? with
  | none => false
  | some x =>
    (s.hostPend.take k).all fun y =>
      !(x.rel && y.agent == x.agent) && !(linesOf y.pa y.data.length).any (linesOf x.pa x.data.length).contains

/-- Queued home write `k` performs, where it may and no core withholds its acknowledgement. The host keeps no copy of a line
that it writes. -/
def State.performHost (s : State) (k : Nat) : Option State :=
  match s.hostPend[k]? with
  | none => none
  | some x =>
    if !s.mayHost k then none
    else
      let s1 : State := { s with hostPend := ldel s.hostPend k }
      if x.agent = 0 then s1.homeWrite? .device x.trk x.pa x.data
      else
        ((linesOf x.pa x.data.length).foldl (fun s l => s.modDir l fun e => { e with host := .i }) s1).homeWrite? .outside x.trk x.pa x.data

/-- Queued home writes perform, in order, until none that `p` selects is left; none while one of those must wait. -/
def State.drainHost? (s : State) (p : HomeWrite → Bool) : Nat → Option State
  | 0 => if s.hostPend.any p then none else some s
  | n + 1 =>
    if !s.hostPend.any p then some s
    else
      match (List.range s.hostPend.length).findSome? s.performHost with
      | some s1 => s1.drainHost? p n
      | none => none

/-! ### Invalidations of translations (R367, R368) -/

/-- An invalidation for a line reaches sharer `t`: accesses that used a translation derived from the line, queued writes of
the host and the front end among them, perform or are cancelled, and the translations are dropped (R368); none while an
access must wait. -/
def State.sendTinval (s0 : State) (t : TAgent) (line : Nat) : Option State :=
  let mine := (s0.groups.filter fun x => s0.wgAgent x.1.wg == t).map Prod.fst
  let s := mine.foldl (fun s g => s.forceOwed g (Target.uses line)) s0
  if mine.any fun g => s.owes g (Target.uses line) then none
  else
    let s1 : Option State := match t with
      | .block _ _ => some s
      | _ => s.drainHost? (fun x => x.lines.contains line && !(linesOf x.pa x.data.length).contains line) s.hostPend.length
    s1.bind fun s =>
      ((s.cancelStores line).drain? fun p => p.lines.contains line && lineOf p.pa != line && s.wgAgent p.src == t).map
        fun s => s.dropTrans t line

/-- The same for every sharer of a line. -/
def State.tinvalAll (s : State) (line : Nat) : Option State :=
  (s.dirEnt line).tsh.foldl (fun (a : Option State) t => a.bind fun s => s.sendTinval t line) (some s)

/-! ### Requests of the host (R365, R399, R400) -/

/-- What a host request is ordered by (R400): its agent, attribute, whether it writes, and its lines, of physical memory or of
the addresses of a context. -/
def reqOrder : HostReq → Option (Nat × HostAttr × Bool × Option Nat × List Nat)
  | .read a _ pa n t => some (a, t, false, none, linesOf pa n)
  | .write a _ pa n _ t => some (a, t, true, none, linesOf pa n)
  | .vread a _ c va n t => some (a, t, false, some c, linesOf va n)
  | .vwrite a _ c va n _ t => some (a, t, true, some c, linesOf va n)
  | _ => none

/-- Whether request `x`, which arrived after `y`, may not go ahead of it: a read marked acq returns before later requests of
its agent, a write marked rel performs after its agent's earlier writes, and requests for a line are in arrival order
(R400). -/
def reqFollows (x y : HostReq) : Bool :=
  match reqOrder x, reqOrder y with
  | some (a, t, w, c, ls), some (b, u, v, d, ms) =>
    (a == b && ((u == .acq && !v) || (t == .rel && w && v))) || (c == d && ls.any ms.contains)
  | _, _ => false

/-- The host takes part in a line: a reader shares it, and an owner that a reader finds keeps it shared (R396). -/
def hostShares (e : DirEnt) : DirEnt :=
  { e with host := if e.host = .i then .s else e.host, st := match e.st with | .i => .s | .m | .e => .o | st => st }

/-- A host request for bytes of physical memory (R400): none while it must wait behind a queued write to its lines. A write
is queued and performs at its home; an untracked access leaves the directory alone (R372). -/
def State.hostPlain (s : State) (agent pa n : Nat) (w : Option Nat) (attr : HostAttr) (trk : Bool) (lines : List Nat)
    (asid : Option Nat) : Option State :=
  match w with
  | none =>
    if s.hostPend.any fun x => (linesOf x.pa x.data.length).any (linesOf pa n).contains then none
    else some (if trk then (linesOf pa n).foldl (fun s l => s.modDir l hostShares) s else s)
  | some v =>
    some { s with hostPend := s.hostPend ++ [{ agent := agent + 1, rel := attr == .rel, trk := trk, pa := pa, data := toBytes n v
                                               lines := lines, asid := asid }] }

/-- What became of a host request: it is done, or waits, for the page service of hold 1 plus a number, or, 0, for the device. -/
abbrev HostTry := State × Option Nat

/-- A request of a host agent for an address of context `c`, which the cache of its port translates (R365); on a PAGE it waits
for service with AGENT 101 (R374), on another fault it is not performed. -/
def State.hostVirtual (s : State) (agent die c va n : Nat) (w : Option Nat) (attr : HostAttr) : HostTry :=
  let (asid, root) := agetD (0, 0) s.fe.troots c
  let sp : Space := { t := .front die, asid := asid, root := root, vf := (s.grid c).vf, host := true }
  let k : Acc4 := if w.isSome then .write else .read
  match s.access sp va k with
  | (s1, .ok tr) =>
    (match s1.hostPlain agent (tr.pa va) n w attr tr.trk tr.lines (some asid) with
     | some s2 => (s2, none)
     | none => (s, some 0))
  | (s1, .fault .page) =>
    let id := s1.nextHandle
    ((({ s1 with nextHandle := id + 1 } : State).hold { who := .host id, va := va, asid := asid, kind := k, ctx := c }).2, some id)
  | (s1, .fault _) => (s1, none)
  | (_, .wait) => (s, some 0)

/-- Lines leave every way of every die. -/
def State.uncache (s : State) (line : Nat) : State :=
  (List.range s.dies.length).foldl (fun s d => s.l2Drop d fun _ y => y.line == line) s

/-- The host reclaims a line of its own that the device does not answer for: the device holds it no more, and one that it
held modified is lost and marked poisoned (R401, R416). -/
def State.reclaim (s : State) (line : Nat) : State :=
  let e := s.dirEnt line
  if !hostLine line then s
  else
    let gs := if e.st = .m ∨ e.st = .o then (List.range 4).map (4 * line + ·) else []
    let s1 := ((s.beforeMark (memGranules gs)).getD s).modDir line fun e => { e with st := .i, l1 := [], l1bad := [], copy := [], dies := [] }
    let s1 := s1.uncache line
    { s1 with poison := s1.poison ++ gs.filter fun g => !s1.poison.contains g }

/-- A firmware core writes: the policy core physical memory; a runner its own tightly coupled memory, or, from 65536 on,
physical memory that a window of its table covers (R1, R430). -/
def State.firmWrite (s : State) (core addr n v : Nat) : State :=
  if core = 0 then s.homeWrite addr (toBytes n v)
  else if 6 < core then s
  else if addr + n ≤ 65536 then
    { s with fe := { s.fe with tcm := csetList none s.fe.tcm (65536 * core + addr) ((toBytes n v).map some) } }
  else if 65536 ≤ addr ∧ s.fe.windows.any fun w => w.2.1 ≤ addr - 65536 && addr - 65536 + n ≤ w.2.1 + w.2.2 then
    s.homeWrite (addr - 65536) (toBytes n v)
  else s

/-- A line comes to be held by the host, alone or with others; every other holder gives it up first when alone (R396, R399).
None while one cannot. -/
def State.hostOwn (s : State) (line : Nat) (alone : Bool) : Option State :=
  if hostLine line then some s
  else if !alone then some (s.modDir line hostShares)
  else
    let es := (s.dirEnt line).l1.map Prod.fst
    if s.storeWaits line ∨ !(es.all fun c => s.mayInvalidate c line) then none
    else
      ((es.foldl (fun s c => s.invalidate c line) s).tinvalAll line).map fun s1 =>
        (s1.uncache line).modDir line fun e => { e with host := .m, st := .i, dies := [] }

/-- A request of a host agent, of a peer or of a firmware core (R1, R206, R279, R399, R400), with the requests `before` it
that wait. What a firmware core reads it keeps itself; none runs before the monitor has set the policy core's PMP, behind
which its own memory lies (R429). -/
def State.hostTry (s : State) (before : List (Nat × HostReq)) (r : HostReq) : HostTry :=
  let plain (a pa n : Nat) (w : Option Nat) (t : HostAttr) : HostTry :=
    match s.hostPlain a pa n w t true [] none with
    | some s1 => (s1, none)
    | none => (s, some 0)
  if before.any fun y => reqFollows r y.2 then (s, some 0)
  else
    match r with
    | .read a _ pa n t => plain a pa n none t
    | .write a _ pa n v t => plain a pa n (some v) t
    | .vread a d c va n t => s.hostVirtual a d c va n none t
    | .vwrite a d c va n v t => s.hostVirtual a d c va n (some v) t
    | .own line alone =>
      (match s.hostOwn line alone with
       | some s1 => (s1, none)
       | none => (s, some 0))
    | .drop line => (s.modDir line fun e => { e with host := .i }, none)
    | .peerAck k => ({ s with peerOut := ldel s.peerOut k }, none)
    | .orphan line => (s.reclaim line, none)
    | .firmRead _ _ _ => (s, none)
    | .firmWrite core addr n v => (if s.trust.pmp then s.firmWrite core addr n v else s, none)

/-- A request comes in. -/
def State.hostDo (s : State) (r : HostReq) : State :=
  match s.hostTry s.hostWait r with
  | (s1, none) => s1
  | (s1, some id) => { s1 with hostWait := s1.hostWait ++ [(id, r)] }

/-- The waiting requests of hold `id` are tried again, each behind those that came before it (R370, R400). -/
def State.retryHost (s : State) (id : Nat) : State :=
  s.hostWait.foldl (fun s x =>
    if x.1 ≠ id then s
    else
      let i := s.hostWait.findIdx (· == x)
      match s.hostWait[i]? with
      | none => s
      | some _ =>
        match s.hostTry (s.hostWait.take i) x.2 with
        | (s1, none) => { s1 with hostWait := ldel s1.hostWait i }
        | (s1, some id') => { s1 with hostWait := lset s1.hostWait i (id', x.2) }) s

/-- Replay one held access whose context is on its core (R303). -/
def State.serve (s : State) (h : Nat) (x : Held) (trickle : Bool) : State :=
  let gone : State := { s with holds := adel s.holds h }
  match x.who with
  | .lane g k =>
    (match (s.group g).log.find? fun e => e.handle == k with
     | some e => s.replayLanes g e trickle
     | none => gone)
  | .scalar a => s.replayScalar a h
  | .fetch _ => gone
  | .tile g n =>
    gone.modGroup g fun y => { y with
      cmds := y.cmds.map fun c => if c.num = n ∧ c.hold = some h then { c with hold := none } else c }
  | .chit w i =>
    gone.modWg w fun y => { y with chits := y.chits.map fun c => if c.idx = i ∧ c.hold = some h then { c with hold := none } else c }
  | .store w i =>
    (match s.pend.find? fun p => p.src == w && p.sid == i with
     | some p => gone.retryStore p
     | none => gone)
  | .host n => gone.retryHost n
  | .front _ _ => gone.repost h false

/-- The scale vector of a command that an address lies in, as the words that name it read it (R238, R253). -/
def TileCmd.vecAt (c : TileCmd) (x : Wg) (va : Nat) : Option Nat :=
  (c.allOps.find? fun o => (x.pred.vecBytes o).any fun b => decide (b.2.1 ≤ va) && decide (va < b.2.1 + b.2.2)).bind TileOp.vec

/-- Deliver a declined service as a precise PAGE (R303): the logged access is performed again when the handler resumes
its stream. While an earlier word of the stream is outstanding the fault waits (R67, R299). Of the grid sequencer, which has
no handler, it is a fault like another: its node fails with event kind 0x03 (R346; log entry 68). A command or chit reports
PAGE to its group, and reads again after the handler. The front end treats it as a fault of its access, and a host agent's
request is not performed. -/
def State.decline (s : State) (h : Nat) (x : Held) : State :=
  let gone : State := { s with holds := adel s.holds h }
  let later : State := { s with holds := aput s.holds h { x with declined := true, ready := true } }
  match x.who with
  | .lane g k =>
    (match (s.group g).log.find? fun e => e.handle == k with
     | some e =>
       let a := g.lane (e.frag.getD 0)
       if s.outs a ≠ [] then later else
       let s1 := gone.modGroup g fun y => { y with log := y.log.map fun z => if z.handle = k then { z with pageLanes := 0 } else z }
       s1.takeFault a { s1.record a cPAGE x.va with waddr := e.waddr }
     | none => gone)
  | .scalar a =>
    if (s.seq a).behind (· == .paged h) then later else
    let e := (s.group (s.grpId a)).log.find? fun e => e.handle == h && e.frag.isNone
    let r := gone.record a cPAGE x.va
    gone.takeFault a (match e with | some e => { r with waddr := e.waddr } | none => r)
  | .fetch a => if s.outs a ≠ [] then later else gone.takeFault a (gone.record a cPAGE x.va)
  | .tile g n =>
    (match (s.group g).cmd n with
     | some c =>
       let f : TFault := { cause := cPAGE, info := x.va, addr := x.va, blame := .vec ((c.vecAt (s.wg g.wg) x.va).getD 0) }
       gone.deliver g (s.tileReport g (if c.st = .done ∧ c.tail ≠ [] then { c with origins := c.origins.take 1 } else c) f cPAGE)
     | none => gone)
  | .chit w i =>
    (match (s.wg w).chits.find? fun c => c.idx == i with
     | some c =>
       let r := s.chitFail w c cPAGE x.va
       gone.deliver ⟨w.c, w.w, c.grp⟩ { r with fr := { r.fr with cause := cPAGE } }
     | none => gone)
  | .store w i =>
    (match s.pend.find? fun p => p.src == w && p.sid == i with
     | some p =>
       let s1 : State := { gone with pend := gone.pend.map fun y => if y.sid = i then { y with faulted := true } else y }
       s1.takeFault (⟨w.c, w.w, p.grp⟩ : GrpId).stream (s1.storeRecord p x.va)
     | none => gone)
  | .host n => { gone with hostWait := gone.hostWait.filter fun y => y.1 != n }
  | .front _ _ =>
    if s.fe.evWait.any fun e => e.1 == h then gone.repost h true
    else { s with holds := aput s.holds h { x with declined := true } }

/-- Act on a disposed request; a replay that a page-table store or a home holds up stays ready to be tried again (R370). -/
def State.dispose (s : State) (h : Nat) (x : Held) (trickle : Bool) : State :=
  if x.declined then s.decline h x
  else
    let s1 := s.serve h x trickle
    match aget? s1.holds h with
    | some y => { s1 with holds := aput s1.holds h { y with ready := true, trickle := trickle } }
    | none => s1

/-- Act on what was disposed of while it could not be acted on, where `p` selects it (R314, R370, R376). -/
def State.serveWhere (s : State) (p : Held → Bool) : State :=
  (s.holds.filter fun x => x.2.ready && p x.2).foldl
    (fun s x => match aget? s.holds x.1 with
      | some y => if y.ready then s.dispose x.1 y y.trickle else s
      | none => s) s

/-- What was disposed of while a context was away. -/
def State.serveReady (s : State) (w : WgId) : State := s.serveWhere fun x => s.holderWg x == some w

/-- What waited for a write to perform goes on: replays, walks of host requests and of entries of the front end (R370). -/
def State.wakeWaits (s : State) : State :=
  ((s.serveWhere s.holderHere).retryHost 0).retryEntries

/-- STATE of a save image's header (R380). -/
def State.setImageState (s : State) (image st : Nat) : State :=
  if image = 0 then s else s.homeWrite (image + 3) (toBytes 1 (s.memNat (image + 3) 1 % 32 + 32 * st))

/-- Contexts that NOFRAME stopped may be placed again, and their grid sequencer goes on (R376). -/
def State.frameFound (s : State) (c : Nat) : State :=
  let ws := (s.wgs.filter fun x => x.1.c == c && x.2.place == .noframe).map Prod.fst
  (ws.foldl (fun s w => (s.modWg w fun x => { x with place := .saved }).setImageState (s.wg w).image 0) s).modGrid c
    fun g => { g with noframe := false }

/-- REPLAY with CODE 00 (R375). -/
def execReplayServiced (h : Nat) (trickle : Bool) (s : State) : Out :=
  match aget? s.holds h with
  | none => .next s
  | some x =>
    let s1 := if x.noframe then s.frameFound x.ctx else s
    let x1 := { x with trickle := trickle, noframe := false, declined := false }
    if s1.holderHere x1 then .next ((s1.dispose h x1 trickle).serveWhere fun y => x.noframe && y.ctx == x.ctx && s1.holderHere y)
    else .next { s1 with holds := aput s1.holds h { x1 with ready := true } }

/-- REPLAY with CODE 01 (R303, R375). A context that NOFRAME stopped stays unplaced until CODE 00 (R376). -/
def execReplayDeclined (h : Nat) (s : State) : Out :=
  match aget? s.holds h with
  | none => .next s
  | some x =>
    if s.holderHere x then .next (s.decline h x)
    else .next { s with holds := aput s.holds h { x with ready := true, declined := true } }

/-! ### Translation caches (R367 to R370, R373) -/

/-- ASIDKILL (R373): accesses that used a translation of the address space perform, queued writes of the host and the front
end among them, then every such translation and window is dropped; none while one of them must wait. -/
def execAsidkill (asid : Nat) (s : State) : Out :=
  let of (c : Nat) : Bool := (agetD (0, 0) s.fe.troots c).1 == asid
  let drop (w : Window) : Window := if w.st = .bound then { w with st := .dropped } else w
  let dropAll (y : Group) : Group :=
    { y with
      win := y.win.map fun x => (x.1, drop x.2)
      laneQ := y.laneQ.map fun b => { b with wins := b.wins.map drop }
      blk := y.blk.map fun b => { b with wins := b.wins.map drop } }
  let gs := (s.groups.map Prod.fst).filter fun g => of g.c
  let s0 := gs.foldl (fun s g => s.forceOwed g fun _ _ => true) s
  if gs.any fun g => s0.owes g then .next s else
  match (s0.drainHost? (fun x => x.asid == some asid) s0.hostPend.length).bind fun s1 => s1.drain? fun p => of p.src.c with
  | none => .next s
  | some s1 =>
    let s2 := gs.foldl (fun s g => s.forceReads g fun _ _ => true) s1
    .next { s2 with
      fe := { s2.fe with killedAsids := if s2.fe.killedAsids.contains asid then s2.fe.killedAsids else s2.fe.killedAsids ++ [asid] }
      tlb := s2.tlb.map fun x => (x.1, x.2.filter (·.asid != asid))
      groups := s2.groups.map fun x => if of x.1.c then (x.1, dropAll x.2) else x }

/-- A sharer acknowledges the invalidation of a line that a write waits to change (R367, R368). -/
def execTinval (t : TAgent) (line : Nat) (s : State) : Out :=
  if !(s.dirEnt line).tsh.contains t ∨ !s.storeWaits line then .next s
  else
    match s.sendTinval t line with
    | none => .next s
    | some s1 => .next (s1.modDir line fun e => { e with want := true })

/-- A page-table store performs once every sharer has acknowledged (R367, R369). -/
def execPageTableStorePerform (k : Nat) (s : State) : Out :=
  match s.pend[k]? with
  | none => .next s
  | some p => .next (if (s.dirEnt (lineOf p.pa)).want ∧ s.mayPerform k then (s.performPend k).wakeWaits else s)

/-- Accepted store `k` performs at its home (R282, R284), a cancelled one translates again (R368); after the cores' stores
come the writes that wait at their home. -/
def execWritePerform (k : Nat) (s : State) : Out :=
  match s.pend[k]? with
  | some p =>
    if p.again then .next (if s.behindCancelled p then s else s.retryStore p)
    else .next (if !(s.dirEnt (lineOf p.pa)).want ∧ s.mayPerform k then (s.performPend k).wakeWaits else s)
  | none =>
    .next (((s.performHost (k - s.pend.length)).map State.wakeWaits).getD s)

/-! ### L1 and the directory (R284, R287) -/

/-- An invalidation reaches a core for a line that another agent's write waits to change; the core acknowledges it unless
its stale area is full (R287). -/
def execL1Invalidation (core : CoreId) (line : Nat) (s : State) : Out :=
  let wanted := (s.pend.any fun p => lineOf p.pa == line && (s.wg p.src).core != core) ||
    s.hostPend.any fun x => (linesOf x.pa x.data.length).contains line
  .next (if wanted ∧ ((s.dirEnt line).l1.any fun x => x.1 == core) ∧ s.mayInvalidate core line then
    (s.invalidate core line).wakeWaits else s)

/-- L1 of a core evicts a line, where it can (R287). -/
def execL1Eviction (core : CoreId) (line : Nat) (s : State) : Out := .next ((s.evictL1 core line).getD s)

/-- A directory entry is evicted: its L1 sharers, remote ways and translation sharers are invalidated first, and the host's
copy (R287, R367, R396). -/
def execDirectoryEviction (line : Nat) (s : State) : Out :=
  if !s.lineFree none line ∨ s.storeWaits line then .next s
  else
    let s1 := ((s.dirEnt line).l1.map Prod.fst).foldl (fun s c => s.invalidate c line) s
    match s1.tinvalAll line with
    | none => .next s
    | some s2 =>
      let pts := (s2.dirEnt line).pts
      .next ((s2.uncache line).setDir line { pts := pts })

/-! ### The host (R365, R399, R400) -/

/-- A host snoop of a host-homed line that the device caches: with `invalidate` every copy goes, translations included;
otherwise copies become shared. -/
def execHostSnoop (line : Nat) (invalidate : Bool) (s : State) : Out :=
  let e := s.dirEnt line
  if !hostLine line then .next s
  else if !invalidate then .next (if e.st = .i then s else s.modDir line fun e => { e with st := .s })
  else if !s.lineFree none line then .next s
  else
    let s1 := (e.l1.map Prod.fst).foldl (fun s c => s.invalidate c line) s
    match s1.tinvalAll line with
    | none => .next s
    | some s2 => .next ((s2.uncache line).modDir line fun e => { e with st := .i, dies := [] })

/-- A request of the host, of a peer or of a firmware core. -/
def execHostRequest (r : HostReq) (s : State) : Out := .next (s.hostDo r).wakeWaits

/-! ### Transfers from peers (R206) -/

/-- The pieces of a transfer's bytes that translate for a write, in the address space of the job's context; none while a
walk must wait for a page-table store. -/
def State.arrivePieces (s : State) (job : Nat) : List (Nat × Nat) → Option (State × List Piece)
  | [] => some (s, [])
  | (va, n) :: l =>
    let (asid, root) := agetD (0, 0) s.fe.troots job
    match s.access { t := .front 0, asid := asid, root := root, vf := (s.grid job).vf } va .write with
    | (s1, .ok tr) => (s1.arrivePieces job l).map fun r => (r.1, ⟨va, tr.pa va, n, tr.trk⟩ :: r.2)
    | (s1, .fault _) => s1.arrivePieces job l
    | (_, .wait) => none

/-- Write bytes at the physical addresses `pas`, consecutive ones at once. -/
def State.putAt (s : State) (trk : Bool) : Nat → List Nat → List Byte → Option State
  | 0, _, _ | _, [], _ => some s
  | k + 1, a :: l, bs =>
    let n := ((a :: l).zipIdx.takeWhile fun x => x.1 == a + x.2).length
    (s.homeWrite? .outside trk a (bs.take n)).bind fun s1 => s1.putAt trk k ((a :: l).drop n) (bs.drop n)

/-- Elements of `w` bits that arrive from bit `b` on, in order, each written or added whole; one with a byte that does not
translate is not written. None while one must wait at its home. -/
def State.arriveElems (s : State) (ps : List Piece) (f : Nat) (add : Bool) : Nat → List Nat → Option State
  | _, [] => some s
  | b, x :: l =>
    let w := fmtBits f
    let at' (a : Nat) : Option (Nat × Bool) := (ps.find? fun p => p.va ≤ a && a < p.va + p.n).map fun p => (p.pa + (a - p.va), p.trk)
    let pas := ((List.range ((b % 8 + w + 7) / 8)).map fun i => at' (b / 8 + i))
    if pas.any Option.isNone then s.arriveElems ps f add (b + w) l
    else
      let pas := pas.filterMap id
      let old := ofBytes (pas.map fun p => cget 0 s.mem p.1)
      let e := old / 2 ^ (b % 8) % 2 ^ w
      let new := if add then (fmtEncode f .rne false false (addNum .rne (fmtDecode (fun _ => 0) f e) (fmtDecode (fun _ => 0) f x))).1
        else x
      (s.putAt (pas.any (·.2)) pas.length (pas.map Prod.fst) (toBytes pas.length (setBits old (b % 8) w new))).bind fun s1 =>
        s1.arriveElems ps f add (b + w) l

/-- A transfer that has arrived performs from bit `bit` of the job's space on, with the marks of its poisoned elements (R416). -/
def State.arrive (s : State) (job bit f : Nat) (add : Bool) (elems : List (Nat × Bool)) : Option State :=
  let w := fmtBits f
  let (a, n) := bitRange w bit elems.length
  (s.arrivePieces job (pagePieces a (n / 4096 + 2) n)).bind fun (s1, ps) =>
    let pa (g : Nat) : Option Nat := (ps.find? fun p => p.va ≤ 32 * g + 31 && 32 * g < p.va + p.n).map fun p => (p.pa + 32 * g - p.va) / 32
    let bad (g : Nat) : Bool := ((pa g).map s1.poison.contains).getD false
    let (ms, _) := marksAfter [] id bad w bit elems
    let new := (ms.filter fun g => !bad g).filterMap pa
    ((if new = [] then some s1 else s1.beforeMark (memGranules new)).bind fun s1 => s1.arriveElems ps f add bit (elems.map Prod.fst)).map fun s2 =>
      { s2 with poison := remark s2.poison ((granules w bit elems.length).filterMap pa) (ms.filterMap pa) }

/-- An rput or rred of a peer performs here, in the address space of the job's context (R206); while it must wait it stays
in the fabric. It is an input of the job's node: captured, and in a re-run the captured one arrives (R423, R424). -/
def execRemoteTransferArrival (job bit f : Nat) (reduce : Bool) (elems : List (Nat × Bool)) (s : State) : Out :=
  let given : CapEv := .arrive bit f reduce elems
  let e := (s.nextInput job given.key).getD given
  match s.ordered job e, e with
  | some s1, .arrive bit f reduce elems => .next ((s1.arrive job bit f reduce elems).getD s)
  | _, _ => .next s

/-! ### Footfall (R371) -/

/-- A counter that has reached the threshold posts an event and is halved. Unit 16 and those above are host-facing agents. -/
def execFootfallThreshold (unit region : Nat) (s : State) : Out :=
  let k := 2 ^ 40 * unit + region
  let v := cget 0 s.fe.foot k
  let n := v % 65536
  if s.fe.fthr = 0 ∨ n < s.fe.fthr then .next s
  else
    let note := v / 65536
    let e := region % 2 ^ 36 + note % 2 ^ 16 * 2 ^ 80 + note / 2 ^ 18 % 2 * 2 ^ 108 +
      (if 16 ≤ unit then 2 ^ 109 else 0) + note / 2 ^ 16 % 4 * 2 ^ 110 + n * 2 ^ 112
    let (s1, r) := s.ringPost s.fe.fevq (toBytes 16 e)
    .next { s1 with fe := { s1.fe with fevq := r, foot := cset 0 s1.fe.foot k (n / 2 + 65536 * note) } }

end Sys2Proof.Machine
end

