-- ==== Sys2Proof/Machine/Load.lean ====
section
/-!
DEFINITION. Accesses of the front end that may wait for service (R333), and the trusted loader: code objects (R348 to
R351), variants (R352, R353), resources (R354), signatures (R431) and refusals (R358).
-/
namespace Sys2Proof.Machine

/-! ### Front-end accesses -/

/-- The outcome of a front-end access or of a chain of them. -/
inductive FeR (α : Type) where
  | ok (s : State) (x : α)
  | fault (s : State) (f : XFault) (va : Nat)
  | wait (s : State)

/-- Whether a held access is the read, or the node's access, of a front-end holder; held event writes are not. -/
def feMine (w : Holder) (x : Held) : Bool :=
  x.who == w && (match w with | .front true _ => x.kind == .read | _ => true)

/-- Whether an access that has not been disposed of is held for a holder. -/
def State.heldFor (s : State) (w : Holder) : Bool := s.holds.any fun x => feMine w x.2 && !x.2.declined

/-- A PAGE of a front-end access is held for service. -/
def State.fePage {α : Type} (s : State) (w : Holder) (asid va : Nat) (k : Acc4) : FeR α :=
  .wait (s.hold { who := w, va := va, asid := asid, kind := k, ctx := 64 }).2

/-- The declined access of a holder at an address of the `n` bytes from `va` on. -/
def State.declinedAt (s : State) (w : Holder) (va n : Nat) : Option Nat :=
  (s.holds.find? fun x => feMine w x.2 && x.2.declined && va ≤ x.2.va && x.2.va < va + n).map Prod.fst

/-- A chain of accesses ends: the lines it kept and its declined accesses go. -/
def State.feDone (s : State) (w : Holder) : State :=
  { s with
    fe := { s.fe with kept := s.fe.kept.filter fun x => x.1 != w }
    holds := s.holds.filter fun x => !(feMine w x.2 && x.2.declined) }

/-- Where a chain of reads takes a line from before memory: the inputs of a capture, in a re-run (R424). -/
abbrev Given := Nat → Option (List Byte)

/-- Read the pieces of a byte range in a front-end address space, each once: a chain that a PAGE interrupts keeps what it
has read (R327, R338). A declined access is a fault of its own, whatever the tables now say (R333). -/
def State.feGet (s : State) (w : Holder) (vf : Nat) (l : List (Nat × Nat)) (keep : Bool := true) (given : Given := fun _ => none) :
    FeR (List Byte) :=
  match l with
  | [] => .ok s []
  | (va, n) :: l =>
    let more (s : State) (bs : List Byte) : FeR (List Byte) :=
      match s.feGet w vf l keep given with
      | .ok s2 cs => .ok s2 (bs ++ cs)
      | r => r
    match given va, s.fe.kept.find? fun x => keep && x.1 == w && x.2.1 == va && x.2.2.length == n with
    | some bs, _ => more s (bs.take n)
    | none, some x => more s x.2.2
    | none, none =>
      match s.declinedAt w va n with
      | some h => .fault { s with holds := adel s.holds h } .page va
      | none =>
        match s.access (s.feSpace vf) va .read with
        | (s1, .ok tr) =>
          if (s1.poisonAt (tr.pa va) n).isSome then .fault s1 .poison va
          else
            let bs := s1.memBytes (tr.pa va) n
            more (if keep then { s1 with fe := { s1.fe with kept := s1.fe.kept ++ [(w, va, bs)] } } else s1) bs
        | (s1, .fault .page) => s1.fePage w (s1.feSpace vf).asid va .read
        | (s1, .fault f) => .fault s1 f va
        | (s1, .wait) => .wait s1

/-- Write pieces, each within one page, in an address space; `k` is the permission checked. -/
def State.fePut (s : State) (w : Holder) (sp : Space) (k : Acc4) : List (Nat × List Byte) → FeR Unit
  | [] => .ok s ()
  | (va, b) :: l =>
    match s.declinedAt w va b.length with
    | some h => .fault { s with holds := adel s.holds h } .page va
    | none =>
      match s.access sp va k with
      | (s1, .ok tr) => (s1.homeWrite (tr.pa va) b tr.trk tr.lines (some sp.asid)).fePut w sp k l
      | (s1, .fault .page) => s1.fePage w sp.asid va .write
      | (s1, .fault f) => .fault s1 f va
      | (s1, .wait) => .wait s1

/-- Bytes from an address on, in lines of 128 bytes. -/
def linesFrom (va : Nat) (bs : List Byte) : List (Nat × List Byte) := linePieces va (bs.length / 128 + 2) bs

/-- A byte range as pieces. -/
def rangePieces (va n : Nat) : List (Nat × Nat) := pagePieces va (n / 4096 + 2) n

/-! ### ELF64 (log entry 18) -/

/-- A little-endian field of a file. -/
def leAt (f : List Byte) (off n : Nat) : Nat := ofBytes ((f.drop off).take n)

/-- A section header. -/
structure Sect where
  ty : Nat := 0
  addr : Nat := 0
  off : Nat := 0
  size : Nat := 0
  link : Nat := 0
  info : Nat := 0
  deriving DecidableEq, Repr, Inhabited

def sectAt (f : List Byte) (o : Nat) : Sect :=
  { ty := leAt f (o + 4) 4, addr := leAt f (o + 16) 8, off := leAt f (o + 24) 8, size := leAt f (o + 32) 8,
    link := leAt f (o + 40) 4, info := leAt f (o + 44) 4 }

/-- The ELF header of R348. -/
def elfOk (f : List Byte) : Bool :=
  leAt f 0 4 == 0x464C457F && leAt f 4 1 == 2 && leAt f 5 1 == 1 && leAt f 16 2 == 3 && leAt f 18 2 == 0x9D47 &&
    leAt f 48 4 == 1 && leAt f 58 2 == 64

/-- The sections of a file whose headers start at `o`. -/
def sectsOf (f : List Byte) (o n : Nat) : List Sect := (List.range n).map fun i => sectAt f (o + 64 * i)

/-- Section type `0x7000_00xx`. -/
def drk (k : Nat) : Nat := 0x70000000 + k

/-- Contents of the section of a type, empty when missing. -/
def bodyOf (f : List Byte) (ss : List Sect) (k : Nat) : List Byte :=
  match ss.find? fun x => x.ty == drk k with
  | some x => (f.drop x.off).take x.size
  | none => []

/-- Bytes as numbers of `n` bytes. -/
def chunks (n : Nat) (k : Nat) (bs : List Byte) : List Nat := (List.range k).map fun i => leAt bs (n * i) n

/-! ### Relocation (R351) -/

/-- What has been laid out: section index, base address, contents. -/
abbrev Laid := List (Nat × Nat × List Byte)

/-- Lay the code sections and rodata out at 128-byte-aligned addresses (R46, R348). -/
def layOut (f : List Byte) (ss : List Sect) (area : Nat) : Laid :=
  go ([1, 2, 3, 4, 5, 12].filterMap fun k => (List.range ss.length).find? fun i => (ss.getD i {}).ty == drk k) area
where
  go : List Nat → Nat → Laid
    | [], _ => []
    | i :: l, a =>
      let x := ss.getD i {}
      (i, a, (f.drop x.off).take x.size) :: go l ((a + x.size + 127) / 128 * 128)

/-- Replace bytes at an offset. -/
def patch (b : List Byte) (o : Nat) (v : List Byte) : List Byte := b.take o ++ v ++ b.drop (o + v.length)

/-- The immediate of a control word replaced. -/
def imm20 (b : List Byte) (o v : Nat) : List Byte := patch b o (toBytes 4 (setBits (leAt b o 4) 0 20 v))

/-- The patched bytes of one relocation; none when it is refused. -/
def relocate (b : List Byte) (o ty v : Nat) : Option (List Byte) :=
  match ty with
  | 1 => some (patch b o (toBytes 8 v))
  | 2 => some (imm20 (imm20 (imm20 (imm20 b o (bits v 63 60)) (o + 4) (bits v 59 40)) (o + 8) (bits v 39 20)) (o + 12) (bits v 19 0))
  | 3 => if v < 2 ^ 32 then some (patch b o (toBytes 4 v)) else none
  | _ => none

/-- Loaded address of a symbol. -/
def symAddr (f : List Byte) (ss : List Sect) (ld : Laid) (tab i : Nat) : Nat :=
  let o := (ss.getD tab {}).off + 24 * i
  let v := leAt f (o + 8) 8
  let sh := leAt f (o + 6) 2
  match ld.find? fun x => x.1 == sh with
  | some x => x.2.1 + (v - (ss.getD sh {}).addr)
  | none => v

/-- Apply every relocation; none when one is refused. -/
def relocAll (f : List Byte) (ss : List Sect) (ld : Laid) : Option Laid :=
  let rs : List (Sect × Nat) := (ss.filter fun x => x.ty == 4).flatMap fun x =>
    (List.range (x.size / 24)).map fun i => (x, x.off + 24 * i)
  rs.foldl
    (fun (a : Option Laid) r => match a with
      | none => none
      | some l =>
        let o := leAt f r.2 8
        let info := leAt f (r.2 + 8) 8
        let v := (symAddr f ss ld r.1.link (info / 2 ^ 32) + leAt f (r.2 + 16) 8) % 2 ^ 64
        match l.find? fun x => x.1 == r.1.info with
        | none =>
          -- in a section that is not placed nothing is patched, but the type and the value are judged
          (relocate [] 0 (info % 2 ^ 32) v).map fun _ => l
        | some x =>
          (relocate x.2.2 (o - (ss.getD x.1 {}).addr) (info % 2 ^ 32) v).map fun b =>
            l.map fun y => if y.1 = x.1 then (y.1, y.2.1, b) else y)
    (some ld)

/-! ### The checks (R358) -/

/-- What a launch asks for, from the node record. -/
structure Launch where
  vf : Nat
  total : Nat
  pw : Nat
  ph : Nat
  dgrant : Nat
  key : Option (List Byte) := none
  dies : List Die := []

/-- Signature of R431: absent and failing signatures are refused when a key is registered. -/
def signedOk (f : List Byte) (ss : List Sect) (key : Option (List Byte)) : Bool :=
  match key with
  | none => true
  | some k =>
    match ss.find? fun x => x.ty == drk 13 with
    | none => false
    | some x =>
      let sig := (f.drop x.off).take x.size
      let msg := patch f x.off (List.replicate x.size 0)
      x.size == 1720 && P384.verify (k.take 97) (sha384 msg) (sig.take 96) && Hss.verify (k.drop 97) msg (sig.drop 96)

/-- Variant entries of 32 bytes and place entries of 8 bytes: pins of the chosen variant (R353). -/
def pickVariant (vs ps : List Nat) (dies : List Die) : Option (List (Nat × CoreId)) :=
  if vs = [] then (if ps = [] then some [] else none)
  else if 8 < vs.length ∨ vs.any (fun v => bits v 255 130 != 0) ∨
      ps.any (fun p => bits p 31 19 != 0 || bits p 7 2 != 0 || decide (11 < bits p 15 12) || decide (11 < bits p 11 8) ||
        decide (vs.length ≤ bits p 18 16)) ∨
      (List.range ps.length).any (fun i => (List.range i).any fun j =>
        bits (ps.getD i 0) 63 32 == bits (ps.getD j 0) 63 32 && bits (ps.getD i 0) 18 16 == bits (ps.getD j 0) 18 16) then none
  else
    ((List.range vs.length).find? fun i =>
      let v := vs.getD i 0
      (dies.getD (bits v 129 128) {}).defsig &&& bits v 63 0 == bits v 127 64).map fun i =>
      (ps.filter fun p => bits p 18 16 == i).map fun p => (bits p 63 32, ⟨bits p 1 0, bits p 11 8, bits p 15 12⟩)

/-- Whether a pinned rectangle crosses its die's edge or holds a core out of service. -/
def pinBad (dies : List Die) (pw ph : Nat) (c : CoreId) : Bool :=
  decide (12 < c.x + pw) || decide (12 < c.y + ph) ||
    (dies.getD c.die {}).out.any fun o => c.x ≤ o.1 && o.1 < c.x + pw && c.y ≤ o.2 && o.2 < c.y + ph

/-- The kernel that a descriptor and its tables describe (R349), without placed addresses. -/
def kernelOf (f : List Byte) (ss : List Sect) : KObj :=
  let d := leAt (bodyOf f ss 6) 0 16
  let words (k : Nat) (n : Nat) := (bodyOf f ss k).length / n
  let rules := bodyOf f ss 9
  { len := [words 1 4, words 2 4, words 3 4, words 4 4, words 5 12], groups := bits d 3 0 + 1, vregs := 16 * (bits d 6 4 + 1)
    scratch := 128 * bits d 49 37, ring := bits d 36 26, copyq := bits d 25 19, draw := bits d 18 8
    shapes := chunks 16 (bits d 95 88) (bodyOf f ss 7)
    layouts := (chunks 64 (bits d 104 96) (bodyOf f ss 8)).map fun l => setBits l 0 57 0
    rules := chunks 16 (if rules = [] then 0 else bits (leAt rules 0 16) 23 16) (rules.drop 16) }

/-- Code 0x03 and 0x04: the descriptor and the shape records. -/
def descBad (f : List Byte) (ss : List Sect) : Bool :=
  let d := leAt (bodyOf f ss 6) 0 16
  (bodyOf f ss 6).length != 16 || bits d 127 105 != 0 || bits d 63 50 != 0 || bits d 7 7 != 0 ||
    decide (256 < bits d 104 96) || decide (128 < bits d 95 88) || decide (1048576 < bits d 87 64) ||
    decide ((bodyOf f ss 12).length < 8 * bits d 87 64) || decide ((bodyOf f ss 7).length < 16 * bits d 95 88) ||
    decide ((bodyOf f ss 8).length < 64 * bits d 104 96) ||
    (bits d 36 26 != 0 && (decide (bits d 36 26 < 64) || decide (1024 < bits d 36 26))) || decide (64 < bits d 25 19) ||
    decide (1600 < bits d 18 8) || (bits d 104 96 != 0 && bits d 36 26 == 0)
/-- A shape record outside the ranges of R218; its reserved bits are ignored (R7). -/
def shapeBad (n : Nat) : Bool := decide (256 < bits n 104 96) || decide (128 < bits n 95 88)

/-- Rule image of a code object (R248, R249): absent, or well-formed at an address aligned to 16. The object stands at a
multiple of 128 (R336), so that its place in the file decides the alignment (log entry 18). -/
def ruleImageBad (f : List Byte) (ss : List Sect) : Bool :=
  let b := bodyOf f ss 9
  b != [] &&
    ((ss.any fun x => x.ty == drk 9 && x.off % 16 != 0) || ruleHeadBad (leAt b 0 16) || decide (b.length < 16 + 16 * bits (leAt b 0 16) 23 16) ||
      (ruleFirstBad (chunks 16 (bits (leAt b 0 16) 23 16) (b.drop 16))).isSome)

/-- Check and lay out a code object for an area: the kernel and its bytes, or the refusal code (R350, R358). -/
def loadObject (f : List Byte) (ss : List Sect) (x : Launch) (area : Nat) : Except Nat (KObj × Laid) :=
  let dup (k : Nat) : Bool := decide (1 < (ss.filter fun z => z.ty == drk k).length)
  let k := kernelOf f ss
  let n := max 1 (x.pw * x.ph)
  let vs := bodyOf f ss 10
  let ps := bodyOf f ss 11
  let pins := if vs.length % 32 ≠ 0 ∨ ps.length % 8 ≠ 0 then none
    else pickVariant (chunks 32 (vs.length / 32) vs) (chunks 8 (ps.length / 8) ps) x.dies
  let ld := layOut f ss area
  if !elfOk f ∨ ((List.range 13).any fun i => dup (i + 1)) ∨ !(ss.any fun z => z.ty == drk 6) then .error 0x01
  else if !signedOk f ss x.key then .error 0x02
  else if descBad f ss then .error 0x03
  else if k.shapes.any shapeBad then .error 0x04
  else if ruleImageBad f ss then .error 0x05
  else
    match pins with
    | none => .error 0x06
    | some pins =>
      if pins.any fun p => pinBad x.dies (max 1 x.pw) (max 1 x.ph) p.2 then .error 0x07
      else if x.total % n ≠ 0 then .error 0x08
      else if 917504 < k.sram true ∨ 64 < k.copyq then .error 0x09
      else if x.dgrant < k.draw then .error 0x0A
      else
        match relocAll f ss ld with
        | none => .error 0x0B
        | some l =>
          let baseOf (t : Nat) : Nat := ((l.find? fun y => (ss.getD y.1 {}).ty == drk t).map fun y => y.2.1).getD area
          let ro := ((l.find? fun y => (ss.getD y.1 {}).ty == drk 12).map fun y => y.2.2).getD []
          .ok ({ k with
            base := [baseOf 1, baseOf 2, baseOf 3, baseOf 4, baseOf 5], pins := pins
            pool := (chunks 8 (bits (leAt (bodyOf f ss 6) 0 16) 87 64) ro).map (BitVec.ofNat 64) }, l)

/-- Whether the loader reads a section: SHT_SYMTAB, SHT_RELA, or one of Draesk's own types; it ignores others (R348). -/
def Sect.known (x : Sect) : Bool := x.ty == 2 || x.ty == 4 || (decide (drk 1 ≤ x.ty) && decide (x.ty ≤ drk 13))

/-- Whether a section has bytes in the file: SHT_NULL and SHT_NOBITS have none. -/
def Sect.inFile (x : Sect) : Bool := x.ty != 0 && x.ty != 8

/-- Read a code object: its header, its section headers, then the file as far as the sections that count reach, or, `whole`,
where it is signed, up to its end: that of the last section or header table (R431, log entry 18). -/
def State.readObject (s : State) (w : Holder) (vf va : Nat) (whole : Bool) : FeR (List Byte × List Sect) :=
  match s.feGet w vf (rangePieces va 64) with
  | .fault s1 f a => .fault s1 f a
  | .wait s1 => .wait s1
  | .ok s1 h =>
    let o := leAt h 40 8
    let n := leAt h 60 2
    if !elfOk h ∨ 2 ^ 40 ≤ o then .ok s1 (h, [])
    else
      match s1.feGet w vf (rangePieces (va + o) (64 * n)) with
      | .fault s2 f a => .fault s2 f a
      | .wait s2 => .wait s2
      | .ok s2 hs =>
        let ss := sectsOf hs 0 n
        let tables := max (o + 64 * n) (if whole then leAt h 32 8 + leAt h 54 2 * leAt h 56 2 else 64)
        let size := (ss.filter fun x => x.known || (whole && x.inFile)).foldl (fun m x => max m (x.off + x.size)) tables
        if 2 ^ 40 ≤ size then .ok s2 (h, [])
        else
          match s2.feGet w vf (rangePieces va size) with
          | .fault s3 f a => .fault s3 f a
          | .wait s3 => .wait s3
          | .ok s3 bs => .ok s3 (bs, ss)

end Sys2Proof.Machine
end

