-- ==== Sys2Proof/Machine/Front.lean ====
section
/-!
DEFINITION. Queues, wakes, node records and the graph (R326 to R342, R345, R347).
-/
namespace Sys2Proof.Machine

/-! ### The graph -/

def State.setNodes (s : State) (l : List Node) : State := { s with fe := { s.fe with nodes := l } }
def State.nodeOf (s : State) (n : Nat) : Option Node := s.fe.nodes.find? fun x => x.nid == n
def State.modNode (s : State) (n : Nat) (f : Node → Node) : State :=
  s.setNodes (s.fe.nodes.map fun x => if x.nid = n then f x else x)
def State.queue (s : State) (pq : Nat) : QDesc := agetD {} s.fe.queues pq
def State.setQueue (s : State) (pq : Nat) (d : QDesc) : State := { s with fe := { s.fe with queues := aput s.fe.queues pq d } }

/-- NODEID of a node's record (R334). -/
def Node.name (x : Node) : Nat := Sys2Proof.bits x.bits 671 640

/-- Nodes whose predecessors have completed become ready, in acceptance order (R342). -/
def readyUp (ord : Nat) : List Node → List Node × Nat
  | [] => ([], ord)
  | x :: l =>
    if x.st = .pending ∧ x.edges = [] then
      let r := readyUp (ord + 1) l
      ({ x with st := .ready, order := ord } :: r.1, r.2)
    else
      let r := readyUp ord l
      (x :: r.1, r.2)

/-- The node of a state that comes first in order. -/
def firstNode (l : List Node) (st : NodeSt) : Option Node :=
  (l.filter fun x => x.st == st).foldl
    (fun (a : Option Node) x => match a with
      | some z => if x.order < z.order then some x else a
      | none => some x) none

/-- Ready nodes enter the pool, in the order in which they became ready, while it has room (R342). -/
def State.fillPool (s : State) : Nat → State
  | 0 => s
  | k + 1 =>
    if Config.readyPool ≤ (s.fe.nodes.filter fun x => x.st == .pooled).length then s
    else
      match firstNode s.fe.nodes .ready with
      | none => s
      | some x =>
        let o := s.fe.nextOrder
        let s1 := s.modNode x.nid fun y => { y with st := .pooled, order := o, since := s.clock }
        ({ s1 with fe := { s1.fe with nextOrder := o + 1 } } : State).fillPool k

/-- Re-evaluate the graph (R342). -/
def State.promote (s : State) : State :=
  let r := readyUp s.fe.nextOrder s.fe.nodes
  let s1 : State := { s with fe := { s.fe with nodes := r.1, nextOrder := r.2 } }
  s1.fillPool s1.fe.nodes.length

/-- A node fails: an event is posted, and NODE_COMPLETE writes its failure signal (R345). -/
def State.failNode (s : State) (x : Node) (kind code : Nat) (r : FaultRec) : State :=
  (s.postEvent x.pq kind code x.name r).modNode x.nid fun y => { y with st := .failed, edges := [] }

/-- A node leaves the graph: explicit edges carry failure, the others are satisfied (R344, R345). -/
def State.dropNode (s : State) (x : Node) (failed : Bool) : State :=
  let s1 := s.setNodes (s.fe.nodes.filter fun y => y.nid != x.nid)
  let hit (y : Node) : Bool := y.st == .pending && failed && y.edges.contains (x.nid, true)
  let s2 := (s1.fe.nodes.filter hit).foldl (fun s y => s.failNode y 5 0 {}) s1
  (s2.setNodes (s2.fe.nodes.map fun y => { y with edges := y.edges.filter fun e => e.1 != x.nid })).promote

/-! ### Records (R334 to R336) -/

/-- PRED `i` of a record. -/
def predOf (r i : Nat) : Nat := bits r (703 + 32 * i) (672 + 32 * i)

/-- Reserved bits of a record, [63:57] and those of the address fields among them. -/
def recordReserved : List (Nat × Nat) :=
  [(1023, 800), (575, 569), (511, 476), (447, 427), (415, 404), (383, 380), (319, 313), (255, 249), (191, 185), (127, 121),
    (63, 57)]

/-- Whether a record is malformed by itself (R336). -/
def recordBad (r : Nat) : Bool :=
  let pw := bits r 387 384
  let ph := bits r 391 388
  recordReserved.any (fun x => bits r x.1 x.2 != 0) || bits r 120 64 == 0 ||
    [bits r 56 0, bits r 120 64, bits r 184 128, bits r 248 192, bits r 312 256].any (fun a => a % 128 != 0) ||
    bits r 568 512 % 8 != 0 || bits r 339 320 == 0 || bits r 359 340 == 0 || bits r 379 360 == 0 ||
    (pw == 0) != (ph == 0) || decide (24 < pw * ph) || decide (8 < bits r 395 392) || decide (8 < bits r 399 396) ||
    (bits r 395 392 != 0 && bits r 248 192 == 0) || (bits r 399 396 != 0 && bits r 312 256 == 0) ||
    decide (1600 < bits r 426 416) || decide (1048576 < bits r 468 448) || decide (32 < bits r 474 469)

/-- The used entries of a range line (R335). -/
def rangeEntries (line : List Byte) (n : Nat) : List Nat := chunks 16 n line
def rangeBad (e : Nat) : Bool := bits e 127 112 != 0 || bits e 63 57 != 0 || decide (2 ^ 57 < bits e 56 0 + bits e 111 64)

/-- A used range rounded outward to 256 bytes; an empty one overlaps nothing (R339). -/
def roundRange (e : Nat) : Option (Nat × Nat) :=
  let b := bits e 56 0
  let n := bits e 111 64
  if n = 0 then none else some (b / 256 * 256, (b + n + 255) / 256 * 256)

def rangesMeet (xs ys : List (Nat × Nat)) : Bool := xs.any fun a => ys.any fun b => a.1 < b.2 && b.1 < a.2

/-- Add a node to its domain's graph with its edges (R339, R340); a malformed one fails at once (R336). -/
def State.accept (s : State) (pq r : Nat) (rd wr : List Nat) (bad : Bool) (cap : Option Nat) : State :=
  let d := s.queue pq
  let nid := s.fe.nextNode
  let rdr := rd.filterMap roundRange
  let wrr := wr.filterMap roundRange
  let live (o : Node) : Bool := o.vf == d.vf && o.dom == d.dom && !o.bad && o.st != .complete
  let explicit (o : Node) : Bool := o.name != 0 && (List.range 4).any fun i => predOf r i == o.name
  let implicit (o : Node) : Bool := rangesMeet rdr o.wr || rangesMeet wrr o.rd || rangesMeet wrr o.wr
  let edges := (s.fe.nodes.filter live).filterMap fun o =>
    if explicit o then some (o.nid, true) else if implicit o then some (o.nid, false) else none
  let x : Node := { nid := nid, pq := pq, vf := d.vf, dom := d.dom, bits := r, rd := rdr, wr := wrr, edges := edges,
                    cls := min (bits r 401 400) d.pricap, bad := bad, cap := cap, rerun := d.rerun }
  let s1 : State := { s.setQueue pq { d with rerun := none } with
    fe := { (s.setQueue pq { d with rerun := none }).fe with nodes := s.fe.nodes ++ [x], nextNode := nid + 1 } }
  if bad then s1.failNode x 1 0 {} else s1.promote

/-! ### Wakes (R327, R328) -/

/-- Nodes that wait for predecessors (R341). -/
def State.waitingNodes (s : State) : Nat := (s.fe.nodes.filter fun x => x.st == .pending).length

/-- Take a wake away. -/
def State.dropWake (s : State) (k : Nat) : State := { s with fe := { s.fe with wakes := ldel s.fe.wakes k } }

/-- Read a range line that a record needs. -/
def State.readRanges (s : State) (w : Holder) (vf va n : Nat) (given : Given) : FeR (List Nat) :=
  if n = 0 then .ok s []
  else
    match s.feGet w vf [(va, 128)] true given with
    | .ok s1 bs => .ok s1 (rangeEntries bs n)
    | .fault s1 f a => .fault s1 f a
    | .wait s1 => .wait s1

/-- The bytes of an image. -/
def Img.bytes : Img → List Byte
  | .shipped k => Config.shipped k
  | .given bs => bs

/-- The running firmware images, and the DEFSIG of every die: what a re-run must find again (R424). -/
def State.identity (s : State) : List Nat × List Img :=
  (s.dies.map Die.defsig, [1, 2, 3].map fun k => (agetD {} s.trust.slots (k, cget 0 s.trust.running k - 1)).image)

/-- A capture begins for the next node of a queue in record mode, with its wake and the lines read for it (R423). -/
def State.newCapture (s : State) (pq t : Nat) (ls : List (Nat × List Byte)) : State × Option Nat :=
  let d := s.queue pq
  if !d.record ∨ d.rerun.isSome then (s, none)
  else
    let x : Capture := { sig := s.identity.1, images := s.identity.2, size := d.capSize }
    let x := (CapEv.wake pq t :: ls.map fun l => CapEv.lines l.1 l.2).foldl Capture.add x
    ({ s with fe := { s.fe with captures := s.fe.captures ++ [x] } }, some s.fe.captures.length)

/-- The lines of a capture: those read for the node, by their addresses, the record first. -/
def State.capturedLines (s : State) (k : Option Nat) : List (Nat × List Byte) :=
  match k with
  | none => []
  | some k => (s.fe.captures.getD k {}).evs.filterMap fun e => match e with
    | .lines va bs => some (va, bs)
    | _ => none

/-- The lines that a re-run supplies (R424). -/
def State.given (s : State) (k : Option Nat) : Given := fun va =>
  ((s.capturedLines k).find? fun x => x.1 == va).map Prod.snd

/-- Accept the record at `n`, on a wake with tail `t`, and make it the last one consumed; a read fault makes it malformed
(R333, R336, R337). A re-run takes its lines from the capture (R424). -/
def State.acceptAt (s : State) (pq n t : Nat) : State :=
  let w : Holder := .front true pq
  let d := s.queue pq
  let take (s : State) (r : Nat) (rd wr : List Nat) (bad : Bool) : State :=
    let (s1, cap) := s.newCapture pq t ((s.fe.kept.filter fun x => x.1 == w).map Prod.snd)
    ((s1.setQueue pq { s1.queue pq with last := n % 2 ^ 57 }).accept pq r rd wr bad cap).feDone w
  let given := s.given d.rerun
  let first : Given := fun _ => ((s.capturedLines d.rerun).head?).map Prod.snd
  if n % 128 ≠ 0 ∨ 2 ^ 57 ≤ n then take s 0 [] [] true
  else
    match s.feGet w d.vf [(n, 128)] true first with
    | .wait s1 => s1
    | .fault s1 _ _ => take s1 0 [] [] true
    | .ok s1 bs =>
      let r := ofBytes bs
      if recordBad r then take s1 r [] [] true
      else
        match s1.readRanges w d.vf (bits r 248 192) (bits r 395 392) given with
        | .wait s2 => s2
        | .fault s2 _ _ => take s2 r [] [] true
        | .ok s2 rd =>
          match s2.readRanges w d.vf (bits r 312 256) (bits r 399 396) given with
          | .wait s3 => s3
          | .fault s3 _ _ => take s3 r [] [] true
          | .ok s3 wr => take s3 r rd wr (rd.any rangeBad || wr.any rangeBad)

/-- Wakes that their queue's runner may handle now: the first of each queue, while no access of it is held. -/
def State.openWakes (s : State) : List Nat :=
  (List.range s.fe.wakes.length).filter fun k =>
    let q := (s.fe.wakes.getD k (0, 0)).1
    !((s.fe.wakes.take k).any fun x => x.1 == q) && !s.heldFor (.front true q)

/-- Misses go to the log of the stage that failed: the function's, or the host's (R330). -/
def State.logMisses (s : State) : State :=
  s.fe.missIn.foldl (fun s m =>
    if m.1 = 0 then s.postEntry (4096 + m.2.1) m.2.2
    else
      let (s1, r) := s.ringPost s.fe.hostMiss (toBytes 16 m.2.2)
      { s1 with fe := { s1.fe with hostMiss := r } }) { s with fe := { s.fe with missIn := [] } }

/-- The wake that a runner handles next: of the queue that has waited longest for room among the waiting nodes, else of
any (R341). -/
def State.pickWake (s : State) : Option (Nat × State) :=
  let ks := s.openWakes
  let first : Option Nat := s.fe.full.findSome? fun q => ks.find? fun k => (s.fe.wakes.getD k (0, 0)).1 == q
  let (n, s1) := s.choose
  match ks, decide (s.waitingNodes < Config.waitingNodes), first with
  | [], _, _ => none
  | _, true, some k => some (k, s)
  | ks, _, _ => some (ks.getD (n % ks.length) 0, s1)

/-- One record of one wake: the runner checks T, reads NEXT of the last record and accepts the record it names, or ends
the walk (R327, R333, R341). Misses of wakes, and entries that waited, are written first. -/
def State.wakeOne (s : State) : State :=
  match s.pickWake with
  | none => s
  | some (k, s0) =>
    let (pq, t) := s0.fe.wakes.getD k (0, 0)
    let d := s0.queue pq
    let fe (s : State) (l : List Nat) : State := { s with fe := { s.fe with full := l } }
    let ended (s : State) : State := fe ((s.dropWake k).feDone (.front true pq)) (s.fe.full.filter (· != pq))
    if t % 128 ≠ 0 ∨ 2 ^ 57 ≤ t then (ended s0).postEvent pq 7 0 0 {}
    else if d.last = t then ended s0
    else if Config.waitingNodes ≤ s0.waitingNodes then (if s0.fe.full.contains pq then s0 else fe s0 (s0.fe.full ++ [pq]))
    else if (s0.fe.kept.any fun x => x.1 == .front true pq) then
      -- the walk goes on with the record whose lines it has kept
      (fe s0 (s0.fe.full.filter (· != pq))).acceptAt pq (((s0.fe.kept.find? fun x => x.1 == .front true pq).map fun x => x.2.1).getD 0) t
    else
      match s0.feGet (.front true pq) d.vf (rangePieces d.last 8) false with
      | .wait s1 => s1
      | .fault s1 _ _ => (ended s1).postEvent pq 7 0 0 {}
      | .ok s1 bs =>
        let next := ofBytes bs
        if next = 0 then ended s1
        else (fe s1 (s1.fe.full.filter (· != pq))).acceptAt pq next t

def execWake (s : State) : Out := .next (s.logMisses.retryEntries).wakeOne

/-! ### The wake aperture (R329, R330) -/

/-- A write of `size` bytes at an offset of the wake aperture of a virtual function. -/
def execWakeWrite (vf off size value : Nat) (s : State) : Out := .next (s.takeWake vf off size value).logMisses

/-- A node that has stayed 10 ms in its class moves up one, and its timer restarts (R342). -/
def execPoolAging (node : Nat) (s : State) : Out :=
  match s.nodeOf node with
  | none => .next s
  | some x => .next (if x.st = .pooled ∧ x.cls < 3 then s.modNode node fun y => { y with cls := y.cls + 1, since := s.clock } else s)

end Sys2Proof.Machine
end

