-- ==== Sys2Proof/Machine/Hand.lean ====
section
/-!
DEFINITION. Handing down (R108 to R112), raising (R113 to R116), barriers and signals (R117, R118), and the ends of
blocks.
-/
namespace Sys2Proof.Machine

/-! ### Handing down -/

/-- Words of the next-lower section (R108). -/
def State.lowerWords (s : State) (l : Lvl) : Nat :=
  let k := (s.grid (ctxOf s.cur)).k
  k.len.getD (match l with | .G => 1 | .P => 2 | _ => 3) 0

/-- The receipt that a sequencer sends next (R109). -/
def Seq.receipt (q : Seq) (off : Nat) (h0 h1 : Word) (since : Nat := 0) : Receipt :=
  { since := since, seq := BitVec.ofNat 32 q.sent, off := BitVec.ofNat 13 off, h0 := h0, h1 := h1,
    stamp := BitVec.ofNat 64 ((List.range 8).foldl (fun n k => n + (q.ctr k).toNat % 256 * 2 ^ (8 * k)) 0) }

/-- The receivers of a link (R110). -/
def State.receivers (s : State) (a : Agent) : List Agent :=
  match a with
  | .pitch c p => (s.wgsOf c p).map fun w => .wg w.c w.w
  | .wg c w => (s.groupsOf ⟨c, w⟩).map GrpId.stream
  | _ => []

/-- Append a receipt to the link of `a`, the script at the grid (R110, R262). -/
def State.send (s : State) (a : Agent) (r : Receipt) : State :=
  let s1 := s.modSeq a fun q => { q with sent := q.sent + 1 }
  match a with
  | .grid c => s1.modGrid c fun g => { g with script := aput g.script (r.seq.toNat % g.size) r }
  | a => (s1.receivers a).foldl (fun s x => s.modSeq x fun q => { q with inq := q.inq ++ [r] }) s1

/-- Whether every pitch has ended the receipt in the script entry that the next one takes (R262). -/
def State.entryFree (s : State) (a : Agent) (size : Nat) : Bool :=
  let n := (s.seq a).sent
  (List.range (s.lead a)).all fun i => (n - 1 - i) % 2 ^ 32 % size != n % 2 ^ 32 % size

/-- Room in the outgoing link (R111, R262). -/
inductive Room where
  | room | full | script
  deriving DecidableEq, Repr

def State.room (s : State) (a : Agent) : Room :=
  match a with
  | .grid c =>
    let g := s.grid c
    if s.lead a < g.size ∧ s.entryFree a g.size then .room else if g.placed < g.npitch then .script else .full
  | a => if s.lead a < 8 then .room else .full

/-- DOWN and DOWNV once the block operand is read (R108, R111): PROT beyond the section, SCRIPT at a full script that
some pitch has not started, a wait at a full link, else the receipt is sent. `since` is when h0 and h1 were known (R291); a
deciding word releases the held RAISEs, by `pre`, as it completes (R115). -/
def State.handDown (s : State) (l : Lvl) (i : Instr) (off : Nat) (h0 h1 : Word) (since : Nat := 0) (pre : State → State := id) :
    State :=
  if s.lowerWords l ≤ off then s.fault cPROT off
  else
    match s.room s.cur with
    | .room => ((pre s).send s.cur (s.me.receipt off h0 h1 since)).advance
    | .full => s.waitAt i [BitVec.ofNat 64 off, h0, h1, BitVec.ofNat 64 since]
    | .script => s.fault cSCRIPT (s.me.sent % 2 ^ 32)

def execDown (off : BitVec 13) (s : State) : Out :=
  ctl (.down off) s fun l => s.handDown l (.down off) off.toNat 0 0

/-- With a register operand the word decides (R25). -/
def execDownReg (r : BitVec 6) (s : State) : Out :=
  ctl (.downReg r) s fun l => s.deciding l [r.toNat] fun s =>
    s.handDown l (.downReg r) (s.me.readReg l r.toNat).toNat 0 0 0 State.freed

/-- When the registers that DOWNV hands down were known. -/
def State.downSince (s : State) (a b : BitVec 6) : Nat := knownAt s.me (s.group (s.grpId s.cur)) [.s a.toNat, .s b.toNat]

def execDownv (a b : BitVec 6) (off : BitVec 13) (s : State) : Out :=
  ctl (.downv a b off) s fun l =>
    s.handDown l (.downv a b off) off.toNat (s.me.readReg l a.toNat) (s.me.readReg l b.toNat) (s.downSince a b)

def execDownvReg (a b r : BitVec 6) (s : State) : Out :=
  ctl (.downvReg a b r) s fun l => s.deciding l [r.toNat] fun s =>
    s.handDown l (.downvReg a b r) (s.me.readReg l r.toNat).toNat (s.me.readReg l a.toNat) (s.me.readReg l b.toNat)
      (s.downSince a b) State.freed

/-- END (R112): once every long-latency word of the block has completed. In the handler it is RESUME .pr of the handler's
own group (R307). -/
def execEndW (s : State) : Out :=
  ctl .endW s fun l =>
    if s.me.out ≠ [] then s.stall
    else if l = .H then (s.resumePr (s.grpId s.cur)).retryLogged (s.grpId s.cur)
    else (s.releaseHeld s.cur).modSeq s.cur fun q => { q with run := .idle, ended := q.ended + 1 }

/-- HALT (R112): the grid sequencer executes nothing more. -/
def execHalt (s : State) : Out :=
  ctl .halt s fun _ =>
    if s.me.out ≠ [] then s.stall
    else (s.releaseHeld s.cur).modSeq s.cur fun q => { q with run := .halted }

/-! ### Raising -/

/-- The raise registers that a member contributes to, and its member number (R113). -/
def State.raiseTarget (s : State) (a : Agent) : Agent × Nat :=
  match a with
  | .wg c w => (.pitch c (s.wg ⟨c, w⟩).pitch, (s.wg ⟨c, w⟩).pos)
  | a => let g := s.grpId a; (.wg g.c g.w, g.g)

/-- RAISE and AWAIT of a group stream are flush points of its rewrite stage (R116). -/
def State.raiseFlush (s : State) : State :=
  match s.cur with
  | .group c w g => s.flushPoint ⟨c, w, g⟩
  | _ => s

/-- A contribution to a raise register, of a value known at `since` (R291); none when its operation conflicts (R113). -/
def EReg.add (e : EReg) (op m : Nat) (v : Word) (mark : Bool) (since : Nat := 0) : Option EReg :=
  if e.mask = [] then some { op := op, mask := [m], vals := [(m, v, mark)], known := since }
  else if e.op ≠ op then none
  else some { e with mask := e.mask ++ [m], vals := e.vals ++ [(m, v, mark)], known := max e.known since }

/-- RAISE (R113): waits while the member's contribution is pending, raises NONUNIFORM on a conflict, else contributes
and stays outstanding until the AWAIT. -/
def execRaise (n : BitVec 2) (a : BitVec 6) (la : BitVec 4) (fn : BitVec 3) (s : State) : Out :=
  ctl (.raise n a la fn) s fun l =>
    let (t, m) := s.raiseTarget s.cur
    let e := agetD {} (s.seq t).e n.toNat
    if e.mask.contains m then s.stall
    else
      match e.add fn.toNat m (s.me.readReg l a.toNat) (s.me.mark l a.toNat)
          (knownAt s.me (s.group (s.grpId s.cur)) [.s a.toNat]) with
      | none => s.fault cNONUNIFORM 0 e.op fn.toNat
      | some e' =>
        let (rd, wr) := ctlRefs l (.raise n a la fn)
        (s.raiseFlush.modSeq t fun q => { q with e := aput q.e n.toNat e' }).issueLong la.toNat (.raise t n.toNat) rd wr []

/-- AWAIT (R114, R115): held RAISEs are released; a full register is combined at once, otherwise the word stays
outstanding. -/
def execAwait (d : BitVec 6) (n : BitVec 2) (la : BitVec 4) (s : State) : Out :=
  ctl (.await d n la) s fun l =>
    let s1 := s.raiseFlush.releaseHeld s.cur
    if s1.raiseFull s.cur (agetD {} s1.me.e n.toNat) then (s1.awaitNow s.cur d.toNat n.toNat).advance
    else
      let (rd, wr) := ctlRefs l (.await d n la)
      s1.issueLong la.toNat (.await d.toNat n.toNat) rd wr []

/-! ### Barriers -/

/-- The members of a barrier (R117). -/
def State.barMembers (s : State) (a : Agent) (sc : Nat) : List Agent :=
  match a with
  | .wg c w => (s.wgsOf c (s.wg ⟨c, w⟩).pitch).map fun x => .wg x.c x.w
  | a =>
    let w := s.wgId a
    if sc = 2 then (s.groupsOf w).map GrpId.stream
    else (s.wgsOf w.c (s.wg w).pitch).flatMap fun x => (s.groupsOf x).map GrpId.stream

/-- Whether a member has reached instance `k` of a scope's barrier. -/
def Seq.reached (q : Seq) (sc k : Nat) : Bool :=
  let n := agetD 0 q.barCount sc
  k < n || (n == k && q.barAt == some sc)

/-- Whether every member has reached the instance that `a` waits at. -/
def State.barReady (s : State) (a : Agent) (sc : Nat) : Bool :=
  let k := agetD 0 (s.seq a).barCount sc
  (s.barMembers a sc).all fun x => (s.seq x).reached sc k

/-- A barrier completes for `a`. -/
def State.barPass (s : State) (a : Agent) (sc : Nat) : State :=
  (s.modSeq a fun q => { q with barCount := aput q.barCount sc (agetD 0 q.barCount sc + 1) }).resumeNext a

/-- BAR: the member has reached the barrier and waits for the others. -/
def execBar (sc : BitVec 3) (s : State) : Out :=
  ctl (.bar sc) s fun _ =>
    let s1 := (s.waitAt (.bar sc)).modSeq s.cur fun q => { q with barAt := some sc.toNat }
    if s1.barReady s.cur sc.toNat then s1.barPass s.cur sc.toNat else s1

/-! ### Signals -/

/-- Whether a group's queued lane blocks, tile words and published chits have completed (R118, R265). -/
def State.groupQuiet (s : State) (g : GrpId) : Bool :=
  let y := s.group g
  let x := s.wg g.wg
  y.laneQ == [] && y.blk.isNone && y.cmds == [] && x.batchDone g.g (cget 0 x.ends g.g)

/-- Whether a group and a workgroup have no work under way. -/
def State.groupDone (s : State) (g : GrpId) : Bool :=
  let q := s.seq g.stream
  q.run == .idle && q.inq == [] && s.groupQuiet g
def State.wgDone (s : State) (w : WgId) : Bool :=
  let q := s.seq (.wg w.c w.w)
  q.run == .idle && q.inq == [] && (s.groupsOf w).all s.groupDone
def State.pitchDone (s : State) (c p : Nat) : Bool :=
  let q := s.seq (.pitch c p)
  (q.run == .finished) || (q.run == .idle && (s.wgsOf c p).all s.wgDone)

/-- The workgroups below an agent. -/
def State.wgsUnder (s : State) (a : Agent) : List WgId :=
  match a with
  | .grid c => (s.wgs.map Prod.fst).filter fun w => w.c == c
  | .pitch c p => s.wgsOf c p
  | a => [s.wgId a]

/-- Everything issued before at this level and below has completed (R118), and has performed at the homes. -/
def State.allDone (s : State) (a : Agent) : Bool :=
  let below := match a with
    | .grid c => (List.range (s.grid c).npitch).all fun p => s.pitchEnded c p == (s.seq a).sent && s.pitchDone c p
    | .pitch c p => (s.wgsOf c p).all s.wgDone
    | .wg c w => (s.groupsOf ⟨c, w⟩).all s.groupDone
    | .group c w g => s.groupQuiet ⟨c, w, g⟩
    | _ => true
  (s.seq a).out == [] && below && s.pend.all fun p => !(s.wgsUnder a).contains p.src

/-- Who an agent of the device is as a writer (R281). -/
def State.writerOf (s : State) (a : Agent) : Writer :=
  match a with
  | .grid _ => .device
  | .pitch c p => .pitch c p
  | .wg c w => .pitch c (s.wg ⟨c, w⟩).pitch
  | a => .core (s.wgId a) (some (s.grpId a).g)

/-- The write of SIGNAL (R118): one atomic access at the home, which a group has seen from then on (R283, R285); PAGE is
held and replayed (R302). -/
def State.signalNow (s : State) (a : Agent) (va : Nat) (v : Word) (add : Bool) : State :=
  match s.watchHit va 8 with
  | some x => s.fault cWATCH x
  | none =>
    match s.access (s.space a) va .atomic with
    | (s1, .ok tr) =>
      let pa := tr.pa va
      let own : Bool := match a with | .group .. | .handler .. => tr.trk | _ => false
      (match s1.poisonAt pa 8 with
       | some x => s1.fault cPOISON (va + (x - pa))
       | none =>
         let done := (s1.ordered (ctxOf a) (.atomic pa (s1.wgId a).w (s1.grpId a).g)).bind fun s2 =>
           let (s3, old) := s2.hostInput (s2.grpId a) pa (s2.memNat pa 8)
           let bs := toBytes 8 (if add then (old + v.toNat) % 2 ^ 64 else v.toNat)
           (s3.homeWrite? (s3.writerOf a) tr.trk pa bs).map fun s4 => if own then s4.settleOwn (s4.grpId a) pa bs else s4
         if own ∧ !s1.l1Open (s1.wgId a) (lineOf pa) then s else (done.map fun s2 => s2.resumeNext a).getD s)
    | (s1, .fault .page) => (s1.hold { who := .scalar a, va := va, asid := (s1.space a).asid, kind := .atomic, ctx := ctxOf a }).2
    | (s1, .fault .prot) => s1.fault cPROT va
    | (s1, .fault .poison) => s1.fault cPOISON va
    | (_, .wait) => s

/-- SIGNAL: only an aligned virtual address; then it waits, and writes when everything before it has completed. -/
def State.signal (s : State) (i : Instr) (va : Word) (v : Word) (add : Bool) : State :=
  if va.toNat / 2 ^ 57 ≠ 0 then s.fault cPROT va.toNat
  else if va.toNat % 8 ≠ 0 then s.fault cALIGN va.toNat
  else
    let s1 := s.waitAt i [va, v]
    if s1.allDone s.cur then s1.signalNow s.cur va.toNat v add else s1

def execSignalSet (a b : BitVec 6) (sc : BitVec 3) (s : State) : Out :=
  ctl (.signalSet a b sc) s fun l =>
    s.signal (.signalSet a b sc) (s.me.readReg l a.toNat) (s.me.readReg l b.toNat) false

def execSignalAdd (a b : BitVec 6) (sc : BitVec 3) (s : State) : Out :=
  ctl (.signalAdd a b sc) s fun l =>
    s.signal (.signalAdd a b sc) (s.me.readReg l a.toNat) (s.me.readReg l b.toNat) true

end Sys2Proof.Machine
end

