-- ==== Sys2Proof/Machine/Stream.lean ====
section
/-! DEFINITION. Words of the group scalar stream (R119 to R137), and what carries their waits out. -/
namespace Sys2Proof.Machine

/-! ### Waiting for what the group has queued (R99) -/

/-- Every lane block the group queued before the word has ended and every long-latency word issued before it has
completed. A handler waits for its own words only (log entry 17). -/
def State.drainedFor (s : State) (a : Agent) : Bool :=
  let y := s.group (s.grpId a)
  (s.seq a).out == [] && (match a with | .handler _ _ => true | _ => y.laneQ == [] && y.blk.isNone)

/-- Keep `s` when the attempt could not act. -/
def State.orStay (s t : State) : State := if t.stalled then s else t

/-! ### Memory words -/

/-- SLD, SST, SATOM and SWAITA at their access (R126 to R129), with the operands that the word read. -/
def State.scalarIssue (s : State) (l : Lvl) (i : Instr) (la : Nat) (o : SOps) : State :=
  match scalarShape i with
  | none => s
  | some (n, k) =>
    let (rd, wr) := ctlRefs l i
    s.scalarMem i la n k o rd wr

def execSld (d b : BitVec 6) (la : BitVec 4) (sz : BitVec 2) (off : BitVec 8) (s : State) : Out :=
  ctl (.sld d b la sz off) s fun l => s.scalarIssue l (.sld d b la sz off) la.toNat (s.me.sops l (.sld d b la sz off))

def execSst (d b : BitVec 6) (la : BitVec 4) (sz : BitVec 2) (off : BitVec 8) (s : State) : Out :=
  ctl (.sst d b la sz off) s fun l => s.scalarIssue l (.sst d b la sz off) la.toNat (s.me.sops l (.sst d b la sz off))

/-- The access of a SATOM that waits as PHASE does (R128, R185): a release first; its acquire is part of the access. -/
def State.satomNow (s : State) (l : Lvl) (i : Instr) (la ord sc : Nat) (o : SOps) : State :=
  if ordRel ord ∧ !s.released (s.grpId s.cur).wg (scScope sc) then s.stall else s.scalarIssue l i la o

def execSwaita (b a : BitVec 6) (la : BitVec 4) (sz : BitVec 2) (cc : BitVec 3) (n : BitVec 1) (s : State) : Out :=
  ctl (.swaita b a la sz cc n) s fun l => s.scalarIssue l (.swaita b a la sz cc n) la.toNat (s.me.sops l (.swaita b a la sz cc n))

/-! ### Words that wait for the group's work (R119, R130, R131) -/

/-- Run the stream again at a word that waited, for its effect. -/
def State.wake (s : State) (a : Agent) : State :=
  { s with cur := a }.modSeq a fun q => { q with run := .running, held := none, vals := [] }

/-- The effect of a waiting word of `a` once its group has drained; the state unchanged while it must wait on. -/
def State.drainedNow (s : State) (a : Agent) : State :=
  let g := s.grpId a
  let y := s.group g
  match (s.seq a).held, lvlOf a with
  | some i, some l =>
    match i with
    | .region =>
      if !s.drainedFor a then s
      else
        match y.reports with
        | r :: _ => s.deliver g r
        | [] =>
          ((s.flushPoint g).modGroup g fun y => { y with
            rgn := y.rgn + 1, regionPc := (s.seq a).pc + 4, regionRc := (s.seq a).rc }).resumeNext a
    | .phase sc k =>
      if !s.drainedFor a ∨ (ordRel (if k = 2 then 1 else if k = 1 then 2 else 3) ∧ !s.released g.wg sc.toNat) then s
      else ((if k = 1 then s else s.acquire g sc.toNat).flushPoint g).resumeNext a
    | .seal =>
      if !s.drainedFor a then s
      else
        ((s.flushPoint g).modGroup g fun y => { y with
          sealed := y.sealed + 1, bounds := y.bounds ++ [cget 0 (s.wg g.wg).ends g.g] }).resumeNext a
    | .satom _ _ la _ ord sc _ =>
      if !s.drainedFor a then s else s.orStay ((s.wake a).satomNow l i la.toNat ord.toNat sc.toNat (s.seq a).heldOps)
    | .rdsr d n =>
      let s1 := s.wake a
      if s1.flagsBusy n.toNat then s else s1.putReg d.toNat (BitVec.ofNat 64 (s1.srRead n.toNat)) false
    | .wrsr _ n =>
      let s1 := s.wake a
      if s1.flagsBusy n.toNat then s else (s1.srWrite n.toNat ((s.seq a).latched 0)).advance
    | _ => s
  | _, _ => s

/-- SATOM (R128): with an ordering it waits as PHASE does. -/
def execSatom (d a : BitVec 6) (la op : BitVec 4) (ord sc : BitVec 2) (w : BitVec 1) (s : State) : Out :=
  let i : Instr := .satom d a la op ord sc w
  ctl i s fun l =>
    let o := s.me.sops l i
    if ord = 0 then s.scalarIssue l i la.toNat o else (s.waitAt i o.vals).drainedNow s.cur

/-- REGION (R119). -/
def execRegion (s : State) : Out := ctl .region s fun _ => (s.waitAt .region).drainedNow s.cur

/-- PHASE (R130). -/
def execPhase (sc : BitVec 3) (k : BitVec 2) (s : State) : Out :=
  ctl (.phase sc k) s fun _ => (s.waitAt (.phase sc k)).drainedNow s.cur

/-- SEAL (R131). -/
def execSeal (s : State) : Out := ctl .seal s fun _ => (s.waitAt .seal).drainedNow s.cur

/-! ### Hints and traps (R120, R121) -/

def execYield (s : State) : Out := ctl .yield s fun _ => s.advance
def execNop (s : State) : Out := ctl .nop s fun _ => s.advance
/-- ICP fills an instruction cache, which has no architectural effect. -/
def execIcp (sec : BitVec 3) (a : BitVec 6) (n : BitVec 8) (s : State) : Out := ctl (.icp sec a n) s fun _ => s.advance
def execTrap (imm : BitVec 20) (s : State) : Out := ctl (.trap imm) s fun _ => s.fault cTRAP imm.toNat

/-! ### Lane blocks and windows (R122, R123) -/

/-- Append a lane block to the group's queue (R122, R266). -/
def State.queueBlock (s : State) (off : Nat) : State :=
  let pc := s.me.pc
  (s.modGroup (s.grpId s.cur) fun y => { y with
    laneQ := y.laneQ ++ [{ off := off, wins := (List.range 8).map fun n => agetD {} y.win n, perm := y.perm,
                           flush := y.flushMark, saddr := pc }]
    flushMark := false, fresh := true }).advance

/-- RUN (R122): waits while 16 blocks are queued or running. Beyond the lane section INFO is the offset, as R108 has it for a
hand-down, where R435 says the address (log entry 68). -/
def execRun (off : BitVec 26) (s : State) : Out :=
  ctl (.run off) s fun _ =>
    if (s.grid (ctxOf s.cur)).k.len.getD 4 0 ≤ off.toNat then s.fault cPROT off.toNat
    else if 16 ≤ s.lead s.cur then s.waitAt (.run off)
    else s.queueBlock off.toNat

/-- The window record that a translation gives (R31, R123), its base known at `since`. -/
def windowOf (tr : Trans) (va since : Nat) : Window :=
  { st := .bound, perm := tr.perm, trk := tr.trk, vbase := BitVec.ofNat 57 va, frame := tr.frame, start := tr.start,
    len := tr.len, ff := tr.ff, hv := tr.hv, hdie := tr.hdie, lines := tr.lines, since := since }

/-- Complete a BIND of `a` (R123): PAGE is held and replayed, other failures are precise and wait for the earlier words of the
stream (R67). -/
def State.bindNow (s : State) (a : Agent) (n va since : Nat) : State :=
  match s.access (s.space a) va .bindOnly with
  | (s1, .ok tr) => (s1.modGroup (s1.grpId a) fun y => { y with win := aput y.win n (windowOf tr va since) }).resumeNext a
  | (s1, .fault .page) =>
    (s1.hold { who := .scalar a, va := va, asid := (s1.space a).asid, kind := .bindOnly, ctx := ctxOf a }).2
  | (s1, .fault f) =>
    if (s.seq a).out ≠ [] then s else s1.fault (match f with | .poison => cPOISON | _ => cPROT) va
  | (_, .wait) => s

def execBind (n : BitVec 3) (a : BitVec 6) (s : State) : Out :=
  ctl (.bind n a) s fun l =>
    let va := (s.me.readReg l a.toNat).toNat
    if va / 2 ^ 57 ≠ 0 then s.fault cPROT va else (s.waitAt (.bind n a) [BitVec.ofNat 64 va, BitVec.ofNat 64 (cget 0 s.me.known a.toNat)]).bindNow s.cur n.toNat va
      (cget 0 s.me.known a.toNat)

def execUnbind (n : BitVec 3) (s : State) : Out :=
  ctl (.unbind n) s fun _ =>
    (s.modGroup (s.grpId s.cur) fun y => { y with
      win := aput y.win n.toNat { (agetD {} y.win n.toNat) with st := .unbound } }).advance

/-! ### Draw (R124) -/

/-- Give a workgroup `u` units in all. -/
def State.grantDraw (s : State) (w : WgId) (u : Nat) : State :=
  let x := s.wg w
  (s.modDie x.core.die fun d => { d with poolFree := d.poolFree - ((u : Int) - x.drawn), drawQ := d.drawQ.filter (· != w) }).modWg w
    fun x => { x with drawn := u }

/-- DRAW: above the grant it raises DRAW; an increase waits for the pool, behind earlier waiters. -/
def execDraw (u : BitVec 11) (s : State) : Out :=
  ctl (.draw u) s fun _ =>
    let w := s.wgId s.cur
    let x := s.wg w
    let d := s.die x.core.die
    if (s.grid w.c).dgrant < u.toNat then s.fault cDRAW u.toNat
    else if u.toNat ≤ x.drawn then s.advance
    else
      match s.ordered w.c (.draw w.w) with
      | none => s.stall
      | some s1 =>
        if d.drawQ = [] ∧ ((u.toNat - x.drawn : Nat) : Int) ≤ d.poolFree then (s1.grantDraw w u.toNat).advance
        else (s1.modDie x.core.die fun d => { d with drawQ := d.drawQ ++ [w] }).waitAt (.draw u)

/-- UNDRAW returns units at once (R124, R271). -/
def execUndraw (u : BitVec 11) (s : State) : Out :=
  ctl (.undraw u) s fun _ =>
    let w := s.wgId s.cur
    let x := s.wg w
    if u.toNat < x.drawn then
      ((s.modDie x.core.die fun d => { d with poolFree := d.poolFree + ((x.drawn - u.toNat : Nat) : Int) }).modWg w
        fun x => { x with drawn := u.toNat }).advance
    else s.advance

/-! ### Timelines and tags (R132 to R134) -/

/-- The timeline that WAITT names (R60). -/
def State.timeline (s : State) (g : GrpId) (tl : Nat) : Nat :=
  let x := s.wg g.wg
  let y := s.group g
  match tl with
  | 0 => x.tlc y g.g
  | 1 => y.tlm
  | _ => x.tlx

/-- Whether the condition of a wait holds, with the operand that it read as it issued (R98, R132, R133). -/
def State.waitHolds (s : State) (a : Agent) (i : Instr) : Bool :=
  let g := s.grpId a
  let x := s.wg g.wg
  let y := s.group g
  let v := (s.seq a).latched 0
  match i with
  | .waitb imm => y.sealed ≤ x.tlc y g.g + imm.toNat
  | .waitt tl _ => v.toNat ≤ s.timeline g tl.toNat
  | .waitany _ => v == 0 || x.tags &&& v != 0
  | .waitall _ => x.tags &&& v == v
  | _ => false

/-- Whether a wait waits for the command or chit of a key (R434). -/
def State.waitsFor (s : State) (a : Agent) (i : Instr) (k : RKey) : Bool :=
  let y := s.group (s.grpId a)
  let v := (s.seq a).latched 0
  match i, k with
  | .waitt tl _, .tile k => tl == 1 && k ≤ v.toNat
  | .waitt tl _, .chit b _ _ rem =>
    (tl == 0 && b ≤ v.toNat) || (tl == 2 && (match rem with | some p => p < v.toNat | none => false))
  | .waitb imm, .chit b _ _ _ => imm.toNat < y.sealed && b ≤ y.sealed - imm.toNat
  | .waitany _, .chit _ te tag _ | .waitall _, .chit _ te tag _ => te && natBit v.toNat tag
  | _, _ => false

/-- Whether a wait covers a held report (R434). WAITANY and WAITALL cover the chits whose tags they found set. -/
def State.covers (s : State) (a : Agent) (i : Instr) (r : Report) : Bool :=
  s.waitsFor a i r.key && match i, r.key with
    | .waitany _, .chit _ _ tag _ | .waitall _, .chit _ _ tag _ => natBit ((s.seq a).latched 1).toNat tag
    | _, _ => true

/-- The commands and chits of a group that failed and are kept back because eight reports are undelivered (R312). -/
def State.keptBack (s : State) (g : GrpId) : List Report × List Report :=
  let y := s.group g
  if y.reports.length < 8 then ([], [])
  else (y.cmds.filterMap (·.report), ((s.wg g.wg).chits.filter fun c => c.grp == g.g).filterMap (·.report))

/-- Whether an outstanding word reads memory and has not returned. -/
def Outst.reading (o : Outst) : Bool :=
  match o.kind with
  | .deferred k _ _ _ _ _ => k != .write
  | .paged _ | .swaita _ => true
  | _ => false

/-- A waiting word of WAITB, WAITT, WAITANY or WAITALL: once its condition has held at one instant, deliver what it covers,
oldest first, then acquire and complete; while it waits for a command or chit that is kept back, deliver the oldest report
(R40, R132, R133, R135, R434). The acquire is at .dv, the scope of the writes of chits to device memory: R294 names none (log
entry 68). It waits until every earlier read of the stream has returned (R288). WAITB and WAITT are flush points of the rewrite
stage (R132). -/
def State.waitNow (s : State) (a : Agent) : State :=
  let g := s.grpId a
  match (s.seq a).held with
  | none => s
  | some i =>
    if (s.seq a).out.any (·.reading) then s
    else if (s.seq a).decided ∨ s.waitHolds a i then
      let s1 := if (s.seq a).decided then s else
        s.modSeq a fun q => { q with decided := true, vals := [q.latched 0, (s.wg g.wg).tags] }
      match (s1.group g).reports.find? (s1.covers a i) with
      | some r => s1.deliver g r
      | none =>
        let s2 := match i with
          | .waitb _ | .waitt _ _ => s1.flushPoint g
          | _ => s1
        (s2.acquire g 5).resumeNext a
    else
      let (cs, hs) := s.keptBack g
      match (s.group g).reports with
      | r :: _ => if (cs ++ hs).any fun z => s.waitsFor a i z.key then s.deliver g r else s
      | [] => s

def execWaitb (imm : BitVec 20) (s : State) : Out := ctl (.waitb imm) s fun _ => (s.waitAt (.waitb imm)).waitNow s.cur
def execWaitt (tl : BitVec 2) (a : BitVec 6) (s : State) : Out :=
  ctl (.waitt tl a) s fun l => (s.waitAt (.waitt tl a) [s.me.readReg l a.toNat]).waitNow s.cur
def execWaitany (a : BitVec 6) (s : State) : Out :=
  ctl (.waitany a) s fun l => (s.waitAt (.waitany a) [s.me.readReg l a.toNat]).waitNow s.cur
def execWaitall (a : BitVec 6) (s : State) : Out :=
  ctl (.waitall a) s fun l => (s.waitAt (.waitall a) [s.me.readReg l a.toNat]).waitNow s.cur

/-- FFR (R134): its mark is that of s(a). -/
def execFfr (d a : BitVec 6) (s : State) : Out :=
  ctl (.ffr d a) s fun l =>
    let m := (s.wg (s.wgId s.cur)).tags &&& s.me.readReg l a.toNat
    s.putReg d.toNat (BitVec.ofNat 64 (lowestBit 64 m.toNat)) (s.me.mark l a.toNat)

/-- TAGCLR (R40, R134). -/
def execTagclr (a : BitVec 6) (s : State) : Out :=
  ctl (.tagclr a) s fun l =>
    (s.modWg (s.wgId s.cur) fun x => { x with tags := x.tags &&& ~~~(s.me.readReg l a.toNat) }).advance

/-! ### The rewrite stage (R136, R137) -/

def execRwmode (k : BitVec 1) (s : State) : Out :=
  ctl (.rwmode k) s fun _ => (s.modGroup (s.grpId s.cur) fun y => { y with perm := y.rwg && k == 1 }).advance

def execFlushw (s : State) : Out :=
  ctl .flushw s fun _ => (s.flushPoint (s.grpId s.cur)).advance

end Sys2Proof.Machine
end

