-- ==== Sys2Proof/Machine/Start.lean ====
section
/-!
DEFINITION. Starting and finishing: receipts (R110, R261, R265, R267), lane blocks (R266), rotation (R178) and the end
of a pitch (R112, R135, R265).
-/
namespace Sys2Proof.Machine

/-! ### Receipts -/

/-- The next receipt of a receiver: of the script for a pitch, else of its queue. -/
def State.nextReceipt (s : State) (a : Agent) : Option Receipt :=
  match a with
  | .pitch c _ =>
    let q := s.seq a
    if q.ended < (s.seq (.grid c)).sent then aget? (s.grid c).script (q.ended % 2 ^ 32 % (s.grid c).size) else none
  | _ => (s.seq a).inq.head?

/-- A reservation at workgroup start: the ring's header and entries are zero and the layout table is the code object's; what
stands in the program scratch stays there (R195). -/
def KObj.startCells (k : KObj) (sp : Cells Byte) : Cells Byte :=
  if k.ring = 0 then sp
  else csetList 0 sp k.scratch (List.replicate (128 + 32 * k.ring) 0 ++ k.layouts.flatMap (toBytes 64))

/-- A workgroup starts with its first receipt: its reservation is laid out, each group has the permission granted, its phase
begins, and what was overwritten before is gone (R136, R195, R265, R283, R285). -/
def State.startWg (s : State) (w : WgId) : State :=
  if (s.wg w).started then s
  else
    ((s.groupsOf w).foldl (fun s g => (s.acquire g 6).modGroup g fun y => { y with perm := y.rwg }) s).modWg w fun x =>
      { x with started := true, past := [], sp := (s.grid w.c).k.startCells x.sp }

/-- An idle receiver takes the next receipt of its link and starts the named block; the first one of a workgroup starts
it. What it carries was known when its sender knew it (R291). A receipt in error raises POISON, again after every
resumption (R415). -/
def execReceiptTake (a : Agent) (s : State) : Out :=
  let q := s.seq a
  let live := (s.grid (ctxOf a)).failing == [] && (s.wg (s.wgId a)).place == .resident && q.run == .idle &&
    (match a with | .pitch .. | .wg .. | .group .. => true | _ => false)
  match s.nextReceipt a with
  | none => .next s
  | some r =>
    if !live then .next s
    else if r.bad then .next (s.takeFault a (s.record a cPOISON))
    else
      let pc := (s.section a).1 + 4 * r.off.toNat
      let h := ((lvlOf a).map h0Code).getD 0
      let s1 := s.modSeq a fun q => { q with
        rc := r, pc := pc, run := .running, inq := q.inq.tail, slipped := false
        known := cset 0 (cset 0 q.known h r.since) (h + 1) r.since }
      match a with
      | .wg c w => .next (s1.startWg ⟨c, w⟩)
      | .group c w g => .next (s1.modGroup ⟨c, w, g⟩ fun y => { y with regionPc := pc, regionRc := r })
      | _ => .next s1

/-! ### Lane blocks -/

/-- An idle lane engine takes the next entry of its queue and runs the block from its first word, with all lanes in one
fragment (R266). After a flush point of the stream the rewrite window is cut first (R137, R242). The block that the stream
has just queued starts once the stream has tried its next word, so that a RDSR of LEAD there counts it (R316). An entry in
error raises POISON (R415). -/
def execLaneBlockStart (c w g : Nat) (s : State) : Out :=
  let q : GrpId := ⟨c, w, g⟩
  let y := s.group q
  let x := s.wg q.wg
  match y.laneQ with
  | [] => .next s
  | b :: l =>
    let me := q.lane y.nextId
    let held := y.fresh && l == [] && (s.seq q.stream).run == .running
    if y.blk.isSome ∨ x.place ≠ .resident ∨ (s.grid c).failing ≠ [] ∨ held then .next s
    else if b.bad then
      if x.hrun = some (me, false) ∨ (x.hwait.any fun e => e.1 == me) then .next s
      else .next (s.takeFault me { s.record me cPOISON with lanes := 0xFFFFFFFF, saddr := b.saddr })
    else
      let s1 := if b.flush then s.cut q else s
      let pc := (s.section me).1 + 12 * b.off
      .next (s1.modGroup q fun y => { y with
        laneQ := l, blk := some b, levels := [], slots := [y.nextId], spilled := [], nextId := y.nextId + 1, rotAt := s.clock
        frags := [{ fid := y.nextId, lanes := 0xFFFFFFFF, pc := pc, since := s.clock }] })

/-- The fragment that has held a slot longest. -/
def Group.longest (y : Group) : Option Frag :=
  (y.slots.filterMap y.frag).foldl
    (fun (a : Option Frag) x => match a with | some z => if x.since < z.since then some x else a | none => some x) none

/-- While more runnable fragments exist than slots, the one that has held a slot longest goes behind the others and the
oldest spilled one takes its place (R178). -/
def execFragmentRotation (c w g : Nat) (s : State) : Out :=
  let q : GrpId := ⟨c, w, g⟩
  let y := s.group q
  let runnable := y.frags.filter fun f => f.st == .runnable
  match y.longest with
  | none => .next s
  | some f =>
    if runnable.length ≤ y.slots.length ∨ (s.wg q.wg).place ≠ .resident then .next s
    else
      .next (s.modGroup q fun y0 =>
        let y := y0.fill s.clock
        ({ y with
          slots := y.slots.filter (· != f.fid), rotAt := s.clock
          spilled := y.spilled.filter (· != f.fid) ++ [f.fid] } : Group).fill s.clock)

/-! ### The end of a pitch -/

/-- Whether no raise register of a sequencer holds a contribution. -/
def Seq.noRaise (q : Seq) : Bool := q.e.all fun e => e.2.mask == []

/-- A workgroup of an idle subtree, but for the reports it holds (R265). -/
def State.wgIdle (s : State) (w : WgId) : Bool :=
  let x := s.wg w
  let k := (s.grid w.c).k
  let idle (a : Agent) : Bool := let q := s.seq a; q.run == .idle && q.inq == [] && q.noRaise
  x.place == .resident && idle (.wg w.c w.w) && x.hrun.isNone && x.hwait == [] && x.notifyQ == [] && x.chits == [] &&
    (k.ring == 0 || x.cons == (List.range k.groups).foldl (fun m g => max m (cget 0 x.ends g)) 0) &&
    (s.groupsOf w).all fun g =>
      let y := s.group g
      idle g.stream && y.laneQ == [] && y.blk.isNone && y.frags == [] && y.cmds == []

/-- The oldest report that a workgroup holds, across its groups (R135). -/
def State.firstReport (s : State) (w : WgId) : Option (GrpId × Report) :=
  ((s.groupsOf w).flatMap fun g => (s.group g).reports.map fun r => (g, r)).foldl
    (fun (a : Option (GrpId × Report)) x => match a with
      | some z => if x.2.order < z.2.order then some x else a
      | none => some x) none

/-- A workgroup ends: slots, tiles, draw units and the copy-queue reservation are released, and its image is no context's
any more (R265). -/
def State.endWg (s : State) (w : WgId) : State :=
  let s1 := (s.groupsOf w).foldl (fun s g => s.acquire g 6) (s.returnDraw w)
  s1.modWg w fun x => { x with place := .killed, image := 0, slots := [], accs := [], banks := [], cts := [], claims := [], stale := [], past := [] }

/-- The finish point of a workgroup of the pitch that is idle but for a report it still holds: the report is delivered
(R135). A pitch whose subtree is idle, with the script of its halted grid ended, finishes (R112, R265). -/
def execPitchFinish (c p : Nat) (s : State) : Out :=
  let a : Agent := .pitch c p
  let q := s.seq a
  let gq := s.seq (.grid c)
  if (aget? s.pitches (c, p)).isNone ∨ (s.pitch c p).finished ∨ (s.grid c).failing ≠ [] then .next s
  else
    let ws := s.wgsOf c p
    match ws.filter (fun w => s.wgIdle w && (s.firstReport w).isSome) with
    | w :: _ =>
      (match s.firstReport w with
       | some (g, r) => .next (s.deliver g r)
       | none => .next s)
    | [] =>
      if q.run = .idle ∧ gq.run = .halted ∧ q.ended = gq.sent ∧ q.noRaise ∧ ws.all s.wgIdle then
        let s1 := ws.foldl (fun s w => s.endWg w) s
        .next ((s1.modSeq a fun q => { q with run := .finished }).setPitch c p { s.pitch c p with finished := true })
      else .next s

end Sys2Proof.Machine
end

