-- ==== Sys2Proof/Machine/Place.lean ====
section
/-!
DEFINITION. Dispatching a node to a grid context (R337, R343, R350) and placing its pitches (R354, R355); the grid
stopped by SCRIPT (R346) and the draw pools (R356).
-/
namespace Sys2Proof.Machine

/-! ### Dispatch -/

/-- The code area of a grid context: an address of the job's space (log entry 18). -/
def codeArea (c : Nat) : Nat := 2 ^ 56 + c * 2 ^ 32

/-- The lowest-numbered free grid context (R343). -/
def State.freeCtx (s : State) : Option Nat := (List.range Config.gridContexts).find? fun c => (aget? s.grids c).isNone

/-- The first node of the pool's order: highest class, then the time of entry (R342). -/
def State.poolHead (s : State) : Option Node :=
  (s.fe.nodes.filter fun x => x.st == .pooled).foldl
    (fun (a : Option Node) x => match a with
      | some z => if z.cls < x.cls ∨ (x.cls = z.cls ∧ x.order < z.order) then some x else a
      | none => some x) none

/-- The translation space of a job's context, as the loader uses it. -/
def State.jobSpace (s : State) (c vf : Nat) : Space :=
  let (asid, root) := agetD (0, 0) s.fe.troots c
  { t := .front 0, asid := asid, root := root, vf := vf }

/-- The launch that a record asks for. -/
def State.launchOf (s : State) (x : Node) : Launch :=
  let r := x.bits
  { vf := x.vf, total := bits r 339 320 * bits r 359 340 * bits r 379 360, pw := bits r 387 384, ph := bits r 391 388
    dgrant := bits r 426 416, key := (agetD {} s.fe.vfs x.vf).key, dies := s.dies }

/-- The grid context that a record and its kernel make. -/
def State.gridOf (s : State) (c : Nat) (x : Node) (k : KObj) : Grid :=
  let r := x.bits
  let pw := max 1 (bits r 387 384)
  let ph := max 1 (bits r 391 388)
  let total := bits r 339 320 * bits r 359 340 * bits r 379 360
  { node := x.nid, nodeid := x.name, vf := x.vf, asid := (agetD (0, 0) s.fe.troots c).1, pq := x.pq, k := k
    gx := bits r 339 320, gy := bits r 359 340, gz := bits r 379 360, pw := pw, ph := ph
    dgrant := bits r 426 416, dbg := natBit r 403, rwg := natBit r 402, args := (s.queue x.pq).argwin + 4096 * c
    size := if bits r 468 448 = 0 then 4096 else bits r 468 448, npitch := total / (pw * ph), disp := s.fe.nextOrder
    reqSince := s.clock }

/-- A node takes a context: it runs from here on. -/
def State.takeCtx (s : State) (c : Nat) (x : Node) (g : Grid) : State :=
  let s1 := (s.setGrid c g).modNode x.nid fun y => { y with st := .running, ctx := some c }
  ({ s1 with fe := { s1.fe with nextOrder := s1.fe.nextOrder + 1 } } : State).promote

/-- The loader refuses (R350): no pitch is placed, and the node fails; code 0x05 carries cause RULE (R358). -/
def State.refuse (s : State) (c : Nat) (x : Node) (code : Nat) : State :=
  let g : Grid := { s.gridOf c x {} with npitch := 0 }
  (s.takeCtx c x g).failNode x 2 code (if code = 5 then { cause := cRULE } else {})

/-- The node leaves the pool as a malformed one (R333, R336). -/
def State.spoil (s : State) (x : Node) : State := (s.failNode x 1 0 {}).promote

/-- The lines of a node's argument block are inputs of its capture (R423). -/
def State.captureArgs (s : State) (x : Node) : State :=
  let ps := (List.range (bits x.bits 474 469)).map fun i => bits x.bits 184 128 + 128 * i
  (s.fe.kept.filter fun z => z.1 == .front false x.nid && ps.contains z.2.1).foldl
    (fun s z => s.capture x.cap (.lines z.2.1 z.2.2)) s

/-- Physical lines of placed sections: the loader has the dies' instruction caches fetch them (R357). -/
def State.codeLines (s : State) (sp : Space) (l : List (Nat × List Byte)) : List Nat :=
  l.filterMap fun x => match (s.access sp x.1 .bindOnly).2 with
    | .ok tr => some (lineOf (tr.pa x.1))
    | _ => none

/-- The grid sequencer starts (R260, R265), its node's later inputs captured (R423) or ordered by a capture (R424). -/
def State.startGrid (s : State) (c : Nat) (x : Node) (k : KObj) (code : List Nat) : State :=
  let left (n : Nat) : List CapEv := (s.fe.captures.getD n {}).evs.filter fun e => e.key != .none
  let g : Grid := { s.gridOf c x k with code := code, cap := x.cap, rerun := x.rerun.map fun n => (n, left n) }
  (((s.captureArgs x).takeCtx c x g).feDone (.front false x.nid)).setSeq (.grid c)
    { pc := k.base.headD 0, run := .running, dbg := natBit x.bits 403 }

/-- Whether a re-run finds another package, other firmware images or another DEFSIG than its capture (R424). -/
def State.rerunBad (s : State) (x : Node) : Bool :=
  match x.rerun with
  | none => false
  | some k =>
    let z := s.fe.captures.getD k {}
    let (sig, images) := s.identity
    z.sig != sig || (z.images != images && z.images.map Img.bytes != images.map Img.bytes)

/-- Load a code object for a node and start it (R350). -/
def State.launch (s : State) (c : Nat) (x : Node) : State :=
  let w : Holder := .front false x.nid
  let no (s : State) (code : Nat) : State := (s.refuse c x code).feDone w
  match s.readObject w x.vf (bits x.bits 120 64) ((agetD {} s.fe.vfs x.vf).key.isSome) with
  | .wait s1 => s1
  | .fault s1 _ _ => no s1 1
  | .ok s1 (f, ss) =>
    match loadObject f ss (s1.launchOf x) (codeArea c) with
    | .error code => no s1 code
    | .ok (k, laid) =>
      let ls := laid.flatMap fun y => linesFrom y.2.1 y.2.2
      if s1.rerunBad x then no s1 0x0C
      else
        match s1.fePut w (s1.jobSpace c x.vf) .bindOnly ls with
        | .wait s2 => s2
        | .fault s2 _ _ => no s2 1
        | .ok s2 _ => s2.startGrid c x k (s2.codeLines (s2.jobSpace c x.vf) ls)

/-- The first node of the pool's order takes the lowest-numbered free context: its argument block is copied, its code
object is loaded or refused, and its grid sequencer starts (R337, R343, R350). Each line of the block and of the object is
read once (R338); a re-run takes the block from its capture (R424). -/
def execDispatch (s : State) : Out :=
  match s.freeCtx, s.poolHead with
  | some c, some x =>
    let w : Holder := .front false x.nid
    if s.heldFor w then .next s
    else
      let ps := (List.range (bits x.bits 474 469)).map fun i => (bits x.bits 184 128 + 128 * i, 128)
      match s.feGet w x.vf ps true (s.given x.rerun) with
      | .wait s1 => .next s1
      | .fault s1 _ _ => .next ((s1.spoil x).feDone w)
      | .ok s1 args =>
        match s1.fePut w (s1.feSpace x.vf) .write (linesFrom ((s1.queue x.pq).argwin + 4096 * c) args) with
        | .wait s2 => .next s2
        | .fault s2 _ _ => .next ((s2.spoil x).feDone w)
        | .ok s2 _ => .next (s2.launch c x)
  | _, _ => .next s

/-! ### Placement (R354, R355) -/

/-- The workgroup staged behind a core. -/
def State.stagedOn (s : State) (c : CoreId) : Option WgId :=
  (s.wgs.find? fun x => x.2.core = c ∧ x.2.place = .staged).map Prod.fst

/-- SRAM and copy-queue entries that a workgroup takes on its core. -/
def State.needs (s : State) (w : WgId) : Nat × Nat :=
  let k := (s.grid w.c).k
  (k.sram ((s.wg w).pos == 0), k.copyq)

/-- Whether a workgroup with these needs passes R354 beside another context of its core. -/
def State.roomOn (s : State) (bytes q : Nat) (other : Option WgId) : Bool :=
  match other with
  | none => decide (bytes ≤ 917504) && decide (q ≤ 64)
  | some w => decide (bytes + (s.needs w).1 ≤ 917504) && decide (q + (s.needs w).2 ≤ 64)

/-- Cores of a rectangle, by POS. -/
def rectCores (lead : CoreId) (pw ph : Nat) : List CoreId :=
  (List.range (pw * ph)).map fun i => ⟨lead.die, lead.x + i % pw, lead.y + i / pw⟩

/-- Whether a core exists and is in service (R2). -/
def State.inService (s : State) (c : CoreId) : Bool :=
  decide (c.die < s.dies.length) && decide (c.x < 12) && decide (c.y < 12) && !(s.die c.die).out.contains (c.x, c.y)

/-- Whether the next pitch of a grid can be placed with its lead core here. -/
def State.usable (s : State) (g : Grid) (lead : CoreId) : Bool :=
  let cs := rectCores lead g.pw g.ph
  (List.range cs.length).all fun i =>
    let c := cs.getD i default
    s.inService c && (s.residentOn c).isNone && s.roomOn (g.k.sram (i == 0)) g.k.copyq (s.stagedOn c)

/-- Where the next pitch of a grid goes: its pin, or the first usable rectangle of the search order. -/
def State.findPlace (s : State) (c : Nat) (g : Grid) : Option CoreId :=
  match aget? g.k.pins g.placed with
  | some p => if s.usable g p then some p else none
  | none =>
    ((List.range 4).flatMap fun d => (List.range 12).flatMap fun y => (List.range 12).map fun x =>
      (⟨(c + d) % 4, x, y⟩ : CoreId)).find? fun p => s.usable g p

/-- Whether a grid has a pitch to place: none of a context that NOFRAME stopped is placed (R376). -/
def Grid.asks (g : Grid) : Bool := g.failing == [] && !g.noframe && decide (g.placed < g.npitch)

/-- Whether an earlier request goes first: it fits, or it has waited 10 ms. -/
def State.earlierFirst (s : State) (g : Grid) : Bool :=
  s.grids.any fun x => decide (x.2.disp < g.disp) && x.2.asks && (x.2.reqOld || (s.findPlace x.1 x.2).isSome)

/-- Slots that the context staged behind a core holds: they leave the others to the one that comes to run (R383). -/
def State.stagedSlots (s : State) (core : CoreId) : Nat := (((s.stagedOn core).map fun v => (s.wg v).heldSlots.length)).getD 0

/-- A workgroup of a pitch on its core, which runs again if it was gated (R401); it has not started. -/
def State.addWg (s : State) (c p pos w : Nat) (core : CoreId) : State :=
  let g := s.grid c
  let x : Wg :=
    { core := core, pitch := p, pos := pos, gidx := w, sp := g.k.startCells [], rules := g.k.rules, htab := (s.wg ⟨c, w⟩).htab
      phys := 16 - s.stagedSlots core }
  let s0 := s.modDie core.die fun d => { d with gatedCores := d.gatedCores.filter (· != (core.x, core.y)) }
  let s1 := s0.setWg ⟨c, w⟩ x
  let s2 := ((s1.setSeq (.wg c w) { dbg := g.dbg }).setSeq (.handler c w) {})
  (List.range g.k.groups).foldl (fun s i => (s.setSeq (.group c w i) { dbg := g.dbg }).setGroup ⟨c, w, i⟩ { rwg := g.rwg, perm := g.rwg }) s2

/-! Offsets of a save image (R378). -/

/-- B of R378: reservation and system area, rounded up to 128 bytes. -/
def KObj.imageB (k : KObj) (lead : Bool) : Nat := (k.sram lead + 127) / 128 * 128

/-- Where the vector registers, the held slots, the scratchpad and the stale area start. -/
def KObj.vAt (k : KObj) : Nat := 83968 + 12544 * k.groups
def KObj.slotAt (k : KObj) : Nat := k.vAt + 128 * k.vregs * k.groups
def KObj.spAt (k : KObj) (hs ht : Nat) : Nat := k.slotAt + 32768 * (hs + ht)
/-- Bytes of a whole image. -/
def KObj.imageSize (k : KObj) (hs ht : Nat) (lead : Bool) : Nat := k.spAt hs ht + k.imageB lead + 73728 + 1179648

/-- Bytes that the image of a workgroup takes, at its largest (R377, R378). -/
def State.imageBytes (s : State) (w : WgId) : Nat := (s.grid w.c).k.imageSize 16 16 ((s.wg w).pos == 0)

/-- Whether the firmware can allocate an image of a workgroup at an address: in frames of its virtual function, apart from
those that it allocated before. -/
def State.imageFits (s : State) (w : WgId) (a : Nat) : Bool :=
  let n := s.imageBytes w
  a != 0 && s.frameOk (s.grid w.c).vf a n &&
    !(s.wgs.any fun x => x.1 != w && x.2.image != 0 && overlap x.2.image (s.imageBytes x.1) a n)

/-- A placed workgroup has the save image that the firmware allocated for it: where a choice says, or in the last frames of
its virtual function that are free; none without such frames (R377). -/
def State.giveImage (s : State) (w : WgId) : Option State :=
  let (a, s1) := s.choose
  let vf := (s.grid w.c).vf
  let own := (s.fe.owner.filter fun x => x.2 == vf + 1).map fun x => 0x200000 * x.1 + (if x.1 = 0 then 4096 else 0)
  ((4096 * (a % 2 ^ 40) :: own.reverse).find? (s.imageFits w)).map fun a =>
    (s1.modWg w fun x => { x with image := a }).setImageState a 2

/-- L1 of a core gives up lines until it holds no more than its part of the SRAM (R287, R354); none while it cannot. -/
def State.shrinkL1 (s : State) (core : CoreId) : Nat → Option State
  | 0 => if (s.l1Held core).length ≤ s.l1Lines core then some s else none
  | n + 1 =>
    if (s.l1Held core).length ≤ s.l1Lines core then some s
    else ((s.victims core).head?.bind (s.evictL1 core)).bind fun s1 => s1.shrinkL1 core n

/-- The scratchpad parts of cores have grown: what stood in the L1 ways that they take is written back, and its lines leave
(R354). `s0` is the state before; none while a write-back or a line must wait. -/
def State.splitBack (s0 s : State) (cores : List CoreId) : Option State :=
  let grown := cores.filter fun c => decide (s0.splitOf c < s.splitOf c)
  (s.drain? fun p => p.trk && grown.contains (s.wg p.src).core).bind fun s1 =>
    grown.foldl (fun (a : Option State) c => a.bind fun s => s.shrinkL1 c (s.l1Held c).length) (some s1)

/-- The next pitch of a grid is placed and its sequencer starts, when it fits, its images are allocated, what its cores' L1s
must give up is written back, and no earlier request goes first. -/
def execPitchPlace (c : Nat) (s : State) : Out :=
  match aget? s.grids c with
  | none => .next s
  | some g =>
    if !g.asks ∨ s.earlierFirst g then .next s
    else
      match s.findPlace c g with
      | none => .next s
      | some lead =>
        let p := g.placed
        let n := g.pw * g.ph
        let cs := rectCores lead g.pw g.ph
        let put := (List.range n).foldl (fun (a : Option State) i =>
          a.bind fun s => (s.addWg c p i (p * n + i) (cs.getD i default)).giveImage ⟨c, p * n + i⟩) (some s)
        match put.bind fun s1 => s.splitBack s1 cs with
        | none => .next s
        | some s1 =>
          let pt : Pitch := { lead := lead, wgs := (List.range n).map fun i => p * n + i }
          let s2 := (s1.setPitch c p pt).setSeq (.pitch c p) { dbg := g.dbg }
          .next (s2.modGrid c fun g => { g with placed := p + 1, reqSince := s.clock, reqOld := false })

/-- The pitch that a grid asks to place has waited 10 ms: no later request is placed before it. -/
def execPlaceWaitExpiry (c : Nat) (s : State) : Out :=
  match aget? s.grids c with
  | none => .next s
  | some g => .next (if g.asks then s.setGrid c { g with reqOld := true } else s)

/-! ### SCRIPT and draw -/

/-- Once every pitch has started, the grid sequencer stopped by SCRIPT goes on at its DOWN (R346). -/
def execScriptResume (c : Nat) (s : State) : Out :=
  match aget? s.grids c with
  | none => .next s
  | some g =>
    if g.scriptStop ∧ g.placed = g.npitch ∧ g.failing = [] then
      .next ((s.setGrid c { g with scriptStop := false }).modSeq (.grid c) Seq.unstop)
    else .next s

/-- The policy firmware lowers or raises a die's pool, within 0 to 1,600 units; nothing held is revoked (R356). -/
def execDrawPoolChange (die : Nat) (units : Int) (s : State) : Out :=
  if s.dies.length ≤ die then .next s
  else
    .next (s.modDie die fun d =>
      let t := max 0 (min (Config.poolUnits : Int) (d.poolTotal + units))
      { d with poolTotal := t, poolFree := d.poolFree + (t - d.poolTotal) })

end Sys2Proof.Machine
end

