-- ==== Sys2Proof/Machine/Finish.lean ====
section
/-!
DEFINITION. Completion and failure of nodes (R344, R345).
-/
namespace Sys2Proof.Machine

/-- Whether a held access belongs to a grid context. -/
def heldCtx (c : Nat) (x : Held) : Bool :=
  match x.who with
  | .lane g _ | .tile g _ => g.c == c
  | .scalar a | .fetch a => ctxOf a == c
  | .chit w _ | .store w _ => w.c == c
  | .host _ | .front _ _ => false

/-- A grid context is free again (R343, R344). What its code replaced is forgotten. -/
def State.freeGrid (s : State) (c : Nat) : State :=
  { s with
    shelf := s.shelf.filter fun x => x.2.w.c != c
    oldCode := s.oldCode.filter fun x => (adel s.grids c).any fun g => g.2.code.contains (lineOf (4 * x.1))
    grids := adel s.grids c, pitches := s.pitches.filter fun x => x.1.1 != c, wgs := s.wgs.filter fun x => x.1.c != c
    groups := s.groups.filter fun x => x.1.c != c, seqs := s.seqs.filter fun x => ctxOf x.1 != c
    holds := s.holds.filter fun x => !heldCtx c x.2 }

/-- Kill every pitch of a failing grid, up to what must still perform (R345, R389). -/
def State.killGrid (s : State) (c : Nat) : State :=
  let s1 := ((s.wgs.map Prod.fst).filter (·.c == c)).foldl (fun s w => s.killWg w) s
  let s2 := ((s1.pitches.map Prod.fst).filter (·.1 == c)).foldl (fun s p =>
    (s.modSeq (.pitch p.1 p.2) Seq.kill).setPitch p.1 p.2 { s.pitch p.1 p.2 with finished := true }) s1
  (s2.modSeq (.grid c) Seq.kill).modGrid c fun g => { g with killed := true }

/-- The images of a killed context become Killed, but for those of pitches that had finished, which have none (R389). -/
def State.imagesKilled (s : State) (c : Nat) : State :=
  (s.wgs.filter fun x => x.1.c == c).foldl (fun s x => (s.setImageState x.2.image 4).modWg x.1 fun y => { y with image := 0 }) s

/-- Whether every store that a context issued has performed, and its remote transfers are acknowledged or lost (R344,
R389). -/
def State.stored (s : State) (c : Nat) : Bool :=
  s.pend.all (fun p => p.src.c != c) && s.peerOut.all (fun p => p.src.c != c) &&
    s.wgs.all fun x => x.1.c != c || x.2.owed == []

/-- Whether a grid has halted with every pitch finished (R265, R344). -/
def State.gridDone (s : State) (c : Nat) : Bool :=
  let g := s.grid c
  (s.seq (.grid c)).run == .halted && g.placed == g.npitch && (List.range g.npitch).all fun p => (s.pitch c p).finished

/-- The record of a fault of the completion-signal write (R344). -/
def sigRec (cause va : Nat) : FaultRec := { cause := cause, level := 4, info := va }

/-- Write a node's completion signal: `add` adds the value, else it is set. -/
def State.sendSignal (s : State) (x : Node) (value : Nat) (add : Bool) : FeR (Option FaultRec) :=
  let w : Holder := .front false x.nid
  let va := bits x.bits 568 512
  if va = 0 then .ok s none
  else if va % 8 ≠ 0 then .ok s (some (sigRec cALIGN va))
  else if s.heldFor w then .wait s
  else if (s.declinedAt w va 8).isSome then .ok (s.feDone w) (some (sigRec cPAGE va))
  else
    match s.access (s.feSpace x.vf) va .atomic with
    | (s1, .wait) => .wait s1
    | (s1, .fault .page) => s1.fePage w (s1.feSpace x.vf).asid va .atomic
    | (s1, .fault .prot) => .ok s1 (some (sigRec cPROT va))
    | (s1, .fault .poison) => .ok s1 (some (sigRec cPOISON va))
    | (s1, .ok tr) =>
      let pa := tr.pa va
      if (s1.poisonAt pa 8).isSome then .ok s1 (some (sigRec cPOISON va))
      else
        let v := if add then s1.memNat pa 8 + value else value
        match s1.homeWrite? .device tr.trk pa (toBytes 8 v) with
        | some s2 => .ok s2 none
        | none => .wait s

/-- The context is freed and the node leaves the graph. -/
def State.endNode (s : State) (x : Node) (failed : Bool) : State :=
  let s1 := match x.ctx with
    | some c => s.freeGrid c
    | none => s
  s1.dropNode x failed

/-- A failed node writes the failure signal and leaves (R345). -/
def State.endFailed (s : State) (x : Node) : State :=
  match s.sendSignal x (2 ^ 64 - 1) false with
  | .ok s1 none => s1.endNode x true
  | .ok s1 (some r) => (s1.postEvent x.pq 8 0 x.name r).endNode x true
  | .fault s1 _ _ => s1
  | .wait s1 => s1

/-- A node whose grid is done releases, writes its signal and completes; or, when that write faults, it fails (R344). -/
def State.endDone (s : State) (x : Node) : State :=
  match s.sendSignal x (bits x.bits 639 576) (natBit x.bits 475) with
  | .ok s1 none => s1.endNode x false
  | .ok s1 (some r) => (s1.postEvent x.pq 8 0 x.name r).endNode x true
  | .fault s1 _ _ => s1
  | .wait s1 => s1

/-- A running node whose grid is failing: its pitches are killed; once what they issued has performed, their resources are
released, the images become Killed and its failures are posted (R345, R389). -/
def State.failGrid (s0 : State) (x : Node) (c : Nat) : State :=
  if !(s0.grid c).killed then s0.killGrid c
  else
    let ws := (s0.wgs.map Prod.fst).filter (·.c == c)
    let s := ws.foldl State.payOwed s0
    if !s.stored c then s
    else
      let s1 := (ws.foldl State.releaseWg s).imagesKilled c
      ((s.grid c).failing.foldl (fun s f => s.postEvent x.pq f.1 0 x.name f.2) s1).modNode x.nid fun y => { y with st := .failed }

/-- The next thing a node's completion takes: its failure, or its signal once its grid is done and its writes have
performed (R344, R345). -/
def execNodeComplete (node : Nat) (s : State) : Out :=
  match s.nodeOf node with
  | none => .next s
  | some x =>
    match x.st, x.ctx with
    | .failed, none => .next (s.endFailed x)
    | .failed, some c => .next (if s.stored c then s.endFailed x else s)
    | .running, some c =>
      if (s.grid c).failing ≠ [] then .next (s.failGrid x c)
      else .next (if s.gridDone c ∧ s.stored c then s.endDone x else s)
    | _, _ => .next s

end Sys2Proof.Machine
end

