-- ==== Sys2Proof/Machine/Handler.lean ====
section
/-! DEFINITION. The words of the trap handler (R138 to R143). -/
namespace Sys2Proof.Machine

/-- The target group of a handler word, when the workgroup has it (R138). -/
def State.target (s : State) (v : Word) : Option GrpId :=
  let w := s.wgId s.cur
  let g := v.toNat % 16
  if g < (s.grid w.c).k.groups then some ⟨w.c, w.w, g⟩ else none

/-- Stop a target that is still running (R138). -/
def State.halt (s : State) (g : GrpId) : State :=
  let r := (s.seq g.stream).run
  if r = .running ∨ r = .waiting then s.modSeq g.stream Seq.stop else s

/-- The faulting stream and record that a target's log items show: of the handler that runs, or of a fault that waits
its turn (R139, R192, R308). -/
def Wg.faultOf (x : Wg) (g : Nat) : Option (Agent × FaultRec) :=
  match x.hrun with
  | some (a, _) =>
    if hostGroup a = g then some (a, x.hcause)
    else (x.hwait.find? fun e => hostGroup e.1 == g).map fun e => (e.1, e.2.1)
  | none => none

/-- Whether a log entry is that of a fault. -/
def LogEntry.isOf (e : LogEntry) (a : Agent) (r : FaultRec) : Bool :=
  e.waddr == r.waddr && (match a with | .lane _ _ _ f => e.frag == some f | _ => e.frag.isNone)

/-- The log entry of a target's fault. -/
def State.faultEntry (s : State) (g : GrpId) : Option LogEntry :=
  match (s.wg g.wg).faultOf g.g with
  | some (a, r) => (s.group g).log.find? fun e => e.isOf a r
  | none => none

/-- A window record of 192 bits (R31). -/
def Window.record (w : Window) : Nat :=
  w.frame / 4096 * 2 ^ 12 + w.vbase.toNat * 2 ^ 71 + (if w.trk then 2 ^ 186 else 0) + w.perm.toNat * 2 ^ 187 +
    (match w.st with | .unbound => 0 | .bound => 1 | .dropped => 2) * 2 ^ 190

/-- The fragment in lane slot `k`. -/
def Group.slotFrag (y : Group) (k : Nat) : Option Frag := (y.slots[k]?).bind y.frag

/-- What GSTATE reads (R139). A lane slot that holds no fragment reads pc 0 and mask 0 (DESIGN CHOICE, log entry 60). -/
def State.gread (s : State) (g : GrpId) (sel : Nat) : Nat :=
  let q := s.seq g.stream
  let y := s.group g
  let nv := (s.grid g.c).k.vregs
  let log := s.faultEntry g
  if sel < 0x40 then (q.readReg .S sel).toNat
  else if 0x40 ≤ sel ∧ sel < 0x48 then (q.ctr (sel - 0x40)).toNat
  else if sel = 0x48 then maskOf 62 ((List.range 62).filter fun n => q.mark .S n)
  else if sel = 0x50 then q.pc
  else if sel = 0x51 then y.rgn.toNat
  else if sel = 0x52 then y.fctl
  else if sel = 0x53 then y.fflags
  else if 0x58 ≤ sel ∧ sel < 0x60 then (y.mask (sel - 0x58)).toNat
  else if 0x60 ≤ sel ∧ sel < 0x78 then
    (agetD {} y.win ((sel - 0x60) / 3)).record / 2 ^ (64 * ((sel - 0x60) % 3)) % 2 ^ 64
  else if 0x80 ≤ sel ∧ sel < 0x88 then
    match y.snap with
    | some r => let o := r.origins.getD ((sel - 0x80) / 2) (0, 0); if sel % 2 = 0 then o.1 else o.2
    | none => 0
  else if 0x90 ≤ sel ∧ sel < 0x94 then
    match y.slotFrag ((sel - 0x90) / 2) with
    | some x => if sel % 2 = 0 then x.pc else x.lanes.toNat
    | none => 0
  else if sel = 0x94 then y.frags.length - y.slots.length
  else if 0x100 ≤ sel ∧ sel < 0x180 then
    match y.snap with
    | some r => if sel % 32 = 0 then r.snap.getD ((sel - 0x100) / 32) 0 else 0
    | none => match log with | some e => cget 0 e.ops (sel - 0x100) | none => 0
  else if sel = 0x180 then
    match y.snap with
    | some _ => 1
    | none => match log with | some e => e.mask | none => 0
  else if sel = 0x181 then
    match y.snap with
    | some r => r.fr.waddr
    | none => match log with | some e => e.waddr | none => 0
  else if 0x1000 ≤ sel ∧ sel < 0x1000 + 32 * nv then (y.vreg ((sel - 0x1000) / 32) ((sel - 0x1000) % 32)).toNat
  else 0

/-- The log entry of a target's fault with operand item `k` set. An item of a lane outside the faulted-lane mask is not
written (DESIGN CHOICE, log entry 68). -/
def State.setLogItem (s : State) (g : GrpId) (k v : Nat) : State :=
  match s.faultEntry g with
  | some e =>
    s.modGroup g fun y => { y with log := y.log.map fun z =>
      if z.handle = e.handle ∧ natBit z.mask (k % 32) then { z with ops := cset 0 z.ops k v } else z }
  | none => s

/-- A lane of a vector register, written by GSET: once every lane of a register in error has been, its error is gone
(R415). -/
def Group.gsetV (y : Group) (k : Nat) (v : W32) : Group :=
  let n := k / 32
  let y1 := { y with v := cset 0 y.v k v }
  if !y.badV.contains n then y1
  else
    let m := cget 0 y.setLanes n ||| 2 ^ (k % 32)
    if m = 2 ^ 32 - 1 then { y1 with badV := y.badV.filter (· != n), setLanes := cset 0 y.setLanes n 0 }
    else { y1 with setLanes := cset 0 y.setLanes n m }

/-- What GSET writes (R139). A log item is not written while the snapshot of a deferred report is shown in its place, nor
a lane slot that holds no fragment (DESIGN CHOICE, log entries 59 and 60). -/
def State.gwrite (s : State) (g : GrpId) (sel : Nat) (v : Word) : State :=
  let nv := (s.grid g.c).k.vregs
  let n := v.toNat
  let seq (f : Seq → Seq) := s.modSeq g.stream f
  let grp (f : Group → Group) := s.modGroup g f
  if sel < 0x3E then (if sel = 0 then s else seq fun q => { q with s := cset 0 q.s sel v, badRegs := q.badRegs.filter (· != sel) })
  else if sel = 0x3E then seq fun q => { q with rc := { q.rc with h0 := v } }
  else if sel = 0x3F then seq fun q => { q with rc := { q.rc with h1 := v } }
  else if 0x40 ≤ sel ∧ sel < 0x48 then seq fun q => { q with lc := cset 0 q.lc (sel - 0x40) (BitVec.ofNat 32 n) }
  else if sel = 0x48 then
    seq fun q => { q with nu := (List.range 62).foldl (fun m k => cset false m k (natBit n k)) [] }
  else if sel = 0x50 then seq fun q => { q with pc := n % 2 ^ 57 }
  else if sel = 0x51 then grp fun y => { y with rgn := BitVec.ofNat 32 n }
  else if sel = 0x52 then grp fun y => { y with fctl := drndOf n }
  else if sel = 0x53 then grp fun y => { y with fflags := n % 32 }
  else if 0x58 ≤ sel ∧ sel < 0x60 then grp fun y => y.setMask (sel - 0x58) (BitVec.ofNat 32 n)
  else if 0x90 ≤ sel ∧ sel < 0x94 then
    grp fun y => match y.slotFrag ((sel - 0x90) / 2) with
      | some x => y.modFrag x.fid fun x =>
          if sel % 2 = 0 then { x with pc := n % 2 ^ 57 } else { x with lanes := BitVec.ofNat 32 n }
      | none => y
  else if 0x100 ≤ sel ∧ sel < 0x180 then
    (match (s.group g).snap with | some _ => s | none => s.setLogItem g (sel - 0x100) n)
  else if 0x1000 ≤ sel ∧ sel < 0x1000 + 32 * nv then
    grp fun y => y.gsetV (sel - 0x1000) (BitVec.ofNat 32 n)
  else s

/-- Whether a GSTATE item is a register in error (R415). -/
def State.gbad (s : State) (g : GrpId) (sel : Nat) : Bool :=
  let y := s.group g
  (sel < 0x3E && (s.seq g.stream).badRegs.contains sel) || (0x58 ≤ sel && sel < 0x60 && y.badQ.contains (sel - 0x58)) ||
    (0x1000 ≤ sel && sel < 0x1000 + 32 * (s.grid g.c).k.vregs && y.badV.contains ((sel - 0x1000) / 32))

/-- GSTATE (R138, R139). It clears the NU mark of its destination, which no rule states (DESIGN CHOICE, log entry 58). -/
def execGstate (d a : BitVec 6) (sel : BitVec 14) (s : State) : Out :=
  ctl (.gstate d a sel) s fun l =>
    match s.target (s.me.readReg l a.toNat) with
    | none => s.putReg d.toNat 0 false
    | some g =>
      if s.gbad g sel.toNat then s.fault cPOISON
      else let s1 := s.halt g; s1.putReg d.toNat (BitVec.ofNat 64 (s1.gread g sel.toNat)) false

/-- GSET (R138, R139). -/
def execGset (b a : BitVec 6) (sel : BitVec 14) (s : State) : Out :=
  ctl (.gset b a sel) s fun l =>
    match s.target (s.me.readReg l a.toNat) with
    | none => s.advance
    | some g => ((s.halt g).gwrite g sel.toNat (s.me.readReg l b.toNat)).advance

/-- RESUME .pr (R140, R310): of its own group it ends the handler. -/
def execResumePr (a : BitVec 6) (s : State) : Out :=
  ctl (.resumePr a) s fun l =>
    match s.target (s.me.readReg l a.toNat) with
    | none => s.advance
    | some g =>
      let own := s.grpId s.cur == g
      let s1 := if own then s else s.advance
      (s1.resumePr g).retryLogged g

/-- RESUME .rg (R140, R267, R311). -/
def execResumeRg (a : BitVec 6) (s : State) : Out :=
  ctl (.resumeRg a) s fun l =>
    match s.target (s.me.readReg l a.toNat) with
    | none => s.advance
    | some g => (if s.grpId s.cur = g then s else s.advance).resumeRg g

/-- ABORT (R141): the workgroup ends as a killed context, with the record being handled. -/
def execAbort (s : State) : Out :=
  ctl .abort s fun _ => s.abortWg (s.wgId s.cur) [(s.wg (s.wgId s.cur)).hcause]

/-- What reading a rule image came to. -/
inductive Image where
  | ok (ws : List Nat)
  | stop (s : State)
  deriving DecidableEq, Repr

/-- Read `k` chunks of 16 bytes at `va` as the handler's group sees them; PAGE is held and the word tries again. -/
def State.readChunks (s : State) : Nat → Nat → State × Image
  | _, 0 => (s, .ok [])
  | va, k + 1 =>
    let a := s.cur
    match s.watchHit va 16, s.access (s.space a) va .read with
    | some x, _ => (s, .stop (s.fault cWATCH x))
    | none, (s1, .ok tr) =>
      let pa := tr.pa va
      let bad (i : Nat) : Bool := if tr.trk then s1.grpBad (s1.grpId a) tr.lines (pa + i) else s1.homeBad (s1.wgId a) (pa + i)
      if tr.trk ∧ !s1.l1Open (s1.wgId a) (lineOf pa) then (s, .stop s.stall)
      else
      (match (List.range 16).find? bad with
       | some i => (s1, .stop (s1.fault cPOISON (va + i)))
       | none =>
         let (s2, w) := s1.readAt (s1.grpId a) (.mem (tr.pa va) tr.trk tr.lines) 16 s1.clock
         match s2.readChunks (va + 16) k with
         | (s3, .ok ws) => (s3, .ok (w :: ws))
         | r => r)
    | none, (s1, .fault .page) =>
      (s1, .stop (s1.hold { who := .fetch a, va := va, asid := (s1.space a).asid, kind := .read, ctx := ctxOf a }).2)
    | none, (s1, .fault .prot) => (s1, .stop (s1.fault cPROT va))
    | none, (s1, .fault .poison) => (s1, .stop (s1.fault cPOISON va))
    | none, (_, .wait) => (s, .stop s.stall)

/-- Install a rule table: every group's rewrite window is flushed (R142, R242). -/
def State.installRules (s : State) (w : WgId) (es : List Nat) : State :=
  (s.cutAll w).modWg w fun x => { x with rules := es }

/-- RULES (R142, R248, R249). An address with [63:57] nonzero raises PROT, before alignment is judged (DESIGN CHOICE, log
entry 61). -/
def execRules (a : BitVec 6) (s : State) : Out :=
  ctl (.rules a) s fun l =>
    let va := (s.me.readReg l a.toNat).toNat
    if va / 2 ^ 57 ≠ 0 then s.fault cPROT va
    else if va % 16 ≠ 0 then s.fault cRULE va 0xFFFF
    else
      match s.readChunks va 1 with
      | (_, .stop t) => t
      | (s1, .ok hs) =>
        let h := hs.headD 0
        if ruleHeadBad h then s1.fault cRULE va 0xFFFF
        else
          match s1.readChunks (va + 16) (bits h 23 16) with
          | (_, .stop t) => t
          | (s2, .ok es) =>
            match ruleFirstBad es with
            | some i => s2.fault cRULE va i
            | none => (s2.installRules (s2.wgId s2.cur) es).advance

/-- FCTL (R41, R143): every group of the workgroup, at one instant. -/
def execFctl (a : BitVec 6) (s : State) : Out :=
  ctl (.fctl a) s fun l =>
    let v := drndOf (s.me.readReg l a.toNat).toNat
    ((s.groupsOf (s.wgId s.cur)).foldl (fun s g => s.modGroup g fun y => { y with fctl := v }) s).advance

end Sys2Proof.Machine
end

