-- ==== Sys2Proof/Machine/LaneCtl.lean ====
section
/-! DEFINITION. Lane-scope control: BR.ln, JOIN and LEND (R171 to R175). -/
namespace Sys2Proof.Machine

/-- A lane-word address a signed number of words from `pc` (R171). -/
def laneTarget (pc : Nat) (d : BitVec 16) : Int := pc + 12 * d.toInt

/-- The level that a BR.ln with join address `j` works in: the innermost one, or a new one (R171). -/
def Group.openLevel (y : Group) (x : Frag) (j : Nat) : Group × Nat :=
  match x.level.bind y.level with
  | some l => if l.join = j then (y, l.lid) else new y x j
  | none => new y x j
where
  new (y : Group) (x : Frag) (j : Nat) : Group × Nat :=
    let n := y.nextId
    ({ y with nextId := n + 1, levels := y.levels ++ [{ lid := n, join := j, lanes := x.lanes, parent := x.level }],
              frags := y.frags.map fun z => if z.fid = x.fid then { z with level := some n } else z }, n)

/-- BR.ln (R171): PROT beyond the lane section, STACK at a 65th level; else the lanes of the mask go to the target. -/
def execBrLn (w : LaneW) (s : State) : Out :=
  lane 3 0x01 w s fun e =>
    let a := s.cur
    let p2 := w.p2
    let jt := laneTarget e.x.pc (p2.truncate 16)
    let j0 := laneTarget e.x.pc ((p2 >>> 16).truncate 16)
    let same := decide (((e.x.level.bind e.y.level).map (·.join)) = some j0.toNat)
    if !s.inLaneSection a jt then s.fault cPROT (wrapN 64 jt)
    else if !s.inLaneSection a j0 then s.fault cPROT (wrapN 64 j0)
    else if !same ∧ 64 ≤ e.y.levels.length then s.fault cSTACK
    else
      let q := e.y.mask w.va.toNat
      let t := e.x.lanes &&& q
      let n := e.x.lanes &&& ~~~q
      let (y1, l) := e.y.openLevel e.x j0.toNat
      let s1 := s.setGroup e.g y1
      if t = 0 then s1.goTo e.g e.f (e.x.pc + 12)
      else if n = 0 then s1.goTo e.g e.f jt.toNat
      else
        let k := y1.nextId
        let z : Frag := { fid := k, lanes := t, pc := jt.toNat, level := some l, since := s.clock }
        let s2 := s1.modGroup e.g fun y =>
          { y.modFrag e.f (fun x => { x with lanes := n }) with
            nextId := k + 1, frags := (y.modFrag e.f fun x => { x with lanes := n }).frags ++ [z] }
        (s2.goTo e.g e.f (e.x.pc + 12)).goTo e.g k jt.toNat

/-- JOIN (R173). -/
def execJoin (w : LaneW) (s : State) : Out :=
  lane 3 0x02 w s fun e =>
    match e.x.level.bind e.y.level with
    | some l => s.goTo e.g e.f l.join
    | none => s.laneNext e

/-- Whether the handler of a deferred report of the group runs or waits its turn. -/
def State.reportOpen (s : State) (g : GrpId) : Bool :=
  let x := s.wg g.wg
  x.hrun == some (g.stream, true) || x.hwait.any fun e => e.1 == g.stream && e.2.2.isSome

/-- LEND (R135, R175): ILLCONV in a partial fragment or under a level; every held report is delivered, oldest first, and
then the block ends, at a cut of the rewrite stage (R242). -/
def execLend (w : LaneW) (s : State) : Out :=
  lane 3 0x03 w s fun e =>
    if e.x.lanes ≠ 0xFFFFFFFF ∨ e.x.level.isSome then s.fault cILLCONV (~~~e.x.lanes).toNat
    else if s.reportOpen e.g then s.stall
    else
      match e.y.reports with
      | r :: _ => s.deliver e.g r
      | [] => (s.cut e.g).modGroup e.g fun y => { y with blk := none, frags := [], levels := [], slots := [], spilled := [] }

end Sys2Proof.Machine
end

