-- ==== Sys2Proof/Machine/LaneFloat.lean ====
section
/-!
DEFINITION. The floating-point words of the lane engine (R89 to R92, R153 to R158).
-/
namespace Sys2Proof.Machine

/-- An operation on codes, element by element for a packed type, flags ORed (R91). -/
def perHalf (t : Nat) (g : Nat → Nat → Nat → Nat × Nat) (a b c : Nat) : Nat × Nat :=
  if tyPacked t then
    let lo := g (a % 2 ^ 16) (b % 2 ^ 16) (c % 2 ^ 16)
    let hi := g (a / 2 ^ 16) (b / 2 ^ 16) (c / 2 ^ 16)
    (lo.1 + 2 ^ 16 * hi.1, lo.2 ||| hi.2)
  else g a b c

/-- A floating-point word of row `o`: `g` maps the codes of VA, VB and VC to a code and flags (R153). -/
def laneFloat (o : Nat) (w : LaneW) (s : State) (g : FF → Rnd → Nat → Nat → Nat → Nat × Nat) : Out :=
  lane 0 o w s fun e =>
    let t := w.ty.toNat
    s.laneMap e t w.vd.toNat fun j => perHalf t (g (tyFF t) (e.y.rnd w)) (e.a w j) (e.b w j) (e.c w j)

/-- A unary word by its exact function (R155). -/
def laneFn (o : Nat) (w : LaneW) (s : State) (h : Num → Num × Nat) : Out :=
  laneFloat o w s fun f r _ b _ => let (v, fl) := h (f.decode b); fin1 f r v fl

def execFadd (w : LaneW) (s : State) : Out :=
  laneFloat 0x20 w s fun f r a b _ => fin1 f r (addNum r (f.decode a) (f.decode b))
def execFsub (w : LaneW) (s : State) : Out :=
  laneFloat 0x21 w s fun f r a b _ => fin1 f r (addNum r (f.decode a) (f.decode b).neg)
def execFmul (w : LaneW) (s : State) : Out :=
  laneFloat 0x22 w s fun f r a b _ => fin1 f r (mulNum (f.decode a) (f.decode b))
/-- FMA: a in VA, b in VC, c in VB. -/
def execFma (w : LaneW) (s : State) : Out :=
  laneFloat 0x23 w s fun f r a c b =>
    fin1 f r (fmaNum r (natBit w.mod.toNat 0) (natBit w.mod.toNat 1) (f.decode a) (f.decode b) (f.decode c))
def execFmin (w : LaneW) (s : State) : Out := laneFloat 0x24 w s fun f _ a b _ => fminCode f false a b
def execFmax (w : LaneW) (s : State) : Out := laneFloat 0x25 w s fun f _ a b _ => fminCode f true a b
def execFabs (w : LaneW) (s : State) : Out := laneFloat 0x26 w s fun f _ _ b _ => (signCode f 0 b b, 0)
def execFneg (w : LaneW) (s : State) : Out := laneFloat 0x27 w s fun f _ _ b _ => (signCode f 1 b b, 0)
def execFsgn (w : LaneW) (s : State) : Out := laneFloat 0x28 w s fun f _ a b _ => (signCode f 2 a b, 0)
def execFdiv (w : LaneW) (s : State) : Out :=
  laneFloat 0x29 w s fun f r a b _ => let (v, fl) := divNum (f.decode a) (f.decode b); fin1 f r v fl
def execFrcp (w : LaneW) (s : State) : Out := laneFn 0x2A w s fun x => divNum (.fin { m := 1 }) x
def execFrsq (w : LaneW) (s : State) : Out := laneFn 0x2B w s rsqrtNum
def execFsqrt (w : LaneW) (s : State) : Out := laneFn 0x2C w s fun x => (sqrtNum x, 0)
def execFexp2 (w : LaneW) (s : State) : Out := laneFn 0x2D w s fun x => (exp2Num x, 0)
def execFlog2 (w : LaneW) (s : State) : Out := laneFn 0x2E w s log2Num
def execFsinp (w : LaneW) (s : State) : Out := laneFn 0x2F w s fun x => (sinpNum x, 0)
def execFcosp (w : LaneW) (s : State) : Out := laneFn 0x30 w s fun x => (cospNum x, 0)
def execFtanh (w : LaneW) (s : State) : Out := laneFn 0x31 w s fun x => (tanhNum x, 0)
/-- FRND rounds to an integral value of its own type under RND (R156). -/
def execFrnd (w : LaneW) (s : State) : Out :=
  laneFloat 0x32 w s fun f r _ b _ => let (v, fl) := rndNum r (f.decode b); fin1 f r v fl

/-- FCMP: truth and flags in a lane; a packed type needs both elements (R157). -/
def fcmpT (t cc : Nat) (unord : Bool) (a b : Nat) : Bool × Nat :=
  let f := tyFF t
  if tyPacked t then
    let lo := fcmpCode f cc unord (a % 2 ^ 16) (b % 2 ^ 16)
    let hi := fcmpCode f cc unord (a / 2 ^ 16) (b / 2 ^ 16)
    (lo.1 && hi.1, lo.2 ||| hi.2)
  else fcmpCode f cc unord a b

def execFcmp (w : LaneW) (s : State) : Out :=
  lane 0 0x33 w s fun e =>
    let r (j : Nat) := fcmpT w.ty.toNat (w.mod.toNat % 8) (natBit w.mod.toNat 3) (e.a w j) (e.b w j)
    s.laneMask e w.vd.toNat (fun j => (r j).1) (e.act.foldl (fun fl j => fl ||| (r j).2) 0)

/-- FCLASS writes class masks as n32 (R158). -/
def execFclass (w : LaneW) (s : State) : Out :=
  lane 0 0x34 w s fun e =>
    s.laneMap e 6 w.vd.toNat fun j => perHalf w.ty.toNat (fun _ b _ => (classCode (tyFF w.ty.toNat) b, 0)) 0 (e.b w j) 0

end Sys2Proof.Machine
end

