-- ==== Sys2Proof/Machine/LaneInt.lean ====
section
/-!
DEFINITION. The integer words of the lane engine (R149 to R152).
-/
namespace Sys2Proof.Machine

/-- An element-wise integer word of row `o`: `f` gives the result at the width of TYPE in a lane (R149). -/
def laneInt (o : Nat) (w : LaneW) (s : State) (f : LaneEnv → Nat → Nat) : Out :=
  lane 0 o w s fun e => s.laneMap e w.ty.toNat w.vd.toNat fun j => (f e j, 0)

/-- Width and signedness of an integer type or b32 (R149). -/
def intW (t : Nat) : Nat := if t = 14 then 32 else (tyInt t).1
def intS (t : Nat) : Bool := t < 4
def intSigned (t : Nat) (v : Nat) : Int := intDecode (intW t) (intS t) v

/-- `x` clamped to the range of an integer type. -/
def clampT (t : Nat) (x : Int) : Nat :=
  let w := intW t
  wrapN w (max (intLo w (intS t)) (min (intHi w (intS t)) x))

/-- Quotient and remainder at the width of a type (R102, R149). -/
def divRemT (t a b : Nat) : Nat × Nat :=
  let w := intW t
  let n := intSigned t a
  let m := intSigned t b
  if m = 0 then (2 ^ w - 1, a) else (wrapN w (Int.tdiv n m), wrapN w (n - Int.tdiv n m * m))

/-- A right shift of a `w`-bit value with bit `w - 1` entering (R149). -/
def sarW (w a k : Nat) : Nat := wrapN w (sintN w a / (2 ^ k : Nat))
def rotW (w a k : Nat) : Nat := (a * 2 ^ k + a / 2 ^ (w - k)) % 2 ^ w

/-- Bits reversed at width `w` (R150). -/
def revW : Nat → Nat → Nat
  | 0, _ => 0
  | w + 1, n => n % 2 * 2 ^ w + revW w (n / 2)

/-- BEXT at width `w` (R150). -/
def bextW (w : Nat) (sg : Bool) (a b : Nat) : Nat :=
  let s := bits b 7 0
  let l := min (bits b 15 8) w
  let ext : Int := if sg then sintN w a else ((a % 2 ^ w : Nat) : Int)
  let field := wrapN l (ext / (2 ^ s : Nat))
  if l = 0 then 0 else if sg then wrapN w (sintN l field) else field

/-- BINS at width `w` (R150). -/
def binsW (w a c b : Nat) : Nat :=
  let s := bits b 7 0
  let l := min (bits b 15 8) w
  setBits a s l c % 2 ^ w

/-- LOP3 by its truth table (R149). -/
def lop3W (table a b c : Nat) : Nat → Nat
  | 0 => 0
  | i + 1 =>
    lop3W table a b c i +
      (if natBit table (4 * (a / 2 ^ i % 2) + 2 * (b / 2 ^ i % 2) + c / 2 ^ i % 2) then 2 ^ i else 0)

/-! ### The words -/

def execLaneAdd (w : LaneW) (s : State) : Out := laneInt 0x01 w s fun e j => e.a w j + e.b w j
def execLaneSub (w : LaneW) (s : State) : Out :=
  laneInt 0x02 w s fun e j => wrapN (intW w.ty.toNat) ((e.a w j : Int) - e.b w j)
def execLaneMul (w : LaneW) (s : State) : Out := laneInt 0x03 w s fun e j => e.a w j * e.b w j
def execMulh (w : LaneW) (s : State) : Out :=
  laneInt 0x04 w s fun e j =>
    let t := w.ty.toNat
    wrapN (intW t) (intSigned t (e.a w j) * intSigned t (e.b w j) / (2 ^ intW t : Nat))
def execMad (w : LaneW) (s : State) : Out := laneInt 0x05 w s fun e j => e.a w j * e.c w j + e.b w j
def execAdds (w : LaneW) (s : State) : Out :=
  laneInt 0x06 w s fun e j =>
    let t := w.ty.toNat
    clampT t (intSigned t (e.a w j) + intSigned t (e.b w j))
def execSubs (w : LaneW) (s : State) : Out :=
  laneInt 0x07 w s fun e j =>
    let t := w.ty.toNat
    clampT t (intSigned t (e.a w j) - intSigned t (e.b w j))
def execDiv (w : LaneW) (s : State) : Out :=
  laneInt 0x08 w s fun e j => (divRemT w.ty.toNat (e.a w j) (e.b w j)).1
def execRem (w : LaneW) (s : State) : Out :=
  laneInt 0x09 w s fun e j => (divRemT w.ty.toNat (e.a w j) (e.b w j)).2
def execLaneAnd (w : LaneW) (s : State) : Out := laneInt 0x0A w s fun e j => e.a w j &&& e.b w j
def execLaneOr (w : LaneW) (s : State) : Out := laneInt 0x0B w s fun e j => e.a w j ||| e.b w j
def execLaneXor (w : LaneW) (s : State) : Out := laneInt 0x0C w s fun e j => e.a w j ^^^ e.b w j
def execNot (w : LaneW) (s : State) : Out :=
  laneInt 0x0D w s fun e j => 2 ^ intW w.ty.toNat - 1 - e.b w j
/-- LOP3: a in VA, b in VC, c in VB; the truth table in P2[7:0]. -/
def execLop3 (w : LaneW) (s : State) : Out :=
  laneInt 0x0E w s fun e j => lop3W (w.p2.toNat % 256) (e.a w j) (e.c w j) (e.b w j) (intW w.ty.toNat)
def execLaneShl (w : LaneW) (s : State) : Out :=
  laneInt 0x0F w s fun e j => e.a w j * 2 ^ (e.b w j % intW w.ty.toNat)
def execLaneShr (w : LaneW) (s : State) : Out :=
  laneInt 0x10 w s fun e j => e.a w j / 2 ^ (e.b w j % intW w.ty.toNat)
def execLaneSar (w : LaneW) (s : State) : Out :=
  laneInt 0x11 w s fun e j => sarW (intW w.ty.toNat) (e.a w j) (e.b w j % intW w.ty.toNat)
def execRot (w : LaneW) (s : State) : Out :=
  laneInt 0x12 w s fun e j => rotW (intW w.ty.toNat) (e.a w j) (e.b w j % intW w.ty.toNat)
def execLaneMin (w : LaneW) (s : State) : Out :=
  laneInt 0x13 w s fun e j =>
    let t := w.ty.toNat
    if intSigned t (e.a w j) ≤ intSigned t (e.b w j) then e.a w j else e.b w j
def execLaneMax (w : LaneW) (s : State) : Out :=
  laneInt 0x14 w s fun e j =>
    let t := w.ty.toNat
    if intSigned t (e.a w j) ≤ intSigned t (e.b w j) then e.b w j else e.a w j
def execAbs (w : LaneW) (s : State) : Out :=
  laneInt 0x15 w s fun e j => wrapN (intW w.ty.toNat) (intSigned w.ty.toNat (e.b w j)).natAbs
def execNeg (w : LaneW) (s : State) : Out :=
  laneInt 0x16 w s fun e j => wrapN (intW w.ty.toNat) (-(e.b w j : Int))

/-! ### Bit words (R150) -/

def execClz (w : LaneW) (s : State) : Out :=
  laneInt 0x17 w s fun e j => intW w.ty.toNat - (if e.b w j = 0 then 0 else Nat.log2 (e.b w j) + 1)
def execPopc (w : LaneW) (s : State) : Out := laneInt 0x18 w s fun e j => popN (intW w.ty.toNat) (e.b w j)
def execBrev (w : LaneW) (s : State) : Out := laneInt 0x19 w s fun e j => revW (intW w.ty.toNat) (e.b w j)
def execBext (w : LaneW) (s : State) : Out :=
  laneInt 0x1A w s fun e j => bextW (intW w.ty.toNat) (intS w.ty.toNat) (e.a w j) (e.b w j)
def execBins (w : LaneW) (s : State) : Out :=
  laneInt 0x1B w s fun e j => binsW (intW w.ty.toNat) (e.a w j) (e.c w j) (e.b w j)

/-! ### Selection and comparison -/

/-- SEL: a register operand is copied whole; a scalar or an immediate is read at TYPE and written by R146 (R151). -/
def execLaneSel (w : LaneW) (s : State) : Out :=
  lane 0 0x1C w s fun e =>
    let t := w.ty.toNat
    let d := w.vd.toNat
    let copy (v j : Nat) : List (Nat × W32) := resultV (if tyPair t then t else 14) d j v
    s.laneWrite e (e.act.flatMap fun j =>
      if natBit (e.y.mask w.vc.toNat).toNat j then copy (e.y.operand t w.va.toNat j) j
      else if w.bsc then resultV t d j (e.b w j)
      else copy (e.y.operand t w.vb.toNat j) j) 0

/-- CMP (R152). -/
def execLaneCmp (w : LaneW) (s : State) : Out :=
  lane 0 0x1D w s fun e =>
    let t := w.ty.toNat
    s.laneMask e w.vd.toNat fun j => icond (intS t) (intW t) (w.mod.toNat % 8) (e.a w j) (e.b w j)

end Sys2Proof.Machine
end

