-- ==== Sys2Proof/Machine/LaneMem.lean ====
section
/-!
DEFINITION. The memory words of the lane engine (R180 to R193) over the shared `State.laneMem`, and PRF (R189).
-/
namespace Sys2Proof.Machine

def execLd (w : LaneW) (s : State) : Out := lane 1 0x01 w s fun e => s.laneMem e 0x01 w
def execSt (w : LaneW) (s : State) : Out := lane 1 0x02 w s fun e => s.laneMem e 0x02 w
def execLds (w : LaneW) (s : State) : Out := lane 1 0x03 w s fun e => s.laneMem e 0x03 w
def execSts (w : LaneW) (s : State) : Out := lane 1 0x04 w s fun e => s.laneMem e 0x04 w
def execAtom (w : LaneW) (s : State) : Out := lane 1 0x05 w s fun e => s.laneMem e 0x05 w
def execAtoms (w : LaneW) (s : State) : Out := lane 1 0x06 w s fun e => s.laneMem e 0x06 w

/-- A prefetch of one lane (R189): an access that would fault does nothing; another translates, and brings a tracked line
into L1, or into L2 alone. No phase counts it as a read. -/
def State.prefetch (s : State) (e : LaneEnv) (w : LaneW) (j : Nat) : State :=
  let win := e.y.window (bits w.p2.toNat 2 0)
  match s.reach s.cur ((e.lops 0x07 w j).address w win) 1 .read 0 with
  | (s1, .ok (.mem pa trk _)) =>
    if !trk then s1
    else if natBit w.p2.toNat 12 then s1.l2Miss e.g.c (s1.wg e.g.wg).core.die (lineOf pa) false
    else s1.cacheLine e.g.wg (lineOf pa)
  | _ => s

def execPrf (w : LaneW) (s : State) : Out :=
  lane 1 0x07 w s fun e => (e.act.foldl (fun s j => s.prefetch e w j) s).laneNext e

end Sys2Proof.Machine
end

