-- ==== Sys2Proof/Machine/LaneMove.lean ====
section
/-!
DEFINITION. Conversion, packing, moves, shuffles, cross-lane words, the lane RAISE and mask words (R159 to R169).
-/
namespace Sys2Proof.Machine

/-! ### Conversion and packing -/

/-- Entry lookup in the current generation of a code table, or in a latched one (R35). -/
def CodeTab.entry (t : CodeTab) (gen k : Nat) : Nat := (cget 0 t.ent (256 * gen + k)).toNat

/-- CVT (R159): an exact value, encoded once. -/
def execCvt (w : LaneW) (s : State) : Out :=
  lane 0 0x38 w s fun e =>
    let mode := w.mod.toNat % 4
    let t := w.ty.toNat
    let f := w.fmt.toNat
    let k := w.p2.toNat % 32
    let ct := agetD {} (s.wg e.g.wg).cts (bits w.p2.toNat 7 5)
    let wd := fmtBits f
    let src (j : Nat) : Num × Bool :=
      if mode = 1 then
        (fmtDecode (ct.entry ct.cur) f (bits (e.y.operandB e.stream 14 w j) (wd * (k + 1) - 1) (wd * k)), fmtIsInt f)
      else (tyDecode t (e.b w j), tyIsInt t)
    if mode = 2 then
      s.laneMap e 14 w.vd.toNat fun j =>
        let (x, z) := src j
        let (y, fl) := fmtEncode f (e.y.rnd w) w.sat z x
        (setBits (e.y.vreg w.vd.toNat j).toNat (wd * k) wd y, fl)
    else
      let dt := if mode = 1 then t else f % 16
      s.laneMap e dt w.vd.toNat fun j => let (x, z) := src j; tyEncode dt (e.y.rnd w) w.sat z x

/-- An element of PACK: a source narrowed to `n` bits, clamped with SAT (R160). -/
def narrow (signed sat : Bool) (n v : Nat) : Nat :=
  let x := intDecode 32 signed v
  wrapN n (if sat then max (intLo n signed) (min (intHi n signed) x) else x)

/-- PACK (R160). -/
def execPack (w : LaneW) (s : State) : Out :=
  lane 0 0x39 w s fun e =>
    let t := w.ty.toNat
    let sg := intS t
    s.laneMap e 14 w.vd.toNat fun j =>
      let a := e.y.operand 14 w.va.toNat j
      let b := e.y.operandB e.stream 14 w j
      (if tyPacked t then a % 2 ^ 16 + b % 2 ^ 16 * 2 ^ 16
       else if t = 1 ∨ t = 5 then narrow sg w.sat 16 a + narrow sg w.sat 16 b * 2 ^ 16
       else setBits (e.y.vreg w.vd.toNat j).toNat (if natBit w.mod.toNat 0 then 16 else 0) 16
         (narrow sg w.sat 8 a + narrow sg w.sat 8 b * 2 ^ 8), 0)

/-- UNPACK (R161). -/
def execUnpack (w : LaneW) (s : State) : Out :=
  lane 0 0x3A w s fun e =>
    let t := w.ty.toNat
    let k := w.mod.toNat % 4
    s.laneMap e 14 w.vd.toNat fun j =>
      let b := e.y.operandB e.stream 14 w j
      if tyPacked t then fin1 ffF32 .rne ((tyFF t).decode (b / 2 ^ (16 * k) % 2 ^ 16))
      else
        let n := if t = 1 ∨ t = 5 then 16 else 8
        let v := b / 2 ^ (n * k) % 2 ^ n
        (if intS t then wrapN 32 (sintN n v) else v, 0)

/-! ### Moves and shuffles -/

def execLaneMov (w : LaneW) (s : State) : Out :=
  lane 0 0x40 w s fun e =>
    s.laneMap e w.ty.toNat w.vd.toNat fun j => (e.y.operand w.ty.toNat w.vb.toNat j, 0)
def execLaneMovi (w : LaneW) (s : State) : Out :=
  lane 0 0x41 w s fun e => s.laneMap e w.ty.toNat w.vd.toNat fun _ => (immOf w.ty.toNat w.p2, 0)
/-- MOVS: the scalar register as it stands at issue (R21, R162). -/
def execMovs (w : LaneW) (s : State) : Out :=
  lane 0 0x42 w s fun e => s.laneMap e w.ty.toNat w.vd.toNat fun j => (e.b w j, 0)
def execLaneid (w : LaneW) (s : State) : Out :=
  lane 0 0x43 w s fun e => s.laneMap e 6 w.vd.toNat fun j => (j, 0)

/-- SHFL (R163). -/
def execShfl (w : LaneW) (s : State) : Out :=
  lane 0 0x44 w s fun e =>
    let t := w.ty.toNat
    s.laneMap e t w.vd.toNat fun j =>
      let i := if natBit w.mod.toNat 0 then j ^^^ (e.b w j % 32) else e.b w j % 32
      (e.y.operand t w.va.toNat (if natBit e.x.lanes.toNat i then i else j), 0)

/-- BCAST (R164). -/
def execBcast (w : LaneW) (s : State) : Out :=
  lane 0 0x45 w s fun e =>
    let t := w.ty.toNat
    let l := e.act.headD 0
    let i := e.b w l % 32
    let v := e.y.operand t w.va.toNat (if natBit e.x.lanes.toNat i then i else l)
    s.laneMap e t w.vd.toNat fun _ => (v, 0)

/-! ### Cross-lane words -/

/-- One step of REDC and SCAN: the value so far, then the next lane's (R165). -/
def redcStep (t op : Nat) (r : Rnd) (a b : Nat) : Nat × Nat :=
  match op with
  | 0 =>
    if tyIsFloat t then
      let f := tyFF t
      perHalf t (fun x y _ => fin1 f r (addNum r (f.decode x) (f.decode y))) a b 0
    else (atWidth t (a + b), 0)
  | 1 =>
    if tyIsFloat t then perHalf t (fun x y _ => fminCode (tyFF t) false x y) a b 0
    else (if intSigned t b < intSigned t a then b else a, 0)
  | 2 =>
    if tyIsFloat t then perHalf t (fun x y _ => fminCode (tyFF t) true x y) a b 0
    else (if intSigned t a < intSigned t b then b else a, 0)
  | 3 => (a &&& b, 0)
  | 4 => (a ||| b, 0)
  | _ => (a ^^^ b, 0)

/-- Running combinations of a list after `acc`, with the flags of the steps so far. -/
def running (t op : Nat) (r : Rnd) (acc : Nat × Nat) : List Nat → List (Nat × Nat)
  | [] => []
  | b :: l =>
    let (v, fl) := redcStep t op r acc.1 b
    (v, acc.2 ||| fl) :: running t op r (v, acc.2 ||| fl) l

/-- The combinations over each prefix of the acting lanes. The first is the lowest acting lane's value as it stands, a
NaN included: no step makes it (DESIGN CHOICE, log entry 50). -/
def prefixes (t op : Nat) (r : Rnd) : List Nat → List (Nat × Nat)
  | [] => []
  | b :: l => (b, 0) :: running t op r (b, 0) l

/-- The identity of an operation at a type (R166). -/
def identityT (t op : Nat) : Nat :=
  let f := tyFF t
  let inf (neg : Bool) := f.sign neg (f.big + 1)
  let half (x : Nat) := if tyPacked t then x + 2 ^ 16 * x else x
  match op with
  | 1 => if tyIsFloat t then half (inf false) else wrapN (intW t) (intHi (intW t) (intS t))
  | 2 => if tyIsFloat t then half (inf true) else wrapN (intW t) (intLo (intW t) (intS t))
  | 3 => 2 ^ intW t - 1
  | _ => 0

/-- REDC (R165). -/
def execRedc (w : LaneW) (s : State) : Out :=
  lane 0 0x48 w s fun e =>
    let t := w.ty.toNat
    let (v, fl) := (prefixes t (w.mod.toNat % 8) (e.y.rnd w) (e.act.map (e.b w))).getLastD (0, 0)
    s.laneMap e t w.vd.toNat fun _ => (v, fl)

/-- SCAN: inclusive, or exclusive with the identity at the lowest acting lane (R166). -/
def execScan (w : LaneW) (s : State) : Out :=
  lane 0 0x49 w s fun e =>
    let t := w.ty.toNat
    let op := w.mod.toNat % 8
    let xs := prefixes t op (e.y.rnd w) (e.act.map (e.b w))
    let ys := if natBit w.mod.toNat 3 then (identityT t op, 0) :: xs else xs
    let rs := e.act.zip ys
    s.laneWrite e (rs.flatMap fun r => resultV t w.vd.toNat r.1 r.2.1) (rs.foldl (fun a r => a ||| r.2.2) 0)

/-- VOTE (R167). -/
def execVote (w : LaneW) (s : State) : Out :=
  lane 0 0x4A w s fun e =>
    let q := (e.y.mask w.vb.toNat).toNat
    let p := e.act.filter (natBit q)
    let d := w.vd.toNat
    match w.mod.toNat % 4 with
    | 0 => s.laneMask e d fun _ => p != []
    | 1 => s.laneMask e d fun _ => p == e.act
    | _ => s.laneMap e 6 d fun _ => (maskOf 32 p, 0)

/-- The identity of a RAISE operation (R168). -/
def raiseIdentity (op : Nat) : Word :=
  match op with
  | 0 => BitVec.allOnes 64
  | 2 => BitVec.ofNat 64 (2 ^ 63 - 1)
  | 3 => BitVec.allOnes 64
  | 4 => BitVec.ofNat 64 (2 ^ 63)
  | _ => 0

/-- The lane RAISE (R168): one contribution of the lane engine, listed by lane for the masks of R115. It waits while
a contribution of the engine is pending, so no second operation can meet a first one; it is a flush point (R116). -/
def execLaneRaise (w : LaneW) (s : State) : Out :=
  lane 0 0x4B w s fun e =>
    let op := w.mod.toNat % 8
    let n := w.vd.toNat
    let a := e.g.stream
    if (agetD {} e.stream.e n).mask ≠ [] then s.stall
    else
      let sx := op == 2 || op == 4 || op == 6
      let x (j : Nat) : Word :=
        let b := e.y.operandB e.stream 14 w j
        if sx then sext64 32 b else BitVec.ofNat 64 b
      let since := knownAt e.stream e.y (laneRefs 0 0x4B w).1
      let reg : EReg :=
        if e.act = [] then { op := op, mask := [0], vals := [(0, raiseIdentity op, false)], lanes := true, known := since }
        else { op := op, mask := e.act, vals := e.act.map (fun j => (j, x j, false)), lanes := true, known := since }
      let o : Outst :=
        { pc := e.x.pc, left := w.la.toNat, kind := .raise a n, rd := (laneRefs 0 0x4B w).1, wr := [.e n] }
      (((s.cut e.g).modSeq a fun q => { q with e := aput q.e n reg }).modGroup e.g fun y =>
        y.modFrag e.f fun z => { z with out := z.out ++ [o] }).laneNext e

/-! ### Mask words (R169) -/

/-- A mask word that writes masks: `f` maps bits of VA and VB. -/
def maskWord (o : Nat) (w : LaneW) (s : State) (f : Bool → Bool → Bool) : Out :=
  lane 0 o w s fun e =>
    s.laneMask e w.vd.toNat fun j =>
      f (natBit (e.y.mask w.va.toNat).toNat j) (natBit (e.y.mask w.vb.toNat).toNat j)

def execQand (w : LaneW) (s : State) : Out := maskWord 0x50 w s fun a b => a && b
def execQor (w : LaneW) (s : State) : Out := maskWord 0x51 w s fun a b => a || b
def execQxor (w : LaneW) (s : State) : Out := maskWord 0x52 w s fun a b => a != b
def execQnot (w : LaneW) (s : State) : Out := maskWord 0x53 w s fun _ b => !b
def execQmov (w : LaneW) (s : State) : Out := maskWord 0x54 w s fun _ b => b
def execQpop (w : LaneW) (s : State) : Out :=
  lane 0 0x55 w s fun e => s.laneMap e 6 w.vd.toNat fun _ => (popN 32 (e.y.mask w.vb.toNat).toNat, 0)
def execQff (w : LaneW) (s : State) : Out :=
  lane 0 0x56 w s fun e => s.laneMap e 6 w.vd.toNat fun _ => (lowestBit 32 (e.y.mask w.vb.toNat).toNat, 0)

end Sys2Proof.Machine
end

