-- ==== Sys2Proof/Machine/Image.lean ====
section
/-!
DEFINITION. The save image (R377 to R380): where each part of a workgroup's context lies, what SPILL writes there and
what STAGE loads. A region in porter format names a context that the swap shelved (log entry 22).
-/
namespace Sys2Proof.Machine

/-- A field of an image: its offset and bytes, what it holds, what loading a value does (nothing for a field that is only
written), and the values within its range. -/
structure Fld where
  off : Nat
  size : Nat
  get : State → Nat
  set : Nat → State → State := fun _ s => s
  ok : Nat → Bool := fun _ => true

/-! ### Receipts and sequencer records (R109, R379) -/

def Receipt.num (r : Receipt) : Nat :=
  r.seq.toNat + r.off.toNat * 2 ^ 32 + r.stamp.toNat * 2 ^ 64 + r.h0.toNat * 2 ^ 128 + r.h1.toNat * 2 ^ 192
def receiptOf (n : Nat) : Receipt :=
  { seq := BitVec.ofNat 32 n, off := BitVec.ofNat 13 (n / 2 ^ 32), stamp := BitVec.ofNat 64 (n / 2 ^ 64),
    h0 := BitVec.ofNat 64 (n / 2 ^ 128), h1 := BitVec.ofNat 64 (n / 2 ^ 192) }

def Run.code : Run → Nat
  | .idle => 0
  | .running => 1
  | .waiting => 2
  | .stopped => 3
  | .halted => 4
  | .finished => 5
def runOf : Nat → Run
  | 0 => .idle
  | 1 => .running
  | 2 => .waiting
  | 3 => .stopped
  | 4 => .halted
  | _ => .finished

/-- A field of a sequencer. -/
def seqFld (a : Agent) (off size : Nat) (get : Seq → Nat) (set : Nat → Seq → Seq) (ok : Nat → Bool := fun _ => true) : Fld :=
  { off := off, size := size, get := fun s => get (s.seq a), set := fun n s => s.modSeq a (set n), ok := ok }

/-- A raise register: value, X0, X1, member mask, and op, nonempty and differs in the word after the mask. -/
def EReg.num (e : EReg) : Nat :=
  if e.vals = [] then 0
  else
    let u := e.nonUni
    combine e.op (e.vals.map fun x => x.2.1.toNat) + u.x0.toNat * 2 ^ 64 + u.x1.toNat * 2 ^ 128 + u.mask % 2 ^ 32 * 2 ^ 192 +
      (e.op % 8 + 8 + (if e.differs then 16 else 0)) * 2 ^ 224

/-- A raise register from its image (R377): unchanged when the image is what SPILL wrote, else contributions of the members
of the mask that combine to the value and, where it differs, to X0 and X1. -/
def EReg.ofNum (old : EReg) (n : Nat) : EReg :=
  let w (k : Nat) : Word := BitVec.ofNat 64 (n / 2 ^ (64 * k))
  let op := bits n 226 224
  let differs := natBit n 228
  let ms := onesOf 32 (bits n 223 192)
  let one (i m : Nat) : Nat × Word × Bool :=
    if op = 7 ∧ differs then (m, if i = 0 then w 1 else w 2, w 1 == w 2)
    else (m, if op = 6 ∧ i ≠ 0 then 0 else w 0, false)
  if n = old.num then old
  else if natBit n 227 then { op := op, mask := ms, vals := (List.range ms.length).map fun i => one i (ms.getD i 0), lanes := old.lanes }
  else {}

/-- The unended receipts of an outgoing link from the oldest: those of the receiver that has ended fewest. -/
def State.outgoing (s : State) (a : Agent) : List Receipt :=
  let q (r : Agent) : Seq := s.seq r
  let all (r : Agent) : List Receipt := (if (q r).ended + (q r).inq.length < (s.seq a).sent then [(q r).rc] else []) ++ (q r).inq
  (s.receivers a).foldl (fun l r => if l.length < (all r).length then all r else l) []

/-- Whether a receiver runs a block: the receipt that it runs has not ended. -/
def Seq.busy (q : Seq) : Bool := (if q.run = .stopped then q.prior else q.run) != .idle

/-- The receivers of a link have waiting what its loaded queue `l`, from the oldest unended receipt on, holds past the receipts
that they have ended or run. -/
def State.relink (s : State) (a : Agent) (l : List Receipt) : State :=
  let sent := (s.seq a).sent
  let rs := s.receivers a
  let least := rs.foldl (fun m r => min m (s.seq r).ended) sent
  rs.foldl (fun s r => s.modSeq r fun q =>
    let from' := q.ended + (if q.busy then 1 else 0) - least
    { q with inq := ((l.take (sent - least)).drop from').map fun x => match q.inq.find? fun y => y.seq == x.seq with
        | some y => { x with since := y.since, bad := y.bad }
        | none => x }) s

/-- Addresses of a spill area, from the oldest; a resident entry above the 240 of the area has none (R107, R379). -/
def spillOf (stack : List Word) : List Word := (List.range 240).map fun i => stack.reverse.getD i 0
/-- A call stack of `n` entries whose oldest ones a spill area holds. -/
def stackOf (old area : List Word) (n : Nat) : List Word :=
  ((List.range n).map fun i => if i < 240 then area.getD i 0 else old.reverse.getD i 0).reverse

/-- The record of a sequencer at offset `o` (R379). -/
def seqFields (a : Agent) (l : Lvl) (o : Nat) (region : Option GrpId) : List Fld :=
  let h := h0Code l
  (List.range 64).map (fun n =>
      seqFld a (o + 8 * n) 8 (fun q => if n < h + 2 then (q.readReg l n).toNat else 0)
        (fun v q => if n = 0 ∨ h ≤ n then q else { q with s := cset 0 q.s n (BitVec.ofNat 64 v) })) ++
  [ seqFld a (o + 512) 8 (fun q => maskOf 64 ((List.range 64).filter fun n => q.mark l n))
      (fun v q => { q with nu := (List.range 64).foldl (fun m n => if h ≤ n then m else cset false m n (natBit v n)) [] }),
    seqFld a (o + 520) 8 (fun q => q.pc + q.state.code * 2 ^ 61)
      (fun v q => { q with pc := bits v 56 0
                           run := if bits v 63 61 = 2 ∧ q.held = none then .running else runOf (bits v 63 61) })
      (fun v => decide (bits v 63 61 ≤ 5)),
    seqFld a (o + 528) 8 (fun q => q.slip.toNat) (fun v q => { q with slip := BitVec.ofNat 64 v }),
    { off := o + 536, size := 8
      get := fun s => (s.seq a).stack.length + (match region with | some g => (s.group g).rgn.toNat * 2 ^ 32 | none => 0)
      set := fun v s =>
        match region with
        | some g => s.modGroup g fun y => { y with rgn := BitVec.ofNat 32 (v / 2 ^ 32) }
        | none => s
      ok := fun v => decide (bits v 8 0 ≤ 256) } ] ++
  (List.range 8).map (fun n =>
      seqFld a (o + 544 + 4 * n) 4 (fun q => (q.ctr n).toNat) (fun v q => { q with lc := cset 0 q.lc n (BitVec.ofNat 32 v) })) ++
  [ seqFld a (o + 576) 32 (fun q => q.rc.num) (fun v q => { q with rc := receiptOf v }) ] ++
  (match region with
   | some g =>
     [ { off := o + 608, size := 32, get := fun s => (s.group g).regionRc.num
         set := fun v s => s.modGroup g fun y => { y with regionRc := receiptOf v } },
       { off := o + 640, size := 8, get := fun s => (s.group g).regionPc
         set := fun v s => s.modGroup g fun y => { y with regionPc := v % 2 ^ 57 } } ]
   | none => []) ++
  [ seqFld a (o + 648) 8 (fun q => q.sent) (fun v q => { q with sent := v }) ] ++
  (List.range 24).map (fun i =>
      { off := o + 656 + 4 * i, size := 4
        get := fun s => match (s.receivers a)[i]? with | some r => (s.seq r).ended % 2 ^ 32 | none => 0
        set := fun v s => match (s.receivers a)[i]? with
          | some r => s.modSeq r fun q => { q with ended := q.ended / 2 ^ 32 * 2 ^ 32 + v }
          | none => s }) ++
  (List.range 4).map (fun n => seqFld a (o + 752 + 32 * n) 32 (fun q => (agetD {} q.e n).num)
        (fun v q => { q with e := aput q.e n (EReg.ofNum (agetD {} q.e n) v) })) ++
  (List.range 8).map (fun i => { off := o + 880 + 32 * i, size := 32, get := fun s => (((s.outgoing a)[i]?).map Receipt.num).getD 0 }) ++
  [{ off := o + 1136, size := 144, get := fun _ => 0 }]

/-! ### Group records (R379) -/

def grpFld (g : GrpId) (off size : Nat) (get : Group → Nat) (set : Nat → Group → Group := fun _ y => y)
    (ok : Nat → Bool := fun _ => true) : Fld :=
  { off := off, size := size, get := fun s => get (s.group g), set := fun n s => s.modGroup g (set n), ok := ok }

/-- A window record with the byte length of its run (R31). A translation removed while the context was away leaves it
Dropped, whatever its image says (R45). -/
def Window.num (w : Window) : Nat := w.record + w.len * 2 ^ 192
def windowFrom (old : Window) (n : Nat) : Window :=
  let len := n / 2 ^ 192
  let vb := bits n 127 71
  { old with
    st := if bits n 191 190 = 1 then (if old.st = .dropped ∧ old.vbase.toNat = vb then .dropped else .bound)
      else if bits n 191 190 = 2 then .dropped else .unbound
    perm := BitVec.ofNat 3 (bits n 189 187), trk := natBit n 186, vbase := BitVec.ofNat 57 vb, frame := bits n 51 12 * 4096
    start := if len = 0 then vb else vb / len * len, len := len }
def windowOk (n : Nat) : Bool := bits n 191 190 != 3

/-- A deferred report: FAULT0 to FAULT7, the snapshot and the order. -/
def Report.num (r : Report) : Nat :=
  ofBytes ((List.range 8).flatMap (fun k => toBytes 8 (r.fr.word k)) ++ (List.range 4).flatMap (fun k => toBytes 8 (r.snap.getD k 0)) ++
    toBytes 8 r.order)

def Report.ofNum (old : Report) (n : Nat) : Report :=
  let w (k : Nat) : Nat := n / 2 ^ (64 * k) % 2 ^ 64
  if n = old.num then old
  else { old with
    fr := { cause := bits (w 0) 7 0, level := bits (w 0) 10 8, grp := bits (w 0) 19 16, lanes := bits (w 0) 63 32
            waddr := w 1 % 2 ^ 57, info := w 2, rgn := w 3 % 2 ^ 32, tln := w 4, saddr := w 5 % 2 ^ 57, x0 := w 6, x1 := w 7 }
    snap := [w 8, w 9, w 10, w 11], order := w 12 }

/-- `k` parts of a number, of `n` bytes each. -/
def parts (n k v : Nat) : List Nat := (List.range k).map fun i => v / 2 ^ (8 * n * i) % 2 ^ (8 * n)
def joinParts (n : Nat) (l : List Nat) : Nat := (l.zipIdx.map fun x => x.1 * 2 ^ (8 * n * x.2)).sum

/-- The lane queue, log or report area of an image: entry `i` changes the one that stands there, an invalid one is none. -/
def loadList {α : Type} [Inhabited α] (old : List α) (ok : Nat → Bool) (f : α → Nat → α) (l : List Nat) : List α :=
  (l.zipIdx.filter fun x => ok x.1).map fun x => f ((old[x.2]?).getD default) x.1

/-- A log entry: operands in GSTATE order, mask, address, scalar base and count of valid lanes. -/
def LogEntry.num (e : LogEntry) : Nat :=
  ofBytes ((List.range 128).flatMap fun k => toBytes 8 (cget 0 e.ops k)) + e.mask * 2 ^ 8192 + e.waddr * 2 ^ 8256 + e.base * 2 ^ 8320 +
    (onesOf 32 e.mask).length * 2 ^ 8384
def LogEntry.ofNum (e : LogEntry) (v : Nat) : LogEntry :=
  { e with
    ops := csetList 0 [] 0 ((List.range 128).map fun k => v / 2 ^ (64 * k) % 2 ^ 64), mask := v / 2 ^ 8192 % 2 ^ 32
    waddr := v / 2 ^ 8256 % 2 ^ 57, base := v / 2 ^ 8320 % 2 ^ 64 }

/-- A lane-queue entry: offset, flags, and eight window copies. -/
def LaneBlk.num (b : LaneBlk) : Nat :=
  b.off + (1 + (if b.perm then 2 else 0) + (if b.flush then 4 else 0)) * 2 ^ 64 +
    ofBytes (b.wins.flatMap fun w => toBytes 32 w.num) * 2 ^ 256
def laneBlkOf (b : LaneBlk) (n : Nat) : LaneBlk :=
  { b with
    off := n % 2 ^ 64, perm := natBit n 65, flush := natBit n 66
    wins := (List.range 8).map fun k => windowFrom (b.wins.getD k {}) (n / 2 ^ (256 * (k + 1)) % 2 ^ 256) }

/-- The record of a group at offset `o`, but for its matrix window; its stream's record stands first. -/
def groupFields (g : GrpId) (o : Nat) (tlc : State → Nat) : List Fld :=
  seqFields g.stream .S o (some g) ++
  (List.range 8).map (fun n => grpFld g (o + 1280 + 4 * n) 4 (fun y => (y.mask n).toNat) (fun v y => y.setMask n (BitVec.ofNat 32 v))) ++
  [ grpFld g (o + 1312) 8 (fun y => y.fctl + y.fflags * 256 + (if y.perm then 65536 else 0))
      (fun v y => { y with fctl := drndOf (bits v 2 0), fflags := bits v 12 8, perm := y.rwg && natBit v 16 }),
    { off := o + 1320, size := 8, get := fun s => s.clock - (s.group g).rotAt
      set := fun v s => s.modGroup g fun y => { y with rotAt := s.clock - v } } ] ++
  (List.range 2).flatMap (fun k =>
    [ grpFld g (o + 1328 + 16 * k) 8 (fun y => ((y.slotFrag k).map (·.pc)).getD 0)
        (fun v y => match y.slotFrag k with | some x => y.modFrag x.fid fun x => { x with pc := bits v 56 0 } | none => y),
      grpFld g (o + 1336 + 16 * k) 8 (fun y => ((y.slotFrag k).map (·.lanes.toNat)).getD 0)
        (fun v y => match y.slotFrag k with | some x => y.modFrag x.fid fun x => { x with lanes := BitVec.ofNat 32 v } | none => y) ]) ++
  [ { off := o + 1360, size := 8, get := tlc },
    grpFld g (o + 1368) 8 Group.tlm fun v y => if y.cmds = [] then { y with lastNum := v } else y,
    grpFld g (o + 1376) 8 Group.sealed fun v y => { y with sealed := v } ] ++
  (List.range 8).map (fun n =>
    grpFld g (o + 1408 + 32 * n) 32 (fun y => (agetD {} y.win n).num)
      (fun v y => { y with win := aput y.win n (windowFrom (agetD {} y.win n) v) }) windowOk) ++
  [ grpFld g (o + 1664) 4608 (fun y => joinParts 288 ((y.laneQ.take 16).map LaneBlk.num))
      (fun v y => { y with laneQ := loadList y.laneQ (natBit · 64) laneBlkOf (parts 288 16 v) }),
    grpFld g (o + 6272) 4224 (fun y => joinParts 1056 ((y.log.take 4).map LogEntry.num))
      (fun v y => { y with log := loadList y.log (fun n => n / 2 ^ 8192 % 2 ^ 32 != 0) LogEntry.ofNum (parts 1056 4 v) }),
    grpFld g (o + 10496) 1024 (fun y => joinParts 128 ((y.reports.take 8).map Report.num))
      fun v y => { y with reports := loadList y.reports (· != 0) Report.ofNum (parts 128 8 v) } ]

/-! ### The workgroup's own regions (R378) -/

def wgFld (w : WgId) (off size : Nat) (get : Wg → Nat) (set : Nat → Wg → Wg := fun _ x => x) : Fld :=
  { off := off, size := size, get := fun s => get (s.wg w), set := fun n s => s.modWg w (set n) }

/-- Core state: TAGS, DRAWN, slot and tile entries, E[g]. A held slot or tile may change its holder, tag or flags. -/
def coreFields (w : WgId) (groups dgrant : Nat) : List Fld :=
  let held (v : Nat) : Bool := v % 256 == 255 || decide (v % 256 < groups)
  [ wgFld w 4992 8 (fun x => x.tags.toNat) (fun v x => { x with tags := BitVec.ofNat 64 v }),
    { wgFld w 5000 8 Wg.drawn (fun v x => { x with drawn := v }) with ok := fun v => decide (v ≤ dgrant) } ] ++
  (List.range 16).map (fun m =>
    let f := wgFld w (5008 + 16 * m) 16 (fun x =>
        let z := agetD {} x.slots m
        let t := z.tag.getD (255, 0, 0)
        z.holder.getD 255 + m * 2 ^ 8 + t.1 * 2 ^ 16 + t.2.1 * 2 ^ 32 + t.2.2 * 2 ^ 48) fun v x =>
      let z := agetD {} x.slots m
      if z.holder.isNone ∨ v % 256 = 255 then x
      else { x with slots := aput x.slots m { z with
        holder := some (v % 256), tag := if bits v 31 16 = 255 then none else some (bits v 20 16, bits v 47 32, bits v 63 48) } }
    { f with ok := fun v => held v && (bits v 31 16 == 255 || decide (bits v 31 16 < 32)) && decide (bits v 47 32 ≤ 128) &&
        decide (bits v 63 48 ≤ 256) }) ++
  (List.range 16).map (fun a =>
    let f := wgFld w (5264 + 16 * a) 16 (fun x =>
        let z := agetD {} x.accs a
        z.holder.getD 255 + z.flags * 2 ^ 8) fun v x =>
      let z := agetD {} x.accs a
      if z.holder.isNone ∨ v % 256 = 255 then x
      else { x with accs := aput x.accs a { z with holder := some (v % 256), flags := bits v 12 8 } }
    { f with ok := fun v => held v && v < 2 ^ 13 }) ++
  (List.range 16).map fun g =>
    { wgFld w (5520 + 8 * g) 8 (fun x => cget 0 x.ends g) (fun v x => { x with ends := cset 0 x.ends g v }) with
      ok := fun v => decide (v < 2 ^ 48) }

/-- The MMA that a swap interrupted: its row cursor and TLM number (R388). -/
def State.interrupted (s : State) (w : WgId) : Nat :=
  let cmds := (s.groupsOf w).flatMap fun g => (s.group g).cmds
  match cmds.find? fun c => c.st == .inArray && decide (0 < c.cursor) with
  | some c => c.cursor % 128 + ((c.origins.map (·.num)).headD 0) * 2 ^ 64
  | none => 0

/-- The array record loads: the row from which the interrupted MMA of that number goes on. -/
def State.setInterrupted (s : State) (w : WgId) (n : Nat) : State :=
  (s.groupsOf w).foldl (fun s g => s.modGroup g fun y => { y with
    cmds := y.cmds.map fun c =>
      if c.st = .inArray ∧ 0 < c.cursor ∧ (c.origins.map (·.num)).headD 0 = n / 2 ^ 64 then { c with cursor := n % 128 } else c }) s

/-- The waiting handlers load: those of the groups listed, in that order (R308). -/
def Wg.setWaiting (x : Wg) (n : Nat) : Wg :=
  let gs := (parts 1 144 n).filter (· != 0xFF)
  { x with hwait := gs.eraseDups.flatMap fun g => x.hwait.filter fun e => hostGroup e.1 == g }

/-- Code tables: generation `n` of table `c`. -/
def tableFields (w : WgId) : List Fld :=
  (List.range 8).flatMap fun c => (List.range 2).map fun n =>
    wgFld w (8192 + 1024 * c + 512 * n) 512
      (fun x => ofBytes ((List.range 256).flatMap fun e => toBytes 2 (cget 0 (agetD {} x.cts c).ent (256 * n + e)).toNat))
      fun v x =>
        let z := agetD {} x.cts c
        { x with cts := aput x.cts c { z with
            ent := csetList 0 z.ent (256 * n) ((List.range 256).map fun e => BitVec.ofNat 16 (v / 2 ^ (16 * e))) } }

/-- Banks: row `k` at 256 k, a sparse group row at its own pitch (R212), then the column scales. -/
def bankFields (w : WgId) (pitch : Nat → Nat) : List Fld :=
  (List.range 2).flatMap fun b =>
    let o := 16384 + 33792 * b
    let p := max 256 (pitch b)
    (List.range (32768 / p)).map (fun k => wgFld w (o + p * k) p (fun x => cget 0 (agetD {} x.banks b).rows k % 2 ^ (8 * p)) fun v x =>
      let z := agetD {} x.banks b
      { x with banks := aput x.banks b { z with rows := cset 0 z.rows k v } }) ++
    (List.range 256).map fun j => wgFld w (o + 32768 + 4 * j) 4 (fun x => (cget 0x3F800000 (agetD {} x.banks b).cs j).toNat) fun v x =>
      let z := agetD {} x.banks b
      { x with banks := aput x.banks b { z with cs := cset 0x3F800000 z.cs j (BitVec.ofNat 32 v) } }

/-- Row pitch of a slot (R212). The bits of an untagged slot are written at the greatest and never loaded. -/
def Slot.pitch (z : Slot) : Nat :=
  match z.tag with
  | some t => rowPitch t.1
  | none => 512

/-- Held slots and tiles from offset `o`, in ascending order. -/
def heldFields (w : WgId) (ss as : List Nat) (pitch : Nat → Nat) (o : Nat) : List Fld :=
  (List.range ss.length).flatMap (fun i =>
    let m := ss.getD i 0
    (List.range (min 128 (32768 / max 1 (pitch m)))).map fun r =>
      wgFld w (o + 32768 * i + pitch m * r) (pitch m) (fun x => cget 0 (agetD {} x.slots m).rows r % 2 ^ (8 * pitch m)) fun v x =>
        let z := agetD {} x.slots m
        if z.tag.isNone then x else { x with slots := aput x.slots m { z with rows := cset 0 z.rows r v } }) ++
  (List.range as.length).flatMap fun i =>
    let a := as.getD i 0
    (List.range 128).map fun r =>
      wgFld w (o + 32768 * (ss.length + i) + 256 * r) 256
        (fun x => ofBytes ((List.range 64).flatMap fun c => toBytes 4 (cget 0 (agetD {} x.accs a).el (64 * r + c)).toNat)) fun v x =>
          let z := agetD {} x.accs a
          { x with accs := aput x.accs a { z with el := csetList 0 z.el (64 * r) ((List.range 64).map fun c => BitVec.ofNat 32 (v / 2 ^ (32 * c))) } }

/-- Everything between the header and the scratchpad. -/
def State.fields (s : State) (w : WgId) : List Fld :=
  let k := (s.grid w.c).k
  let x := s.wg w
  let ss := x.heldSlots
  let as := x.heldAccs
  seqFields (.wg w.c w.w) .W 128 none ++
  (if x.pos = 0 then seqFields (.pitch w.c x.pitch) .P 1408 none else [{ off := 1408, size := 1280, get := fun _ => 0 }]) ++
  seqFields (.handler w.c w.w) .H 2688 none ++
  [ { off := 2688 + 1136, size := 144, get := fun s =>
        ofBytes ((List.range 144).map fun i => match ((s.wg w).hwait)[i]? with
          | some e => BitVec.ofNat 8 (hostGroup e.1)
          | none => 0xFF)
      set := fun v s => s.modWg w (Wg.setWaiting · v)
      ok := fun v => (parts 1 144 v).all fun b => decide (b = 0xFF ∨ b < k.groups) } ] ++
  (List.range 128).map (fun c => wgFld w (3968 + 8 * c) 8 (fun x => (cget 0 x.htab c).toNat)
    fun v x => { x with htab := cset 0 x.htab c (BitVec.ofNat 64 v) }) ++
  coreFields w k.groups (s.grid w.c).dgrant ++
  [ { off := 5888, size := 16, get := fun s => s.interrupted w, set := fun v s => s.setInterrupted w v },
    { off := 5904, size := 2288, get := fun _ => 0 } ] ++ tableFields w ++ bankFields w (fun b => rowPitch (agetD {} x.banks b).fmt) ++
  (List.range k.groups).flatMap (fun g => groupFields ⟨w.c, w.w, g⟩ (83968 + 12544 * g)
    fun s => (s.wg w).tlc (s.group ⟨w.c, w.w, g⟩) g) ++
  (List.range k.groups).flatMap (fun g => (List.range k.vregs).map fun n =>
    grpFld ⟨w.c, w.w, g⟩ (k.vAt + 128 * k.vregs * g + 128 * n) 128
      (fun y => ofBytes ((List.range 32).flatMap fun j => toBytes 4 (y.vreg n j).toNat))
      fun v y => { y with v := csetList 0 y.v (32 * n) ((List.range 32).map fun j => BitVec.ofNat 32 (v / 2 ^ (32 * j))) }) ++
  heldFields w ss as (fun m => (agetD {} x.slots m).pitch) k.slotAt

/-! ### The header (R380) -/

/-- BNK0 and BNK1. -/
def Bank.num (z : Bank) : Nat :=
  (if z.loaded then 1 else 0) + z.fmt % 32 * 2 + (if z.n = 256 then 2 else if z.n = 128 then 1 else 0) * 64 + z.rv % 256 * 2 ^ 8 +
    z.cv % 512 * 2 ^ 16 + z.ct % 8 * 2 ^ 25 + z.gen % 2 * 2 ^ 28

/-- The header with the porter's fields set and the firmware's kept. -/
def State.header (s : State) (w : WgId) (old st : Nat) : Nat :=
  let x := s.wg w
  let fs : List (Nat × Nat × Nat) :=
    [ (29, 3, st), (32, 16, maskOf 16 x.heldSlots), (48, 16, maskOf 16 x.heldAccs),
      (88, 8, maskOf 8 ((List.range 8).filter fun c => (agetD {} x.cts c).cur == 1)), (192, 64, x.saves),
      (256, 32, (agetD {} x.banks 0).num), (288, 32, (agetD {} x.banks 1).num) ]
  fs.foldl (fun h f => setBits h f.1 f.2.1 f.2.2) old

/-- Whether the firmware's fields of a header fit a workgroup at a position; reserved ones are ignored (R7). -/
def headerOk (k : KObj) (g : Grid) (c pos h : Nat) : Bool :=
  bits h 15 0 == 1 && bits h 19 16 + 1 == k.groups && 16 * (bits h 22 20 + 1) == k.vregs && natBit h 23 == (pos == 0) && bits h 28 24 == pos &&
    bits h 165 160 == c && bits h 159 128 == g.nodeid && bits h 383 320 == k.imageB (pos == 0)

/-! ### The stale area (R287, R378) -/

/-- The tag and line of a copy, and the copy of a tag and line with its marked granules; a tag without holders is free. When
the write that it keeps out performed, the area does not hold. -/
def Stale.tag (c : Stale) : Nat := c.line + maskOf 16 c.holders * 2 ^ 48
def staleOf (old : List Stale) (tag : Nat) (data : List Byte) (bad : List Nat) : Option Stale :=
  if bits tag 63 48 = 0 then none
  else
    let hs := onesOf 16 (bits tag 63 48)
    some { line := bits tag 44 0, data := data, holders := hs, inArea := true, bad := bad
           time := ((old.find? fun c => c.line == bits tag 44 0 && c.holders == hs).map (·.time)).getD 0 }

/-! ### Marks -/

/-- Move poison marks of 32-byte granules with the data (R416). -/
def State.addPoison (s : State) (gs : List Nat) : State :=
  { s with poison := s.poison ++ gs.filter fun g => !s.poison.contains g }

/-- Poison marks of a context in its image: scratchpad, stale copies, banks, slots and tiles. -/
def State.imagePoison (s : State) (w : WgId) (image : Nat) : List Nat :=
  let k := (s.grid w.c).k
  let x := s.wg w
  let ss := x.heldSlots
  let as := x.heldAccs
  let sp := image + k.spAt ss.length as.length
  (x.spPoison.map fun g => sp / 32 + g) ++
    (x.stale.zipIdx.flatMap fun c => c.1.bad.map fun g => (sp + k.imageB (x.pos == 0) + 73728 + 128 * c.2) / 32 + g) ++
    ((List.range 2).filter fun b => (x.bank b).bad).map (fun b => (image + 16384 + 33792 * b) / 32) ++
    (List.range ss.length).flatMap (fun i => (agetD {} x.slots (ss.getD i 0)).bad.map fun g => (image + k.slotAt + 32768 * i) / 32 + g) ++
    (List.range as.length).flatMap fun i =>
      (agetD {} x.accs (as.getD i 0)).bad.map fun g => (image + k.slotAt + 32768 * (ss.length + i)) / 32 + g

/-! ### The system area (R107, R177, R354, R378) -/

/-- A fragment record, and a level record, of 16 bytes (R177; log entry 22). -/
def Frag.num (f : Frag) : Nat := f.pc + f.lanes.toNat * 2 ^ 64 + (match f.level with | some l => l % 128 + 128 | none => 0) * 2 ^ 96
def Level.num (l : Level) : Nat :=
  l.join + l.lanes.toNat * 2 ^ 57 + l.arrived.toNat * 2 ^ 89 + (match l.parent with | some p => p % 64 + 64 | none => 0) * 2 ^ 121

/-- The fragments of a group without a slot, and their records. -/
def Group.unslotted (y : Group) : List Frag := y.frags.filter fun f => !y.slots.contains f.fid
/-- The loaded records change the fragments and levels that stand. -/
def Group.loadArea (y : Group) (fs ls : List Nat) : Group :=
  let y1 := (y.unslotted.zip fs).foldl (fun (y : Group) x => y.modFrag x.1.fid fun f =>
    { f with pc := x.2 % 2 ^ 57, lanes := BitVec.ofNat 32 (x.2 / 2 ^ 64) }) y
  { y1 with levels := y1.levels.zipIdx.map fun x => match ls[x.2]? with
      | some n => { x.1 with join := n % 2 ^ 57, lanes := BitVec.ofNat 32 (n / 2 ^ 57), arrived := BitVec.ofNat 32 (n / 2 ^ 89) }
      | none => x.1 }

/-- The sequencers with a spill area on a core, in its order: workgroup, groups, and last the pitch's on the lead core. -/
def State.spillers (s : State) (w : WgId) : List Agent :=
  .wg w.c w.w :: ((s.groupsOf w).map GrpId.stream ++ if (s.wg w).pos = 0 then [.pitch w.c (s.wg w).pitch] else [])

/-- The system area as SPILL writes it: spill areas, then each group's divergence area; the pitch's spill area stands last. -/
def State.sysBytes (s : State) (w : WgId) : List Byte :=
  let stack (a : Agent) : List Byte := (spillOf (s.seq a).stack).flatMap fun v => toBytes 8 v.toNat
  let div (g : GrpId) : List Byte :=
    let y := s.group g
    let fill (n : Nat) (l : List Nat) : List Byte := (List.range n).flatMap fun i => toBytes 16 (l.getD i 0)
    fill 32 (y.unslotted.map Frag.num) ++ fill 64 (y.levels.map Level.num)
  let own := (s.spillers w).take (1 + (s.groupsOf w).length)
  own.flatMap stack ++ (s.groupsOf w).flatMap div ++ ((s.spillers w).drop own.length).flatMap stack

/-- Load a call stack of the depth that the record at `o` of an image gives, from the spill area at `sys`. -/
def State.loadStack (s : State) (a : Agent) (depth sys : Nat) : State :=
  let area := (List.range 240).map fun i => (BitVec.ofNat 64 (s.memNat (sys + 8 * i) 8) : Word)
  s.modSeq a fun q => { q with stack := stackOf q.stack area (bits depth 8 0) }

/-- Where the record of a sequencer stands in the image of its workgroup. -/
def recordAt : Agent → Nat
  | .pitch _ _ => 1408
  | .group _ _ g => 83968 + 12544 * g
  | _ => 128

/-- Load the system area at `sys` of an image. -/
def State.loadSys (s : State) (w : WgId) (image sys : Nat) : State :=
  let n := (s.grid w.c).k.groups
  let at' (i : Nat) : Nat := if i ≤ n then sys + 1920 * i else sys + 1920 * (1 + n) + 1536 * n
  let s1 := (s.spillers w).zipIdx.foldl (fun s x => s.loadStack x.1 (s.memNat (image + recordAt x.1 + 536) 8) (at' x.2)) s
  (s.groupsOf w).foldl (fun s g =>
    let o := sys + 1920 * (1 + n) + 1536 * g.g
    s.modGroup g fun y => y.loadArea ((List.range 32).map fun i => s1.memNat (o + 16 * i) 16)
      ((List.range 64).map fun i => s1.memNat (o + 512 + 16 * i) 16)) s1

/-! ### Regions in porter format (R378; log entry 22) -/

/-- Where an image names the shelved context: its chit progress and array record, and each group's matrix window. -/
def tokenAt : Nat := 5648
def windowAt (g : Nat) : Nat := 83968 + 12544 * g + 11520

/-- A context as a swap shelves it. -/
def State.snapshot (s : State) (w : WgId) : Shelf :=
  { w := w, x := s.wg w, groups := (s.groupsOf w).map fun g => (g, s.group g)
    seqs := (.handler w.c w.w :: s.spillers w).map fun a => (a, s.seq a) }

/-- The context that an image's chit progress names; none for one that the firmware has prepared. -/
def State.shelved (s : State) (image : Nat) : Option Shelf := aget? s.shelf (s.memNat (image + tokenAt) 8)

/-- Whether the regions in porter format name contexts of a workgroup, or none. -/
def State.tokensOk (s : State) (w : WgId) (image : Nat) : Bool :=
  (tokenAt :: (List.range (s.grid w.c).k.groups).map windowAt).all fun o =>
    let t := s.memNat (image + o) 8
    t == 0 || ((aget? s.shelf t).map (·.w)) == some w

/-- A workgroup's context stands as its image's regions in porter format name it, or as before its start; its core, place and
physical slots are of here. -/
def State.unshelve (s : State) (w : WgId) (image : Nat) : State :=
  let g := s.grid w.c
  let x := s.wg w
  let z := (s.shelved image).getD { x := { rules := g.k.rules } }
  let s1 := s.setWg w { z.x with core := x.core, pitch := x.pitch, pos := x.pos, gidx := x.gidx, place := x.place, image := x.image, phys := x.phys }
  let s2 := (.handler w.c w.w :: s1.spillers w).foldl (fun s a => s.setSeq a (agetD { dbg := g.dbg } z.seqs a)) s1
  (s2.groupsOf w).foldl (fun s h =>
    let y : Group := agetD { rwg := g.rwg, perm := g.rwg } z.groups h
    let m : Group := ((aget? s.shelf (s.memNat (image + windowAt h.g) 8)).map fun z => agetD {} z.groups h).getD {}
    s.setGroup h { y with cmds := m.cmds, hist := m.hist, base := m.base, laneWr := m.laneWr }) s2

/-! ### Writing and loading an image -/

/-- SPILL's writes: the context is shelved under a new name; records, registers, banks, tables, held slots and tiles, the
scratchpad with the system area, the stale area, then the header (R386). -/
def State.writeImage (s0 : State) (w : WgId) (image st : Nat) : State :=
  let token := s0.nextHandle
  let s : State := { s0 with nextHandle := token + 1, shelf := aput s0.shelf token (s0.snapshot w) }
  let k := (s.grid w.c).k
  let x := s.wg w
  let sp := image + k.spAt x.heldSlots.length x.heldAccs.length
  let b := k.imageB (x.pos == 0)
  let s1 := (s.fields w).foldl (fun s f => s.homeWrite (image + f.off) (toBytes f.size (f.get s))) s
  let s2 := (s1.homeWrite (image + tokenAt) (toBytes 240 token))
  let s3 := (List.range k.groups).foldl (fun s g => s.homeWrite (image + windowAt g) (toBytes 1024 token)) s2
  let region := s3.spBytes w 0 k.reservation ++ s3.sysBytes w
  let s4 := s3.homeWrite sp (region ++ List.replicate (b - region.length) 0)
  let s5 := (List.range 9216).foldl (fun s i =>
    match x.stale[i]? with
    | some c => (s.homeWrite (sp + b + 8 * i) (toBytes 8 c.tag)).homeWrite (sp + b + 73728 + 128 * i) c.data
    | none => s.homeWrite (sp + b + 8 * i) (toBytes 8 0)) s4
  let s6 := s5.addPoison (s.imagePoison w image)
  s6.homeWrite image (toBytes 128 (s6.header w (s6.memNat image 128) st))

/-- Whether every loadable field of an image of a workgroup is within its range, and its regions in porter format are the
porter's. -/
def State.imageOk (s : State) (w : WgId) (image : Nat) : Bool :=
  s.tokensOk w image &&
    let t := s.unshelve w image
    (t.fields w).all fun f => f.ok (s.memNat (image + f.off) f.size)

/-- Whether an image of a workgroup may stand at an address: aligned, in frames of its virtual function (R377). -/
def State.imagePlaced (s : State) (w : WgId) (image : Nat) : Bool :=
  let x := s.wg w
  image != 0 && image % 4096 == 0 &&
    s.frameOk (s.grid w.c).vf image ((s.grid w.c).k.imageSize x.heldSlots.length x.heldAccs.length (x.pos == 0))

/-- Granules, from 0 on, of `n` bytes at a physical address that are marked. -/
def State.marksAt (s : State) (pa n : Nat) : List Nat := (List.range ((n + 31) / 32)).filter fun g => s.poison.contains (pa / 32 + g)

/-- The marks of an image come with its data (R416). -/
def State.loadMarks (s : State) (w : WgId) (image : Nat) : State :=
  let k := (s.grid w.c).k
  let x := s.wg w
  let ss := x.heldSlots
  let as := x.heldAccs
  let at' (i : Nat) : List Nat := s.marksAt (image + k.slotAt + 32768 * i) 32768
  s.modWg w fun y => { y with
    spPoison := s.marksAt (image + k.spAt ss.length as.length) k.reservation
    banks := y.banks.map fun b => (b.1, { b.2 with bad := s.marksAt (image + 16384 + 33792 * b.1) 32768 != [] })
    slots := y.slots.map fun z => (z.1, match ss.findIdx? (· == z.1) with | some i => { z.2 with bad := at' i } | none => z.2)
    accs := y.accs.map fun z => (z.1, match as.findIdx? (· == z.1) with | some i => { z.2 with bad := at' (ss.length + i) } | none => z.2) }

/-- STAGE's loads. The links of the sequencers follow once every image of the pitch has loaded (`State.loadLinks`). -/
def State.loadImage (s0 : State) (w : WgId) (image : Nat) : State :=
  let s := s0.unshelve w image
  let k := (s.grid w.c).k
  let x := s.wg w
  let sp := image + k.spAt x.heldSlots.length x.heldAccs.length
  let b := k.imageB (x.pos == 0)
  let res := s.memBytes sp k.reservation
  let reg (i : Nat) : Nat := if k.ring = 0 then 0 else leAt res (k.scratch + 8 * i) 8
  let s1 := (s.fields w).foldl (fun s' f => f.set (s.memNat (image + f.off) f.size) s') s
  let s2 := (s1.loadSys w image (sp + k.reservation)).modWg w fun y => { y with
    sp := []
    notify := reg 1, cons := reg 2, doneCnt := reg 3
    stale := (List.range 9216).filterMap fun i =>
      let line := sp + b + 73728 + 128 * i
      staleOf y.stale (s.memNat (sp + b + 8 * i) 8) (s.memBytes line 128) (s.marksAt line 128) }
  (s2.spWrite w 0 res).loadMarks w image

/-- The outgoing queues of an image load: of the workgroup, and on the lead core of the pitch. -/
def State.loadLinks (s : State) (w : WgId) (image : Nat) : State :=
  let queue (a : Agent) : List Receipt := (List.range 8).map fun i => receiptOf (s.memNat (image + recordAt a + 880 + 32 * i) 32)
  let s1 := s.relink (.wg w.c w.w) (queue (.wg w.c w.w))
  let p : Agent := .pitch w.c (s.wg w).pitch
  if (s.wg w).pos = 0 then s1.relink p (queue p) else s1

end Sys2Proof.Machine
end

