-- ==== Sys2Proof/Machine/Porter.lean ====
section
/-!
DEFINITION. The porter (R381 to R388, R390): staging, swapping, spilling, unstaging and killing pitches; the context
that NOFRAME stops (R376).
-/
namespace Sys2Proof.Machine

/-! ### Commands (R381) -/

/-- A porter command: the 128 bits of its two stores. -/
structure PCmd where
  n : Nat
  deriving DecidableEq, Repr

def PCmd.op (p : PCmd) : Nat := bits p.n 3 0
def PCmd.tag (p : PCmd) : Nat := bits p.n 17 10
def PCmd.ph (p : PCmd) : Nat := bits p.n 21 18
def PCmd.pw (p : PCmd) : Nat := bits p.n 25 22
def PCmd.lead (p : PCmd) : CoreId := ⟨bits p.n 35 34, bits p.n 29 26, bits p.n 33 30⟩
def PCmd.itab (p : PCmd) : Nat := bits p.n 115 64
def PCmd.bad (p : PCmd) : Bool := bits p.n 9 4 != 0 || bits p.n 63 36 != 0 || bits p.n 127 116 != 0
def PCmd.cores (p : PCmd) : List CoreId := rectCores p.lead p.pw p.ph

/-- Entry `i` of the image table. -/
def State.imageAt (s : State) (p : PCmd) (i : Nat) : Nat := if p.itab = 0 then 0 else s.memNat (p.itab + 8 * i) 8

/-- Post the completion that a die's porter holds, once its ring has room (R331). -/
def State.flushPorter (s : State) (die : Nat) : State :=
  let d := s.die die
  match d.porterPost with
  | none => s
  | some e =>
    if d.porterRing.lg ≠ 0 ∧ d.porterRing.full then s
    else
      let (s1, r) := s.ringPost d.porterRing (toBytes 16 e)
      s1.modDie die fun d => { d with porterRing := r, porterPost := none }

/-- Post a completion to the porter ring of a die; while the ring is full it waits (R331, R381). -/
def State.porterDone (s : State) (die : Nat) (p : PCmd) (status : Nat) : State :=
  (s.modDie die fun d => { d with porterPost := some (p.tag + p.op * 2 ^ 8 + status * 2 ^ 12) }).flushPorter die

/-! ### Pitches of a rectangle -/

/-- The workgroups of one pitch, by POS, that a list names. -/
def State.asPitch (s : State) (ws : List (Option WgId)) : Option (List WgId) :=
  match ws with
  | some w :: _ => if ws = (s.wgsOf w.c (s.wg w).pitch).map some then some (s.wgsOf w.c (s.wg w).pitch) else none
  | _ => none

/-- The pitch that stands on a rectangle, resident or staged. -/
def State.pitchOn (s : State) (cs : List CoreId) (pl : Place) : Option (List WgId) :=
  s.asPitch (cs.map fun c => (s.wgs.find? fun x => x.2.core = c ∧ x.2.place = pl).map Prod.fst)

/-- The contexts whose images a command names: of the workgroup that has it, or of a copy of it, that its chit progress names
(R377). -/
def State.namedBy (s : State) (p : PCmd) : List (Option WgId) :=
  (List.range p.cores.length).map fun i =>
    let a := s.imageAt p i
    if a = 0 then none
    else ((s.wgs.find? fun x => x.2.image == a).map Prod.fst).orElse fun _ =>
      ((s.shelved a).map (·.w)).filter fun w => (aget? s.wgs w).isSome

/-- What a command comes to: the state after it, a status with nothing changed, or that it goes on later. -/
inductive PRes where
  | done (s : State)
  | fail (status : Nat)
  | wait (s : State)
  deriving DecidableEq, Repr

/-! ### Swap out (R384 to R386) -/

/-- The lines that a context's groups have read in their phase, with copies in the stale area (R386, step 5). -/
def State.shelve (s : State) (w : WgId) : State :=
  let core := (s.wg w).core
  let mine := s.dir.filter fun e => e.2.bitsOf core != []
  let s1 := mine.foldl (fun s e => s.keepStale w e.1 (s.inPhase w e.1)) s
  let s2 := mine.foldl (fun s e => s.modDir e.1 fun d => { d with l1 := aput d.l1 core [] }) s1
  s2.modWg w fun x => { x with stale := x.stale.map fun c => { c with inArea := true } }

/-- Issued stores to NOTIFY are recorded (R199, R384); none while one must wait. -/
def State.settleNotify (s : State) (w : WgId) : Nat → Option State
  | 0 => if (s.wg w).notifyQ = [] then some s else none
  | n + 1 =>
    if (s.wg w).notifyQ = [] then some s
    else
      let s1 := s.recordNotify w
      if (s1.wg w).notifyQ.length < (s.wg w).notifyQ.length then s1.settleNotify w n else none

/-- Whether a chit stands within a 4 KiB step. -/
def Chit.midStep (q : Chit) : Bool :=
  q.started && !q.finished && q.hold.isNone && decide ((q.pos + q.part.length) * layW q.lay / 32768 < q.checked)

/-- Chit `k` completes its step in progress (R384); none while it must wait. -/
def State.finishStep (s : State) (w : WgId) (k : Nat) : Nat → Option State
  | 0 => none
  | n + 1 =>
    match (s.wg w).chits[k]? with
    | none => some s
    | some q =>
      if !q.midStep then some s
      else match execChitStep w.c w.w k s with
        | .next s1 => if (s1.wg w).chits[k]? = some q then none else s1.finishStep w k n
        | _ => none

/-- What a context had started performs: recorded NOTIFY stores, the copy engine's steps in progress, issued accesses, and
the stores of its core (R384); none while one of them must wait. -/
def State.settleWg (s : State) (w : WgId) : Option State :=
  (s.settleNotify w (s.wg w).notifyQ.length).bind fun s1 =>
    ((List.range (s1.wg w).chits.length).foldl (fun (a : Option State) k => a.bind fun s => s.finishStep w k 16384) (some s1)).bind fun s2 =>
      let s3 := (s2.groupsOf w).foldl (fun s g => (s.forceReads g fun _ _ => true).forceOwed g fun _ _ => true) s2
      if (s3.groupsOf w).any fun g => s3.owes g then none else s3.drain? fun p => p.src == w

/-- A context leaves its core: what it had started performs, its draw units return, it is spilled to its image when it
has one, and it becomes `pl` once the image is written; a waiting DRAW keeps its place. None while something must wait. A
swap is a timed cut (R254). -/
def State.swapOut (s : State) (w : WgId) (image : Nat) (pl : Place) : Option State :=
  let drawn := (s.wg w).drawn
  ((s.cutAll w).settleWg w).bind fun s1 =>
    let s2 := ((s1.returnDraw w).shelve w).modWg w fun x => { x with drawn := drawn, saves := x.saves + 1, image := image, phys := 16 }
    let s3 := if image = 0 then s2 else s2.writeImage w image (if pl = .noframe then 3 else 0)
    (s3.drainHost? (fun x => image != 0 && x.agent == 0 && overlap x.pa x.data.length image (s.imageBytes w)) s3.hostPend.length).map
      fun s4 => s4.modWg w fun x => { x with place := pl }

/-! ### Swap in (R387) -/

/-- A window after its rewalk: Dropped when the walk gives another translation, or faults (R45, R387). -/
def State.rewalk (s : State) (sp : Space) (x : Window) : Window :=
  if x.st ≠ .bound then x
  else
    match (s.translate sp x.vbase.toNat).2 with
    | .ok tr => if tr.frame = x.frame ∧ tr.start = x.start ∧ tr.len = x.len ∧ tr.perm = x.perm ∧ tr.trk = x.trk then { x with lines := tr.lines } else { x with st := .dropped }
    | _ => { x with st := .dropped }

/-- Every window and window copy of a group. -/
def Group.windows (y : Group) : List Window := y.win.map Prod.snd ++ y.laneQ.flatMap (·.wins) ++ (y.blk.map (·.wins)).getD []

/-- Whether a walk of a context's windows waits for a page-table store (R370). -/
def State.walkWaits (s : State) (w : WgId) : Bool :=
  (s.groupsOf w).any fun g => (s.group g).windows.any fun x =>
    x.st == .bound && (s.translate (s.space g.stream) x.vbase.toNat).2 == .wait

/-- Rewalk every window and window copy of a context; the walks set the sharers of the lines they read. -/
def State.rewalkAll (s : State) (w : WgId) : State :=
  (s.groupsOf w).foldl
    (fun s g =>
      let sp := s.space g.stream
      let f := s.rewalk sp
      let y := s.group g
      let s1 := (y.windows.filter (·.st == .bound)).foldl (fun s x => (s.translate sp x.vbase.toNat).1) s
      s1.setGroup g { y with
        win := y.win.map fun x => (x.1, f x.2)
        laneQ := y.laneQ.map fun b => { b with wins := b.wins.map f }
        blk := y.blk.map fun b => { b with wins := b.wins.map f } })
    s

/-- Steps of 64 KiB that a core's scratchpad part takes (R354). -/
def sramSteps (bytes : Nat) : Nat := (bytes + 65535) / 65536

/-- Lines of L1 beside a scratchpad part of so many steps, of 1 MiB of SRAM; 7,168 at most (R287, R354). -/
def l1Beside (steps : Nat) : Nat := min 7168 (512 * (16 - steps))

/-- A context comes to run on its core: it claims its DRAWN, takes back the copies that L1 can hold, rewalks its windows,
and goes on with what was serviced meanwhile. A DRAW that waits keeps its place in the die's queue, and takes the last one
on another die (R276). -/
def State.swapIn (s : State) (w : WgId) : State :=
  let x := s.wg w
  let waits : Bool := match (s.seq (.wg w.c w.w)).held with | some (.draw _) => true | _ => false
  let room := s.l1Lines x.core
  let s0 := if waits ∧ !(s.die x.core.die).drawQ.contains w then s.leaveDraw w else s
  let s1 := s0.modDie x.core.die fun d =>
    { d with poolFree := d.poolFree - x.drawn, drawQ := if waits ∧ !d.drawQ.contains w then d.drawQ ++ [w] else d.drawQ }
  let s2 := s1.modWg w fun x => { x with
    place := .resident, phys := 16
    stale := (x.stale.take room).map (fun c => { c with inArea := false }) ++ (x.stale.drop room).map fun c => { c with inArea := true } }
  let s3 := (s2.shrinkL1 x.core (s2.l1Held x.core).length).getD s2
  ((s3.rewalkAll w).setImageState x.image 2).serveReady w

/-- A staged pitch comes to run with its lead core on `lead` (R384, R387); none while a walk of its windows waits. -/
def State.swapInAll (s : State) (ws : List WgId) (lead : CoreId) : Option State :=
  if ws.any s.walkWaits then none
  else
    let c := (ws.headD default).c
    let q := (s.wg (ws.headD default)).pitch
    some ((ws.foldl State.swapIn s).setPitch c q { s.pitch c q with lead := lead })

/-! ### What the commands do (R382) -/

/-- Whether a context of `k` fits beside the resident one of a core: SRAM, copy queue and physical slots. A split that
takes an L1 way with a read-in-phase line fails too: surely where L1 could not keep every such line, else the odd choice
says that one is taken (R383). -/
def State.stageRoom (s : State) (core : CoreId) (need : Nat × Nat) (slots choice : Nat) : Bool :=
  match s.residentOn core with
  | none => s.roomOn need.1 need.2 none
  | some r =>
    let old := sramSteps (s.needs r).1
    let new := sramSteps ((s.needs r).1 + need.1)
    let marked := (s.dir.filter fun e => e.2.bitsOf core != []).length
    s.roomOn need.1 need.2 (some r) && decide (slots + (s.wg r).heldSlots.length ≤ 16) &&
      !(decide (old < new) && (decide (l1Beside new < marked) || marked != 0 && choice % 2 == 1))

/-- A context stands in the shadow bank of a core. -/
def State.stageWg (s : State) (w : WgId) (core : CoreId) (image : Nat) : State :=
  let n := (s.wg w).heldSlots.length
  let s1 := (s.modWg w fun x => { x with core := core, place := .staged, image := image }).setImageState image 1
  match s.residentOn core with
  | some r => s1.modWg r fun x => { x with phys := 16 - n }
  | none => s1

/-- Whether a command's images are Saved and its cores' shadow banks empty (R382). -/
def State.stageReady (s : State) (p : PCmd) : Bool :=
  (List.range p.cores.length).all fun i =>
    bits (s.memNat (s.imageAt p i) 128) 31 29 == 0 && (s.stagedOn (p.cores.getD i default)).isNone

/-- Load images into the shadow banks of a rectangle, and the links between them; what the L1s of its cores must give up is
written back first (R354). -/
def State.stageAll (s0 s : State) (p : PCmd) (ws : List WgId) : PRes :=
  let img (i : Nat) := s.imageAt p i
  let n := List.range ws.length
  let s1 := n.foldl (fun s i => (s.loadImage (ws.getD i default) (img i)).stageWg (ws.getD i default) (p.cores.getD i default) (img i)) s
  let s2 := n.foldl (fun s i => s.loadLinks (ws.getD i default) (img i)) s1
  match s0.splitBack s2 p.cores with
  | some s3 => .done s3
  | none => .wait s0

/-- STAGE of a pitch saved before. -/
def State.stageSaved (s : State) (p : PCmd) (ws : List WgId) : PRes :=
  let n := ws.length
  let w (i : Nat) : WgId := ws.getD i default
  let img (i : Nat) := s.imageAt p i
  let (ch, s0) := s.choose
  let fine (i : Nat) : Bool :=
    let k := (s.grid (w i).c).k
    headerOk k (s.grid (w i).c) (w i).c i (s.memNat (img i) 128) && s.imagePlaced (w i) (img i) && s.imageOk (w i) (img i)
  let slots (i : Nat) : Nat := ((s.unshelve (w i) (img i)).wg (w i)).heldSlots.length
  if (ws.any fun w => (s.wg w).place != .saved) ∨ !s.stageReady p then .fail 1
  else if !((List.range n).all fine) then .fail 3
  else if !((List.range n).all fun i => s.stageRoom (p.cores.getD i default) (s.needs (w i)) (slots i) ch) then .fail 2
  else match s0.stageAll s0 p ws with
    | .wait _ => .wait s
    | r => r

/-- STAGE of the next pitch of a grid from images that the firmware has prepared. -/
def State.stageFresh (s : State) (p : PCmd) : PRes :=
  let n := p.pw * p.ph
  let img (i : Nat) := s.imageAt p i
  let c := bits (s.memNat (img 0) 128) 165 160
  let g := s.grid c
  let q := g.placed
  let (ch, s0) := s.choose
  let ws : List WgId := (List.range n).map fun i => ⟨c, q * n + i⟩
  let new := (List.range n).foldl (fun s i =>
    (s.addWg c q i (q * n + i) (p.cores.getD i default)).modWg ⟨c, q * n + i⟩ fun x => { x with place := .saved }) s0
  let s1 := ((new.setPitch c q { lead := p.lead, wgs := ws.map (·.w) }).setSeq (.pitch c q) { dbg := g.dbg }).modGrid c fun g =>
    { g with placed := q + 1, reqSince := s.clock, reqOld := false }
  if !s.stageReady p then .fail 1
  else if (aget? s.grids c).isNone ∨ !g.asks ∨ g.pw ≠ p.pw ∨ g.ph ≠ p.ph ∨
      !((List.range n).all fun i => img i % 4096 == 0 && s.frameOk g.vf (img i) (g.k.imageSize 0 0 (i == 0)) &&
        headerOk g.k g c i (s.memNat (img i) 128) && s1.imageOk (ws.getD i default) (img i)) then .fail 3
  else if !((List.range n).all fun i => s.stageRoom (p.cores.getD i default) (g.k.sram (i == 0), g.k.copyq) 0 ch) then .fail 2
  else match s0.stageAll s1 p ws with
    | .wait _ => .wait s
    | r => r

/-- STAGE: loads saved images into the shadow banks of a rectangle (R382, R383). -/
def State.doStage (s : State) (p : PCmd) : PRes :=
  let named := s.namedBy p
  match s.asPitch named with
  | some ws => s.stageSaved p ws
  | none => if named.all Option.isNone then s.stageFresh p else .fail 1

/-- Whether the images of a command can take the context of these workgroups (R377). -/
def State.imagesOk (s : State) (p : PCmd) (ws : List WgId) : Bool :=
  (List.range ws.length).all fun i => s.imagePlaced (ws.getD i default) (s.imageAt p i)

/-- Spill the resident pitch of a rectangle to the images of a command; none while something must wait. -/
def State.spillAll (s : State) (p : PCmd) (ws : List WgId) : Option State :=
  (List.range ws.length).foldl
    (fun (a : Option State) i => a.bind fun s => s.swapOut (ws.getD i default) (s.imageAt p i) .saved) (some s)

/-- A command that waits goes on in the state that it found. -/
def PRes.ofOption (s : State) : Option State → PRes
  | some t => .done t
  | none => .wait s

/-- SWAP: the staged pitch comes to run; the resident one, if any, is spilled. It waits while the die's pool
cannot supply the saved DRAWN (R272, R387). -/
def State.doSwap (s : State) (p : PCmd) : PRes :=
  let drawn (ws : List WgId) : Int := ws.foldl (fun n w => n + ((s.wg w).drawn : Int)) 0
  let free := (s.die p.lead.die).poolFree
  match s.pitchOn p.cores .staged, s.pitchOn p.cores .resident with
  | some inc, some out =>
    if !s.imagesOk p out then .fail 3
    else if drawn inc ≠ 0 ∧ free + drawn out < drawn inc then .wait s
    else .ofOption s ((s.spillAll p out).bind (·.swapInAll inc p.lead))
  | some inc, none =>
    if p.cores.any fun c => (s.residentOn c).isSome then .fail 1
    else if drawn inc ≠ 0 ∧ free < drawn inc then .wait s
    else .ofOption s (s.swapInAll inc p.lead)
  | _, _ => .fail 1

/-- SPILL: as SWAP with nothing incoming (R382). -/
def State.doSpill (s : State) (p : PCmd) : PRes :=
  match s.pitchOn p.cores .resident with
  | some out => if !s.imagesOk p out then .fail 3 else .ofOption s (s.spillAll p out)
  | none => .fail 1

/-- UNSTAGE: discards the staged copies; the images stay Saved (R382). -/
def State.doUnstage (s : State) (p : PCmd) : PRes :=
  match s.pitchOn p.cores .staged with
  | some ws => .done (ws.foldl (fun s w =>
      ((s.modWg w fun x => { x with place := .saved }).setImageState (s.wg w).image 0).unshadow (s.wg w).core) s)
  | none => .fail 1

/-- Kill a pitch in the order of R389: its issue stops and its queued work goes; once what it issued has performed, its
resources are released and its images become Killed, which its workgroups have no more. -/
def State.killPitch (s : State) (p : PCmd) (ws : List WgId) : PRes :=
  let s1 := ws.foldl (fun s w => (s.killWg w).payOwed w) s
  let s2 := match ws with
    | w :: _ => s1.modSeq (.pitch w.c (s.wg w).pitch) Seq.kill
    | [] => s1
  if !ws.all s2.quietWg then .wait s2
  else
    .done ((List.range ws.length).foldl
      (fun s i =>
        let w := ws.getD i default
        ((s.releaseWg w).setImageState (if (s.wg w).image = 0 then s.imageAt p i else (s.wg w).image) 4).modWg w fun x =>
          { x with image := 0 }) s2)

/-- KILL: of the pitch whose images the command names, or those images when no workgroup has them; else of the rectangle's
pitch, in any state (R382, R390). -/
def State.doKill (s : State) (p : PCmd) : PRes :=
  let named := s.namedBy p
  let images := ((List.range p.cores.length).map (s.imageAt p)).filter (· != 0)
  match s.asPitch named, [Place.resident, .dying, .staged, .saved, .noframe].findSome? (s.pitchOn p.cores) with
  | some ws, _ => s.killPitch p ws
  | none, here =>
    if images ≠ [] ∧ named.all Option.isNone then .done (images.foldl (fun s a => s.setImageState a 4) s)
    else match here with
      | some ws => if images = [] then s.killPitch p ws else .fail 1
      | none => .fail 1

/-! ### Taking commands (R381, R382) -/

/-- What a well-formed command does. -/
def State.runPorter (s : State) (p : PCmd) : PRes :=
  match p.op with
  | 1 => s.doStage p
  | 2 => s.doSwap p
  | 3 => s.doSpill p
  | 4 => s.doUnstage p
  | _ => s.doKill p

/-- A die's porter tries a command: the state after, and whether the command has ended. -/
def State.tryPorter (s : State) (die : Nat) (p : PCmd) : State × Bool :=
  if p.op = 0 ∨ 5 < p.op ∨ p.bad then (s.porterDone die p 4, true)
  else if p.lead.die ≠ die ∨ p.pw * p.ph = 0 ∨ 24 < p.pw * p.ph ∨ !(p.cores.all s.inService) then (s.porterDone die p 1, true)
  else
    match s.runPorter p with
    | .done s1 => (s1.porterDone die p 0, true)
    | .fail st => (s.porterDone die p st, true)
    | .wait s1 => (s1, false)

/-- Whether two commands are performed in order of arrival: their rectangles meet, or they name an image in common (R382,
R390). -/
def State.porterMeets (s : State) (p q : PCmd) : Bool :=
  let images (p : PCmd) : List Nat := ((List.range p.cores.length).map (s.imageAt p)).filter (· != 0)
  p.cores.any q.cores.contains || (images p).any (images q).contains

/-- The commands that a die's porter has taken, in order; `kept` must wait. It ends none while a completion waits for room in
its ring (R331). -/
def State.porterGo (s : State) (die : Nat) (kept : List Nat) : List Nat → State
  | [] => s.modDie die fun d => { d with porterQ := kept }
  | n :: l =>
    if (s.die die).porterPost.isSome then s.modDie die fun d => { d with porterQ := kept ++ n :: l }
    else if kept.any fun k => s.porterMeets ⟨k⟩ ⟨n⟩ then s.porterGo die (kept ++ [n]) l
    else match s.tryPorter die ⟨n⟩ with
      | (s1, true) => s1.porterGo die kept l
      | (s1, false) => s1.porterGo die (kept ++ [n]) l

/-- A die's porter goes on with its commands. -/
def State.porterTurn (s : State) (die : Nat) : State :=
  let s1 := s.flushPorter die
  s1.porterGo die [] (s1.die die).porterQ

/-- A die's porter takes a command at its second store, `hi`, when its OP is `op`, behind those that it has taken before. -/
def porter (die hi op : Nat) (s : State) : Out :=
  let p : PCmd := ⟨(s.die die).porterLow % 2 ^ 64 + hi % 2 ^ 64 * 2 ^ 64⟩
  if s.dies.length ≤ die ∨ (1 ≤ p.op ∧ p.op ≤ 5 ∧ p.op ≠ op) then .next s
  else .next ((s.modDie die fun d => { d with porterQ := d.porterQ ++ [p.n] }).porterTurn die)

/-- PORTER_STAGE (R382, R383). -/
def execPorterStage (die cmd : Nat) (s : State) : Out := porter die cmd 1 s
/-- PORTER_SWAP (R384, R385). -/
def execPorterSwap (die cmd : Nat) (s : State) : Out := porter die cmd 2 s
/-- PORTER_SPILL (R386). -/
def execPorterSpill (die cmd : Nat) (s : State) : Out := porter die cmd 3 s
/-- PORTER_UNSTAGE (R382). -/
def execPorterUnstage (die cmd : Nat) (s : State) : Out := porter die cmd 4 s
/-- PORTER_KILL (R389, R390). -/
def execPorterKill (die cmd : Nat) (s : State) : Out := porter die cmd 5 s

/-! ### NOFRAME (R376) -/

/-- Every pitch of a context is saved and stopped, and its grid sequencer stops; none while a core withholds an
acknowledgement. -/
def State.stopCtx (s : State) (c : Nat) : Option State :=
  (((s.wgs.map Prod.fst).filter (·.c == c)).foldl
    (fun (a : Option State) w => a.bind fun s =>
      let x := s.wg w
      match x.place with
      | .resident => s.swapOut w x.image .noframe
      | .staged => some (((s.modWg w fun x => { x with place := .noframe }).setImageState x.image 3).unshadow x.core)
      | .saved => some ((s.modWg w fun x => { x with place := .noframe }).setImageState x.image 3)
      | _ => some s) (some s)).map fun s => s.modGrid c fun g => { g with noframe := true }

/-- REPLAY with CODE 10: the context of the request is saved and stopped resumably; for an access of the front end it is
a declined service (R344, R376). -/
def execReplayNoframe (h : Nat) (s : State) : Out :=
  match aget? s.holds h with
  | none => .next s
  | some x =>
    if Config.gridContexts ≤ x.ctx then .next (s.decline h x)
    else
      match s.stopCtx x.ctx with
      | none => .next s
      | some s1 => .next { s1 with holds := aput s1.holds h { x with noframe := true } }

end Sys2Proof.Machine
end

