-- ==== Sys2Proof/Machine/Repair.lean ====
section
/-!
DEFINITION. Partitions and remote ways (R397, R398, R402 to R405), gating (R401), errors and the error ring (R415 to
R419), and field repair (R421).
-/
namespace Sys2Proof.Machine

/-! ### Ways (R397, R398, R402 to R405) -/

/-- A mask less the ways of a set. -/
def Die.clearWays (d : Die) (slice : Nat) (gone : List Nat) : Die :=
  let less (m : Cells Nat) (p : Nat) : Cells Nat :=
    cset 0 m (16 * slice + p) (maskOf 16 ((waysOf (d.mask slice p)).filter fun w => !gone.contains w))
  { d with pmask := (List.range 16).foldl less d.pmask }

/-- Lines that L2 of a die holds where `p` selects them leave it: they are at their homes, and of a remote line the L1s of the
die lose their copies too (R398, R421). None while a core withholds an acknowledgement. -/
def State.flushWays (s : State) (die : Nat) (p : Nat → L2Line → Bool) : Option State :=
  let lines := ((s.die die).l2.flatMap fun x => (x.2.filter (p x.1.1)).map (·.line)).filter fun l => homeDie die l != die
  let drop (s : State) (line : Nat) : Option State :=
    (((s.dirEnt line).l1.map Prod.fst).filter fun c => c.die == die).foldl
      (fun (a : Option State) c => a.bind fun s => if s.mayInvalidate c line then some (s.invalidate c line) else none) (some s)
  (lines.foldl (fun (a : Option State) l => a.bind fun s => drop s l) (some s)).map fun s1 => s1.l2Drop die p

/-- RWAYS (R397, R398): ways that enter remote use leave every partition mask and lose their local lines; ways that leave it
lose their remote lines. The write completes only then. -/
def execRwaysWrite (die value : Nat) (s : State) : Out :=
  if s.dies.length ≤ die then .next s
  else
    let v := min 8 (value % 16)
    let d := s.die die
    let lo := 16 - max v d.rways
    let hi := 16 - min v d.rways
    match s.flushWays die fun _ y => decide (lo ≤ y.way) && decide (y.way < hi) with
    | none => .next s
    | some s1 =>
      let gone := (List.range 16).filter fun w => decide (16 - v ≤ w)
      .next (s1.modDie die fun d =>
        let d1 : Die := { d with rways := v }
        if d.rways < v then (List.range 32).foldl (fun (d : Die) sl => d.clearWays sl gone) d1 else d1)

/-- PMASK: ignored where it overlaps another partition's mask, the remote ways or a retired way (R402, R421). -/
def execPmaskWrite (die slice p mask : Nat) (s : State) : Out :=
  let d := s.die die
  let m := mask % 2 ^ 16
  let taken (w : Nat) : Bool := decide (16 - d.rways ≤ w) || d.retiredWays.contains (slice, w) ||
    (List.range 16).any fun q => q != p && natBit (d.mask slice q) w
  if s.dies.length ≤ die ∨ 32 ≤ slice ∨ 16 ≤ p ∨ (waysOf m).any taken then .next s
  else .next (s.setDie die { d with pmask := cset 0 d.pmask (16 * slice + p) m })

/-- The partition that comes first by a value among candidates, ties to the lower one. -/
def pick (better : Nat → Nat → Bool) (f : Nat → Nat) (ps : List Nat) : Option Nat :=
  ps.foldl (fun a p => match a with | some q => if better (f p) (f q) then some p else a | none => some p) none

/-- The way that an interval moves: from a donor to a receiver (R404), with `hit p n` the shadow hits at position `n`. -/
def Die.wayMove (d : Die) (slice : Nat) (hit : Nat → Nat → Nat) : Option (Nat × Nat × Nat) :=
  let n (p : Nat) : Nat := (waysOf (d.mask slice p)).length
  let w (p : Nat) : Pway := agetD {} d.pway p
  let ps := (List.range 16).filter fun p => (w p).mon
  let low := ps.filter fun p => decide (n p < (w p).floor) && decide (n p < (w p).ceil)
  let cand := if low = [] then ps.filter fun p => decide (n p < (w p).ceil) else low
  match pick (fun a b => decide (b < a)) (fun p => hit p (n p)) cand with
  | none => none
  | some r =>
    match pick (fun a b => decide (a < b)) (fun p => hit p (n p - 1)) (ps.filter fun p => p != r && decide ((w p).floor < n p)) with
    | none => none
    | some q =>
      if hit q (n q - 1) < hit r (n r) then (waysOf (d.mask slice q)).head?.map fun x => (q, r, x) else none

/-- One interval of a slice's utility monitor: at most one way moves, and every counter is halved (R404, R405). -/
def execUtilityInterval (die slice : Nat) (s : State) : Out :=
  if s.dies.length ≤ die ∨ 32 ≤ slice then .next s
  else
    let d := s.die die
    let at' (p i : Nat) : Nat := 512 * slice + 32 * p + i
    let hit (p i : Nat) : Nat := cget 0 d.hits (at' p i)
    let hits := (List.range 16).foldl (fun m p => (List.range 16).foldl (fun m i => cset 0 m (at' p i) (hit p i / 2)) m) d.hits
    let moved (q r w : Nat) : Cells Nat :=
      cset 0 (cset 0 d.pmask (16 * slice + q) (setBits (d.mask slice q) w 1 0)) (16 * slice + r) (setBits (d.mask slice r) w 1 1)
    let d1 : Die := match d.wayMove slice hit with
      | some (q, r, w) => { d with pmask := moved q r w }
      | none => d
    .next (s.setDie die { d1 with hits := hits })

/-! ### Gating (R401) -/

/-- Put a number in a list that does not hold it. -/
def mark (l : List Nat) (g : Nat) : List Nat := if l.contains g then l else l ++ [g]

/-- An idle core of the 12 by 12 of its die is gated: its L1 is written back first. -/
def execCoreGating (core : CoreId) (s : State) : Out :=
  if (s.residentOn core).isSome ∨ (s.stagedOn core).isSome ∨ s.dies.length ≤ core.die ∨ 12 ≤ core.x ∨ 12 ≤ core.y then .next s
  else
    match s.drain? fun p => (s.wg p.src).core == core with
    | none => .next s
    | some s0 =>
      let s1 : State := { s0 with dir := s0.dir.map fun x => (x.1, x.2.drop core) }
      .next (s1.modDie core.die fun d =>
        { d with gatedCores := if d.gatedCores.contains (core.x, core.y) then d.gatedCores else d.gatedCores ++ [(core.x, core.y)] })

/-- One of the two cache chiplets of a die is flushed and gated: its lines go to their homes (R1, R401). -/
def execCacheChipletGating (die chiplet : Nat) (s : State) : Out :=
  if s.dies.length ≤ die ∨ 2 ≤ chiplet then .next s
  else
    match s.flushWays die fun slice _ => slice / 16 == chiplet with
    | none => .next s
    | some s1 => .next (s1.modDie die fun d => { d with gatedChiplets := mark d.gatedChiplets chiplet })

/-! ### The error ring (R419) -/

/-- CORE of a core, as LOC encodes it. -/
def coreLoc (c : CoreId) : Nat := c.x + c.y * 16 + c.die * 256

/-- Post an error event of a die: KIND, UNIT, LOC and the granule's address; COUNT is the events of this KIND at this LOC
since the previous entry. -/
def State.postError (s : State) (die kind unit loc addr : Nat) : State :=
  let d := s.die die
  let n := min 65535 (agetD 0 d.errCnt (kind, loc) + 1)
  let e := loc % 2 ^ 24 + kind * 2 ^ 24 + die * 2 ^ 38 + unit * 2 ^ 40 + n * 2 ^ 48 + addr % 2 ^ 52 * 2 ^ 76
  let posted := d.errRing.lg ≠ 0 ∧ !d.errRing.full
  let (s1, r) := s.ringPost d.errRing (toBytes 16 e)
  s1.modDie die fun d => { d with errRing := r, errCnt := aput d.errCnt (kind, loc) (if posted then 0 else n) }

/-! ### Errors (R415 to R418) -/

/-- Where an error is reported: die, UNIT, LOC, ADDR. -/
def State.errorAt (s : State) (u : ErrUnit) : Nat × Nat × Nat × Nat :=
  let core (unit c w : Nat) : Nat × Nat × Nat × Nat := let x := (s.wg ⟨c, w⟩).core; (x.die, unit, coreLoc x, 0)
  match u with
  | .mem pa => (bits pa 39 38, 4, 0, pa / 32 * 32)
  | .l2 pa =>
    let die := if natBit pa 51 then ((List.range s.dies.length).find? fun d => s.inL2 d (lineOf pa)).getD 0 else bits pa 39 38
    (die, 3, sliceOf pa, pa / 32 * 32)
  | .l1 core pa => (core.die, 1, coreLoc core, pa / 32 * 32)
  | .icache core _ => (core.die, 9, coreLoc core, 0)
  | .flit die unit loc => (die, unit, loc, 0)
  | .scratch c w _ | .slot c w _ _ | .acc c w _ _ => core 1 c w
  | .bank c w _ => core 2 c w
  | .vreg c w _ _ | .mask c w _ _ | .laneEntry c w _ _ | .codeTable c w _ => core 9 c w
  | .sreg a _ | .receipt a _ => ((s.coreOf a).die, 9, coreLoc (s.coreOf a), 0)
  | .tcache t _ => (dieOf t, 9, 0, 0)
  | .dirEntry line => (line / 2 ^ 31 % 4, 3, 0, 128 * line)

/-- Mark granules of memory, once the outstanding accesses to them have performed. -/
def State.poisonMem (s : State) (gs : List Nat) : Option State :=
  (s.beforeMark (memGranules gs)).map fun s1 => { s1 with poison := gs.foldl mark s1.poison }

/-- The four granules of a line. -/
def lineGranules (line : Nat) : List Nat := (List.range 4).map (4 * line + ·)

/-- What an uncorrected error does to the storage it strikes (R415, R417); none while an access to a granule that would be
marked must wait. -/
def State.strike (s : State) (u : ErrUnit) : Option State :=
  match u with
  | .mem pa | .l2 pa => s.poisonMem [pa / 32]
  | .l1 core pa =>
    (s.beforeMark (memGranules [pa / 32])).map fun s1 => s1.modDir (lineOf pa) fun e =>
      { e with l1bad := aput e.l1bad core (mark (agetD [] e.l1bad core) (pa % 128 / 32)) }
  | .scratch c w off => (s.beforeMark (spGranules ⟨c, w⟩ [off / 32])).map fun s1 => s1.modWg ⟨c, w⟩ fun x =>
      { x with spPoison := mark x.spPoison (off / 32) }
  | .slot c w m off => some (s.modWg ⟨c, w⟩ fun x =>
      let z := agetD {} x.slots m
      { x with slots := aput x.slots m { z with bad := mark z.bad (off / 32) } })
  | .acc c w a off => some (s.modWg ⟨c, w⟩ fun x =>
      let z := agetD {} x.accs a
      { x with accs := aput x.accs a { z with bad := mark z.bad (off / 32) } })
  | .vreg c w g r => some (s.modGroup ⟨c, w, g⟩ fun y => { y with badV := mark y.badV r, setLanes := cset 0 y.setLanes r 0 })
  | .mask c w g q => some (s.modGroup ⟨c, w, g⟩ fun y => { y with badQ := mark y.badQ q })
  | .sreg a r => some (s.modSeq a fun q => { q with badRegs := mark q.badRegs r })
  | .receipt (.pitch c p) k => some (s.modGrid c fun g =>
      let i := ((s.seq (.pitch c p)).ended + k) % 2 ^ 32 % g.size
      { g with script := (aget? g.script i).elim g.script fun r => aput g.script i { r with bad := true } })
  | .receipt a k => some (s.modSeq a fun q => { q with inq := q.inq.zipIdx.map fun r => if r.2 = k then { r.1 with bad := true } else r.1 })
  | .laneEntry c w g k => some (s.modGroup ⟨c, w, g⟩ fun y => { y with
      laneQ := y.laneQ.zipIdx.map fun b => if b.2 = k then { b.1 with bad := true } else b.1 })
  | .bank c w b => some (s.modWg ⟨c, w⟩ fun x =>
      let z := agetD {} x.banks b
      { x with banks := aput x.banks b { z with bad := true } })
  | .tcache t k => some { s with tlb := s.tlb.map fun x => if x.1 = t then (x.1, ldel x.2 k) else x }
  | .dirEntry line =>
    let dirty := (s.dirEnt line).st = .m ∨ (s.dirEnt line).st = .o
    if dirty then s.poisonMem (lineGranules line) else some s
  | .icache _ line => some { s with oldCode := s.oldCode.filter fun x => lineOf (4 * x.1) != line }
  | .codeTable _ _ _ | .flit _ _ _ => some s

/-- Whether the object of an error exists: a granule of device memory or of a line that a cache holds, a register, slot or
queue of a context, a receipt that waits or is in flight. -/
def State.hasUnit (s : State) (u : ErrUnit) : Bool :=
  let device (pa : Nat) : Bool := decide (pa < 2 ^ 40 ∨ (2 ^ 52 ≤ pa ∧ pa < 2 ^ 52 + 2 ^ 19))
  match u with
  | .scratch c w off => (aget? s.wgs ⟨c, w⟩).isSome && decide (off < (s.grid c).k.reservation)
  | .slot c w m off => (aget? s.wgs ⟨c, w⟩).isSome && decide (m < 16) && decide (off < 32768)
  | .acc c w a off => (aget? s.wgs ⟨c, w⟩).isSome && decide (a < 16) && decide (off < 32768)
  | .bank c w b => (aget? s.wgs ⟨c, w⟩).isSome && decide (b < 2)
  | .codeTable c w t => (aget? s.wgs ⟨c, w⟩).isSome && decide (t < 8)
  | .vreg c w g r => (aget? s.groups ⟨c, w, g⟩).isSome && decide (r < (s.grid c).k.vregs)
  | .mask c w g q => (aget? s.groups ⟨c, w, g⟩).isSome && decide (1 ≤ q) && decide (q < 8)
  | .laneEntry c w g k => decide (k < (s.group ⟨c, w, g⟩).laneQ.length)
  | .sreg a r => (aget? s.seqs a).isSome && decide (r < 64)
  | .receipt (.pitch c p) k =>
    (aget? s.seqs (.pitch c p)).isSome && decide ((s.seq (.pitch c p)).ended + k < (s.seq (.grid c)).sent)
  | .receipt a k => decide (k < (s.seq a).inq.length)
  | .mem pa => device pa
  | .l2 pa => device pa || (natBit pa 51 && decide (pa < 2 ^ 52) && (List.range s.dies.length).any fun d => s.inL2 d (lineOf pa))
  | .l1 core pa => s.hasLine core (lineOf pa)
  | .tcache t k => decide (k < ((aget? s.tlb t).getD []).length)
  | .flit die _ _ => decide (die < s.dies.length)
  | .dirEntry _ => true
  | .icache core _ => decide (core.die < s.dies.length)

/-- An error is detected: a corrected one is only logged; an uncorrected one poisons, with parity as its own KIND. A flit
is retried. -/
def execEccError (u : ErrUnit) (corrected : Bool) (s : State) : Out :=
  if !s.hasUnit u then .next s
  else
    let (die, unit, loc, addr) := s.errorAt u
    let kind := match u with
      | .flit _ _ _ => 4
      | .bank _ _ _ => if corrected then 1 else 3
      | _ => if corrected then 1 else 2
    .next (((if corrected then some s else s.strike u).map fun s1 => s1.postError die kind unit loc addr).getD s)

/-- Transfers to peers whose every port has failed are lost: their chits raise XFAB; one of a killed context raises nothing
(R206, R389). -/
def State.losePackets (s : State) : State :=
  let lost (p : Packet) : Bool := !((onesOf 32 p.ports).any (s.portUp p.net))
  let s1 := (s.peerOut.filter lost).foldl (fun s p => s.modWg p.src fun x => { x with
    chits := x.chits.map fun q => if q.idx = p.idx then { q with report := q.report.orElse fun _ => some (s.chitFail p.src q cXFAB q.peerInfo) } else q }) s
  { s1 with peerOut := s1.peerOut.filter fun p => !lost p }

/-- A link fails after its retries: the lines in transit are poisoned, and transfers that no other port may carry are lost
(R206, R415). -/
def execLinkFail (die unit loc : Nat) (lines : List Nat) (s : State) : Out :=
  if s.dies.length ≤ die then .next s
  else
    match s.poisonMem (lines.flatMap lineGranules) with
    | none => .next s
    | some s1 =>
      let s2 := s1.modDie die fun d => { d with failedLinks := if d.failedLinks.contains (unit, loc) then d.failedLinks else d.failedLinks ++ [(unit, loc)] }
      .next (s2.losePackets.postError die 5 unit loc 0)

/-- A scrub of a line (R418): of its four granules it poisons those that it cannot correct, each an error event; which they
are a choice says, as a mask (log entry 3). -/
def execScrub (line : Nat) (s : State) : Out :=
  if !s.hasUnit (.mem (128 * line)) then .next s
  else
    let die := homeDie 0 line
    let (bad, s0) := s.choose
    let gs := (onesOf 4 bad).map (4 * line + ·)
    match s0.poisonMem gs with
    | none => .next s
    | some s1 => .next (gs.foldl (fun s g => s.postError die 2 4 0 (32 * g)) (s1.modDie die fun d => { d with scrubs := d.scrubs + 1 }))

/-! ### Field repair (R421) -/

/-- An L2 way is retired in every partition mask of its slice; its lines are first written back (R420, R421). -/
def execL2WayRetire (die slice way : Nat) (s : State) : Out :=
  if s.dies.length ≤ die ∨ 32 ≤ slice ∨ 16 ≤ way ∨ (s.die die).retiredWays.contains (slice, way) then .next s
  else
    match s.flushWays die fun sl y => sl == slice && y.way == way with
    | none => .next s
    | some s1 =>
      .next (s1.modDie die fun d =>
        let d1 := d.clearWays slice [way]
        { d1 with retiredWays := d1.retiredWays ++ [(slice, way)], gen := d1.gen + 1 })

/-- An HBM row is repaired (R420, R421). -/
def execHbmRowRepair (die row : Nat) (s : State) : Out :=
  if s.dies.length ≤ die ∨ (s.die die).repairedRows.contains row then .next s
  else .next (s.modDie die fun d => { d with repairedRows := d.repairedRows ++ [row], gen := d.gen + 1 })

end Sys2Proof.Machine
end

