-- ==== Sys2Proof/Machine/Trust.lean ====
section
/-!
DEFINITION. Signed images, boot, the monitor's calls, update and attestation (R427 to R433), and resets (R422). The
result of a call is what the monitor returns in a0: 0 success, 1 malformed operand, 2 refused by ownership.
-/
namespace Sys2Proof.Machine

/-! ### Images (R427, R428) -/

/-- What an image's header and signatures say: its version, its key pair, and whether both signatures verify. -/
structure Signed where
  svn : Nat := 0
  kidx : Nat := 0
  ok : Bool := false
  deriving DecidableEq, Repr

/-- An image of a KIND read with the vendor's key pairs, each 97 bytes of P-384 key and 52 of HSS key; none when its header
breaks R427. -/
def flashOf (kind : Nat) (img : List Byte) (keys : Nat → List Byte) : Option Signed :=
  let h := ofBytes (img.take 128)
  let n := bits h 191 128
  if bits h 1023 192 ≠ 0 ∨ bits h 127 106 ≠ 0 ∨ bits h 103 96 ≠ 0 ∨ bits h 47 40 ≠ 0 ∨ bits h 31 0 ≠ 0x0D1A4E57 ∨ bits h 63 48 ≠ 1 ∨
      bits h 39 32 ≠ kind ∨ n % 128 ≠ 0 ∨ 63 < bits h 95 64 ∨ img.length ≠ 128 + n + 1720 then none
  else
    let msg := img.take (128 + n)
    let sig := img.drop (128 + n)
    let key := keys (bits h 105 104)
    some { svn := bits h 95 64, kidx := bits h 105 104
           ok := P384.verify (key.take 97) (sha384 msg) (sig.take 96) && Hss.verify (key.drop 97) msg (sig.drop 96) }

/-- The four key pairs of the vendor as a monitor image carries them: at the start of its body (R428; log entry 9). -/
def keyPairs (monitor : List Byte) : List Byte := (monitor.drop 128).take 596
def keysOf (monitor : List Byte) (k : Nat) : List Byte := ((keyPairs monitor).drop (149 * k)).take 149

/-- The fuses of the package (log entry 8). -/
def Trust.digest (t : Trust) : List Byte := t.keyDigest.getD Config.fusedDigest
def Trust.unique (t : Trust) : BitVec 384 := t.secret.getD Config.fusedSecret
def Trust.serialNumber (t : Trust) : Nat := t.serial.getD Config.serial

/-- Whether an image is accepted with the keys of a monitor image: they match the fused digest, its KIDX is not revoked, its
SVN is at least the minimum, and both signatures verify (R428). -/
def Trust.accepts (t : Trust) (kind : Nat) (monitor img : List Byte) : Bool :=
  sha384 (keyPairs monitor) == t.digest &&
    match flashOf kind img (keysOf monitor) with
    | some f => f.ok && !t.revoked.contains f.kidx && decide (cget 0 t.minSvn kind ≤ f.svn)
    | none => false

/-- SVN of an image. -/
def svnOf (img : List Byte) : Nat := bits (ofBytes (img.take 128)) 95 64

/-- The slot that boots, with the keys of the monitor image given, of itself for the monitor: the acceptable image of higher
SVN that has not failed, slot A on equal SVN; 1 plus the slot, 0 for none (R432). -/
def Trust.chosen (t : Trust) (kind : Nat) (monitor : Option (List Byte)) : Nat :=
  let ok (i : Nat) : Option Flash := (aget? t.slots (kind, i)).filter fun f => !f.failed && t.accepts kind (monitor.getD f.image.bytes) f.image.bytes
  match ok 0, ok 1 with
  | some a, some b => if svnOf a.image.bytes < svnOf b.image.bytes then 2 else 1
  | some _, none => 1
  | none, some _ => 2
  | none, none => 0

/-- The running image of a KIND. -/
def Trust.image (t : Trust) (kind : Nat) : Flash := agetD {} t.slots (kind, cget 0 t.running kind - 1)

/-- The private identity key that the boot ROM derives (R429), a number that P-384 takes. -/
def Trust.identity (t : Trust) : Nat := Config.deriveKey t.unique % (P384.n - 1) + 1

/-- Slots marked TRY that `p` selects are marked failed (R432). -/
def Trust.failTry (t : Trust) (p : Nat × Nat → Bool) : Trust :=
  { t with slots := t.slots.map fun x => (x.1, if x.2.tryMark && p x.1 then { x.2 with tryMark := false, failed := true } else x.2) }

/-- Whether a slot runs. -/
def Trust.runs (t : Trust) (k : Nat × Nat) : Bool := cget 0 t.running k.1 == k.2 + 1

/-- The steps of a boot (R429): the ROM derives the identity key and chooses the monitor, which it copies to monitor-only
memory and hands the key, erasing its own copy. The monitor chooses the policy RTOS and the runners, records their
measurements and sets the policy core's PMP. A step that rejects an image stops the boot: nothing after it happens. -/
def Trust.bootSteps (t : Trust) : Trust :=
  let t1 : Trust := { t with
    running := [], romKey := true, idKey := false, monitor := .given [], pmp := false, measures := [], checking := none
    result := 0, refusal := 0, bootStopped := true }
  let m := t1.chosen 1 none
  if m = 0 then t1
  else
    let img := (agetD {} t1.slots (1, m - 1)).image
    let t2 : Trust := { t1 with running := cset 0 [] 1 m, romKey := false, idKey := t1.romKey, monitor := img }
    let step (t : Trust) (kind : Nat) : Trust :=
      let r := t.chosen kind (some img.bytes)
      if r = 0 then t
      else { t with
        running := cset 0 t.running kind r, measures := aput t.measures kind (agetD {} t.slots (kind, r - 1)).image }
    let t3 := step t2 2
    if cget 0 t3.running 2 = 0 then t3
    else
      let t4 := step t3 3
      if cget 0 t4.running 3 = 0 then t4 else { t4 with pmp := true, bootStopped := false }

/-- Boot (R429, R432): a slot marked TRY that ran and was not committed fails, and so does one that this boot does not choose;
one that it chooses boots under its mark (log entry 42). -/
def Trust.boot (t : Trust) : Trust :=
  let t1 := (t.failTry t.runs).bootSteps
  t1.failTry fun k => !t1.runs k

/-! ### Resets (R422) -/

/-- A die after a device reset: repairs and the cores out of service stay. -/
def Die.reset (d : Die) : Die :=
  { out := d.out, gen := d.gen, retiredWays := d.retiredWays, repairedRows := d.repairedRows, scrubs := d.scrubs }

/-- A byte of a runner's tightly coupled memory: as written since the boot, else of the runner image's code, which the monitor
loads for all six; zero in a stopped boot (R1, R429). -/
def State.tcmByte (s : State) (runner off : Nat) : Byte :=
  match cget none s.fe.tcm (65536 * runner + off) with
  | some b => b
  | none =>
    let img := (s.trust.image 3).image.bytes
    if s.trust.bootStopped ∨ bits (ofBytes (img.take 128)) 191 128 ≤ off then 0 else img.getD (128 + off) 0

/-- Kill workgroups in the order of R389, up to what must still perform. -/
def State.killAll (s : State) (ws : List WgId) : State := ws.foldl (fun s w => (s.killWg w).payOwed w) s

/-- Every context is killed, with its issued accesses performed and its image Killed, the caches are written back, every SRAM
is zeroed, and the boot runs. Memory, poison marks, captures, repairs, fuses and flash stay, and so do requests of the host,
which wait. -/
def execDeviceReset (s : State) : Out :=
  let ws := s.wgs.map Prod.fst
  let s0 := s.killAll ws
  let s1 := (s0.drain? fun _ => true).getD s0
  let s2 := (s.grids.map Prod.fst).foldl State.imagesKilled (ws.foldl State.releaseWg s1)
  let t := s2.trust.boot
  .next { plan := s2.plan, clock := s2.clock, choices := s2.choices, freeCtr := s2.freeCtr, nextHandle := s2.nextHandle
          mem := s2.mem, poison := s2.poison, hostPend := s2.hostPend, peerOut := s2.peerOut
          fe := { captures := s2.fe.captures }, dies := s2.dies.map Die.reset, trust := t }

/-- The virtual functions of a partition. -/
def State.ofPart (s : State) (p vf : Nat) : Bool := (agetD {} s.fe.vfs vf).part == p

/-- The identifier by which a queue is reached, for the log of a dropped wake. -/
def State.qidOf (s : State) (pq : Nat) : Nat :=
  ((s.fe.stage2.find? fun e => stageEntry e.2 == some pq).map fun e => e.1.2).getD 0

/-- Lines of the ways of a partition leave every slice (R422): they are at their homes, and the masks stay. -/
def State.flushPart (s : State) (p : Nat) : Option State :=
  (List.range s.dies.length).foldl (fun (a : Option State) d =>
    a.bind fun s => s.flushWays d fun slice y => ((s.die d).mask slice p).testBit y.way) (some s)

/-- Partition reset: its wakes are dropped and logged, its contexts are killed as R389 says, the lines of its ways are
written back and invalidated, its queues are disabled. Its nodes leave the graph with nothing signalled (log entry 23). It
goes on once what its contexts issued has performed. -/
def execPartitionReset (p : Nat) (s : State) : Out :=
  let mine (vf : Nat) : Bool := s.ofPart p vf
  let (gone, kept) := s.fe.wakes.partition fun k => mine (s.queue k.1).vf
  let s1 : State := { s with fe := { s.fe with wakes := kept } }
  let miss (k : Nat × Nat) : Nat × Nat × Nat :=
    let vf := (s.queue k.1).vf
    (1, vf, missEntry 1 vf (s.qidOf k.1) k.2)
  let s2 := ({ s1 with fe := { s1.fe with missIn := s1.fe.missIn ++ gone.map miss } } : State).logMisses
  let cs := (s2.grids.filter fun g => mine g.2.vf).map Prod.fst
  let ws := (s2.wgs.map Prod.fst).filter fun w => cs.contains w.c
  let s3 := ws.foldl State.payOwed (cs.foldl (fun s c => s.killGrid c) s2)
  match (s3.drain? fun x => cs.contains x.src.c).map fun s4 => (s4, cs.all s4.stored) with
  | some (s4, true) =>
    (match (cs.foldl (fun s c => (s.imagesKilled c).freeGrid c) (ws.foldl State.releaseWg s4)).flushPart p with
     | none => .next s3
     | some s5 =>
       let s6 := s5.setNodes (s5.fe.nodes.filter fun x => !mine x.vf)
       let own (w : Holder) : Bool := match w with
         | .front true q => mine (s.queue q).vf
         | .front false n => s.fe.nodes.any fun x => x.nid == n && mine x.vf
         | _ => false
       .next { s6 with
         holds := s6.holds.filter fun x => !own x.2.who
         fe := { s6.fe with
           kept := s6.fe.kept.filter fun x => !own x.1, full := s6.fe.full.filter fun q => !mine (s.queue q).vf
           queues := s6.fe.queues.map fun q => (q.1, if mine q.2.vf then { q.2 with en := false } else q.2) } })
  | _ => .next s3

/-! ### The monitor's calls (R430) -/

/-- The result of a call. -/
def State.returns (s : State) (r : Nat) : State := { s with trust := { s.trust with result := r } }

/-- A call enters the monitor once the one before it has ended: none while a check waits for a page (R430). -/
def State.call (s : State) (f : Out) : Out := if s.trust.checking.isSome then .next s else f

/-- Call 0x01: a stage-2 entry, only when its queue's descriptor names the same virtual function (R329). -/
def execSetStage2Entry (vf iq value : Nat) (s : State) : Out :=
  s.call <|
  if 96 ≤ vf ∨ 4096 ≤ iq ∨ 2 ^ 32 ≤ value then .next (s.returns 1)
  else if (s.queue (bits value 11 0)).vf ≠ vf then .next (s.returns 2)
  else .next (({ s with fe := { s.fe with stage2 := aput s.fe.stage2 (vf, iq) value } } : State).returns 0)

/-- Call 0x02: the root and ASID of a context, or with context 64 of the function's front-end space, only when the table's
frame belongs to the function (R333, R373); the reserved field of TROOT is ignored (R7). -/
def execSetTroot (vf ctx value : Nat) (s : State) : Out :=
  s.call <|
  if 96 ≤ vf ∨ 64 < ctx ∨ 2 ^ 64 ≤ value then .next (s.returns 1)
  else if !s.frameOk vf (bits value 39 0 * 4096) 4096 then .next (s.returns 2)
  else
    let asid := bits value 63 48
    let root := bits value 39 0
    let fe : FrontEnd :=
      if ctx = 64 then { s.fe with vfs := aput s.fe.vfs vf { agetD {} s.fe.vfs vf with troot := root, asid := asid } }
      else { s.fe with troots := aput s.fe.troots ctx (asid, root) }
    .next (({ s with fe := { fe with
      asids := if fe.asids.contains (vf, asid) then fe.asids else fe.asids ++ [(vf, asid)]
      killedAsids := fe.killedAsids.filter (· != asid) } } : State).returns 0)

/-- The address spaces of a virtual function: those that call 0x02 has given it, of its front end, and of the contexts that it
runs. -/
def State.asidsOf (s : State) (vf : Nat) : List Nat :=
  (s.fe.asids.filter fun x => x.1 == vf).map Prod.snd ++ (agetD {} s.fe.vfs vf).asid ::
    (s.grids.filter fun g => g.2.vf == vf).map fun g => (agetD (0, 0) s.fe.troots g.1).1

/-- Whether a translation, window or window copy of a virtual function is still held, or an ASID that call 0x02 gave it has not
been killed since (R430). -/
def State.held? (s : State) (vf : Nat) : Bool :=
  (s.tlb.any fun x => x.2.any fun t => (s.asidsOf vf).contains t.asid) ||
    (s.groups.any fun y => (s.grid y.1.c).vf == vf && (y.2.win.any (fun w => w.2.st == .bound) ||
      y.2.laneQ.any (fun b => b.wins.any fun w => w.st == .bound) || y.2.blk.any fun b => b.wins.any fun w => w.st == .bound)) ||
    s.fe.asids.any fun x => x.1 == vf && !s.fe.killedAsids.contains x.2

/-- Call 0x03: the owner byte of a frame. It leaves a virtual function only once ASIDKILL has completed. The translations
that read its line of the owner table are invalidated first; while one must wait, so does the call (R360). -/
def execAssignFrame (frame owner : Nat) (s : State) : Out :=
  let old := cget 0 s.fe.owner frame
  s.call <|
  if 2 ^ 19 ≤ frame ∨ (96 < owner ∧ owner ≠ 0xFF) then .next (s.returns 1)
  else if 1 ≤ old ∧ old ≤ 96 ∧ old ≠ owner ∧ s.held? (old - 1) then .next (s.returns 2)
  else
    match s.tinvalAll (ownerLine frame) with
    | none => .next s
    | some s1 => .next (({ s1 with fe := { s1.fe with owner := cset 0 s1.fe.owner frame owner } } : State).returns 0)

/-- Call 0x04: one of eight host ranges of a virtual function, 2 MiB-aligned (R360). -/
def execSetHostRange (vf idx base len : Nat) (s : State) : Out :=
  s.call <|
  if 96 ≤ vf ∨ 8 ≤ idx ∨ base % 0x200000 ≠ 0 ∨ len % 0x200000 ≠ 0 ∨ !natBit base 51 ∨ 2 ^ 52 < base + len then .next (s.returns 1)
  else
    let v := agetD {} s.fe.vfs vf
    .next (({ s with fe := { s.fe with vfs := aput s.fe.vfs vf { v with ranges := aput v.ranges idx (base, len) } } } : State).returns 0)

/-- Steps 1 to 6 of R350 for an object of a queue's function. Its sections are copied, relocated, into the code area of the
context that a launch would take next, where that context has a TROOT; else the copy leaves nothing (log entry 68). The
refusal code, or 0; none while a page service or a table must be waited for. -/
def State.checkObject (s : State) (pq code : Nat) : State × Option Nat :=
  let w : Holder := .front false (2 ^ 64 + pq)
  let vf := (s.queue pq).vf
  let key := (agetD {} s.fe.vfs vf).key
  let c := s.freeCtx.filter fun c => (aget? s.fe.troots c).isSome
  match s.readObject w vf code key.isSome with
  | .wait s1 => (s1, none)
  | .fault s1 _ _ => (s1.feDone w, some 1)
  | .ok s1 (f, ss) =>
    let x : Launch := { vf := vf, total := 1, pw := 1, ph := 1, dgrant := 1600, key := key, dies := s.dies }
    match loadObject f ss x (codeArea (c.getD 0)), c with
    | .error e, _ => (s1.feDone w, some e)
    | .ok _, none => (s1.feDone w, some 0)
    | .ok (_, laid), some c =>
      match s1.fePut w (s1.jobSpace c vf) .bindOnly (laid.flatMap fun y => linesFrom y.2.1 y.2.2) with
      | .wait s2 => (s2, none)
      | .fault s2 _ _ => (s2.feDone w, some 1)
      | .ok s2 _ => (s2.feDone w, some 0)

/-- A check goes on, or ends with its result. -/
def State.goCheck (s : State) (pq code : Nat) : State :=
  match s.checkObject pq code with
  | (s1, none) => { s1 with trust := { s1.trust with checking := some (pq, code) } }
  | (s1, some c) => { s1 with trust := { s1.trust with checking := none, result := if c = 0 then 0 else 2, refusal := c } }

/-- A check that waits goes on once its page service is disposed of (R375). -/
def State.retryCheck (s : State) : State :=
  match s.trust.checking with
  | some (pq, code) => if s.heldFor (.front false (2 ^ 64 + pq)) then s else s.goCheck pq code
  | none => s

/-- Call 0x05: steps 1 to 6 of R350 for an object of a queue's function, without a launch: the refusal code, or 0. -/
def execCheckCodeObject (pq code : Nat) (s : State) : Out :=
  s.call <|
  if code = 0 ∨ code % 128 ≠ 0 ∨ 2 ^ 57 ≤ code then .next (s.returns 1)
  else .next (s.goCheck pq code)

/-- Call 0x06: a new image is verified by R428 and written to the slot not in use, marked TRY (R432). -/
def execStageUpdate (kind : Nat) (image : List Byte) (s : State) : Out :=
  let t := s.trust
  s.call <|
  if kind = 0 ∨ 3 < kind ∨ !t.accepts kind t.monitor.bytes image then .next (s.returns 1)
  else
    let slot := if cget 0 t.running kind = 1 then 1 else 0
    .next (({ s with trust := { t with slots := aput t.slots (kind, slot) { image := .given image, tryMark := true } } } : State).returns 0)

/-- Call 0x07: TRY is cleared and the fused minimum rises to the committed SVN, only when that image is the one that runs
(R432): with the other slot marked TRY, it is not. -/
def execCommitUpdate (kind : Nat) (s : State) : Out :=
  let t := s.trust
  let r := cget 0 t.running kind
  s.call <|
  match if r = 0 then none else aget? t.slots (kind, r - 1) with
  | none => .next (s.returns 1)
  | some f =>
    if (aget? t.slots (kind, 2 - r)).any (·.tryMark) then .next (s.returns 2)
    else .next (({ s with trust := { t with
      slots := aput t.slots (kind, r - 1) { f with tryMark := false }
      minSvn := cset 0 t.minSvn kind (max (cget 0 t.minSvn kind) (svnOf f.image.bytes)) } } : State).returns 0)

/-- Call 0x08: a core without a resident or staged context goes out of service; BLK, NOUT and GEN change in one step
(R421). -/
def execRetireCore (core : CoreId) (s : State) : Out :=
  s.call <|
  if !s.inService core then .next (s.returns 1)
  else if (s.residentOn core).isSome ∨ (s.stagedOn core).isSome then .next (s.returns 2)
  else .next ((s.modDie core.die fun d => { d with out := d.out ++ [(core.x, core.y)], gen := d.gen + 1 }).returns 0)

/-- The SHA-384 of the running image of a KIND: of the monitor's own memory, or as it measured it at boot (R429, R433). -/
def Trust.measure (t : Trust) (kind : Nat) : List Byte :=
  sha384 (if kind = 1 then t.monitor else agetD (.given []) t.measures kind).bytes

/-- The report of R433, with `nonce` of 48 bytes, each field at its offset. -/
def State.report (s : State) (vf nonce : Nat) : List Byte :=
  let t := s.trust
  let kinds := [1, 2, 3]
  let body := toBytes 8 (1 + vf * 2 ^ 16) ++ toBytes 48 nonce ++ (kinds.flatMap t.measure) ++
    (kinds.flatMap fun k => toBytes 4 (svnOf (t.image k).image.bytes)) ++ (kinds.flatMap fun k => toBytes 4 (cget 0 t.minSvn k)) ++
    ((List.range 4).flatMap fun d => toBytes 8 (s.die d).defsig) ++ toBytes 8 (t.reports + 1)
  body ++ P384.sign (if t.idKey then t.identity else 0) (Config.signNonce (t.reports + 1) % (P384.n - 1) + 1) (sha384 body)

/-- The identity certificate (R433): the package's serial number, the identity public key, and the manufacturing authority's
signature block over both. -/
structure Certificate where
  serial : Nat
  key : List Byte
  sig : List Byte
  deriving DecidableEq, Repr
def Trust.certificate (t : Trust) : Certificate :=
  let key := P384.publicKey t.identity
  { serial := t.serialNumber, key := key, sig := Config.caSign (toBytes 8 t.serialNumber ++ key) }

/-- Call 0x09: a report is written at a physical address in frames of the requesting function, and counted. -/
def execAttest (vf nonce dest : Nat) (s : State) : Out :=
  s.call <|
  if 96 ≤ vf ∨ 2 ^ 52 ≤ dest then .next (s.returns 1)
  else if !s.frameOk vf dest 360 then .next (s.returns 2)
  else
    let s1 := s.homeWrite dest (s.report vf nonce)
    .next (({ s1 with trust := { s1.trust with reports := s1.trust.reports + 1 } } : State).returns 0)

/-- Call 0x0A: the code key of a virtual function, from a record in frames owned by firmware; address 0 removes it. -/
def execRegisterCodeKey (vf pa : Nat) (s : State) : Out :=
  let put (k : Option (List Byte)) : State :=
    ({ s with fe := { s.fe with vfs := aput s.fe.vfs vf { agetD {} s.fe.vfs vf with key := k } } } : State).returns 0
  s.call <|
  if 96 ≤ vf ∨ 2 ^ 52 ≤ pa then .next (s.returns 1)
  else if pa = 0 then .next (put none)
  else if natBit pa 51 ∨ bits pa 50 40 ≠ 0 ∨
      !([pa / 0x200000, (pa + 148) / 0x200000].all fun f => cget 0 s.fe.owner f == 0xFF) then .next (s.returns 2)
  else .next (put (some (s.memBytes pa 149)))

end Sys2Proof.Machine
end

