-- ==== Sys2Proof/Machine/Regs.lean ====
section
/-!
DEFINITION. Writes of the registers and control blocks that have no row of their own (R305, R329, R331, R332, R373,
R381, R402, R403, R406, R408, R423). Ring numbers are the model's: 0 host miss log, 1 SVCQ, 2 FEVQ, 3 to 6 the porter
rings, 7 to 10 the error rings, 11 + v the miss log of virtual function v (log entry 6).
-/
namespace Sys2Proof.Machine

/-- Change the configuration of one of the 96 virtual functions (R1). -/
def State.modVf (s : State) (vf : Nat) (f : VfCfg → VfCfg) : State :=
  if vf < 96 then { s with fe := { s.fe with vfs := aput s.fe.vfs vf (f (agetD {} s.fe.vfs vf)) } } else s

/-- Change a ring's control block. -/
def State.modRing (s : State) (n : Nat) (f : Ring → Ring) : State :=
  match n with
  | 0 => { s with fe := { s.fe with hostMiss := f s.fe.hostMiss } }
  | 1 => { s with fe := { s.fe with svcq := f s.fe.svcq } }
  | 2 => { s with fe := { s.fe with fevq := f s.fe.fevq } }
  | n =>
    if n < 7 then s.modDie (n - 3) fun d => { d with porterRing := f d.porterRing }
    else if n < 11 then s.modDie (n - 7) fun d => { d with errRing := f d.errRing }
    else
      s.modVf (n - 11) fun v => { v with miss := f v.miss }

/-- Post the requests that waited for room in the service ring, oldest first, and the completions that waited in a
porter (R331, R374). -/
def State.postAll (s : State) : State :=
  (List.range s.dies.length).foldl State.flushPorter ((s.holds.map Prod.fst).foldl State.postHeld s)

/-- Bytes of a queue descriptor (R332): 4 bytes at 36 write EVCI at any time; the rest is written while EN is 0, but that
EN itself may be cleared. A rewrite clears EVOVF (R347). A queue of a function that is none of the 96 stays disabled (log
entry 6). -/
def QDesc.write (d : QDesc) (off v : Nat) : QDesc :=
  if off = 36 then { d with evci := BitVec.ofNat 32 v }
  else if d.en then (if off = 32 ∧ !natBit v 18 then { d with en := false } else d)
  else
    match off with
    | 0 => { d with last := bits v 56 0 }
    | 8 => { d with argwin := bits v 56 0 }
    | 16 => { d with evb := bits v 56 0 }
    | 24 => { d with evlg := bits v 3 0, evovf := false }
    | 32 => { d with vf := bits v 6 0, dom := bits v 15 8, pricap := bits v 17 16, en := natBit v 18 && decide (bits v 6 0 < 96), evci := BitVec.ofNat 32 (v / 2 ^ 32) }
    | _ => d

/-- A workgroup's handler table as firmware installs it, before the workgroup is placed or while it is in State (R305). -/
def State.installHandler (s : State) (w : WgId) (i v : Nat) : State :=
  let x := (aget? s.wgs w).getD { place := .saved }
  s.setWg w { x with htab := cset 0 x.htab (i % 128) (BitVec.ofNat 64 v) }

/-- PWAY (R403): FLOOR above CEIL stores FLOOR = CEIL; CEIL is at most 16. -/
def pwayOf (v : Nat) : Pway :=
  let c := min 16 (bits v 12 8)
  { mon := natBit v 16, ceil := c, floor := min c (bits v 4 0) }

/-- A wake aperture at a base: what memory held there is no more, since reads of the window return zero (R329). -/
def State.setWakeBase (s : State) (vf base : Nat) : State :=
  let s1 := s.modVf vf fun x => { x with wakeBase := base }
  let inside (a : Nat) : Bool := base != 0 && decide (vf < 96) && base ≤ a && a < base + 32768
  { s1 with mem := s1.mem.filter fun x => !inside x.1, poison := s1.poison.filter fun g => !inside (32 * g) }

/-- A register write. A queue is one of 4,096 (R1), an entry of a peer table one of 32,768 of one of 64 jobs, by context (R408;
log entry 45); a window is its base in the low 64 bits and its length above (R430; log entry 68). -/
def execRegisterWrite (r : RegName) (value : Nat) (s : State) : Out :=
  let v := value % 2 ^ 128
  match r with
  | .desc pq off => .next (if pq < 4096 then s.setQueue pq ((s.queue pq).write off v) else s)
  | .ringCI n => .next ((s.modRing n fun r => { r with ci := BitVec.ofNat 32 v }).postAll)
  | .ringOVF n => .next (if natBit v 0 then s else s.modRing n fun r => { r with ovf := false })
  | .ringBase n => .next (s.modRing n fun r => { r with lg := bits v 60 57, base := bits v 56 0 })
  | .vfStage1 vf => .next (s.modVf vf fun x => { x with s1en := natBit v 63, s1addr := bits v 51 0 })
  | .fthr => .next { s with fe := { s.fe with fthr := v % 2 ^ 16 } }
  | .pway die p => .next (if p < 16 then s.modDie die fun d => { d with pway := aput d.pway p (pwayOf v) } else s)
  | .pcap die p => .next (if p < 16 then s.modDie die fun d => { d with pcap := cset 0 d.pcap p (v % 2 ^ 32) } else s)
  | .porterLow die => .next (s.modDie die fun d => { d with porterLow := v % 2 ^ 64 })
  | .vfPartition vf => .next (s.modVf vf fun x => { x with part := v % 16 })
  | .wakeBase vf => .next (s.setWakeBase vf (v / 32768 % 2 ^ 37 * 32768))
  | .record pq => .next (if pq < 4096 then s.setQueue pq { s.queue pq with record := natBit v 0 } else s)
  | .capSize pq => .next (if pq < 4096 then s.setQueue pq { s.queue pq with capSize := v } else s)
  | .rerun pq => .next (if pq < 4096 then
      s.setQueue pq { s.queue pq with rerun := if v = 0 ∨ s.fe.captures.length < v then none else some (v - 1) } else s)
  | .handlerTable c w i => .next (s.installHandler ⟨c, w⟩ i v)
  | .peer job n => .next (if job < Config.gridContexts ∧ n < 32768 then
      { s with fe := { s.fe with peers := cset 0 s.fe.peers (32768 * job + n) v } } else s)
  | .endpoint n => .next (if n < 4096 then { s with fe := { s.fe with endpoints := cset 0 s.fe.endpoints n (value % 2 ^ 204) } } else s)
  | .window n => .next { s with fe := { s.fe with windows := aput s.fe.windows n (bits v 63 0, bits v 127 64) } }
  | .watch set =>
    let a := v % 2 ^ 57
    .next (if set then { s with watched := mark s.watched a } else { s with watched := s.watched.filter (· != a) })

end Sys2Proof.Machine
end

