-- ==== Sys2Proof/Machine/Scalar.lean ====
section
/-!
DEFINITION. Scalar arithmetic, constants and special registers (R101 to R104).
-/
namespace Sys2Proof.Machine

/-- A word of two register sources: s(d) and the OR of their marks (R25, R101). -/
def scalar2 (i : Instr) (d a b : BitVec 6) (s : State) (f : Word → Word → Word) : Out :=
  ctl i s fun l =>
    let q := s.me
    s.putReg d.toNat (f (q.readReg l a.toNat) (q.readReg l b.toNat)) (q.mark l a.toNat || q.mark l b.toNat)

/-- A word of one register source. -/
def scalar1 (i : Instr) (d a : BitVec 6) (s : State) (f : Word → Word) : Out :=
  ctl i s fun l => s.putReg d.toNat (f (s.me.readReg l a.toNat)) (s.me.mark l a.toNat)

/-- A word that writes a constant or a value that carries no mark. -/
def scalar0 (i : Instr) (d : BitVec 6) (s : State) (f : Lvl → Word) : Out :=
  ctl i s fun l => s.putReg d.toNat (f l) false

/-- The immediate of ADDI, ANDI, ORI and XORI (R101). -/
def imm14 (imm : BitVec 14) : Word := imm.signExtend 64

/-- Shift amount y[5:0] (R101). -/
def amount (y : Word) : Nat := y.toNat % 64

/-- Quotient and remainder (R102). -/
def divRem (signed : Bool) (x y : Word) : Word × Word :=
  let n : Int := if signed then x.toInt else x.toNat
  let m : Int := if signed then y.toInt else y.toNat
  if m = 0 then (BitVec.allOnes 64, x)
  else (BitVec.ofInt 64 (Int.tdiv n m), BitVec.ofInt 64 (n - Int.tdiv n m * m))

def bit (b : Bool) : Word := if b then 1 else 0

/-! ### Arithmetic (R101) -/

def execAdd (d a b : BitVec 6) (s : State) : Out := scalar2 (.add d a b) d a b s fun x y => x + y
def execSub (d a b : BitVec 6) (s : State) : Out := scalar2 (.sub d a b) d a b s fun x y => x - y
def execMul (d a b : BitVec 6) (s : State) : Out := scalar2 (.mul d a b) d a b s fun x y => x * y
def execMulhI (d a b : BitVec 6) (s : State) : Out := scalar2 (.mulhI d a b) d a b s fun x y => BitVec.ofInt 64 (x.toInt * y.toInt / 2 ^ 64)
def execMulhN (d a b : BitVec 6) (s : State) : Out := scalar2 (.mulhN d a b) d a b s fun x y => BitVec.ofNat 64 (x.toNat * y.toNat / 2 ^ 64)
def execDivI (d a b : BitVec 6) (s : State) : Out := scalar2 (.divI d a b) d a b s fun x y => (divRem true x y).1
def execDivN (d a b : BitVec 6) (s : State) : Out := scalar2 (.divN d a b) d a b s fun x y => (divRem false x y).1
def execRemI (d a b : BitVec 6) (s : State) : Out := scalar2 (.remI d a b) d a b s fun x y => (divRem true x y).2
def execRemN (d a b : BitVec 6) (s : State) : Out := scalar2 (.remN d a b) d a b s fun x y => (divRem false x y).2
def execAnd (d a b : BitVec 6) (s : State) : Out := scalar2 (.and d a b) d a b s fun x y => x &&& y
def execOr (d a b : BitVec 6) (s : State) : Out := scalar2 (.or d a b) d a b s fun x y => x ||| y
def execXor (d a b : BitVec 6) (s : State) : Out := scalar2 (.xor d a b) d a b s fun x y => x ^^^ y
def execShl (d a b : BitVec 6) (s : State) : Out := scalar2 (.shl d a b) d a b s fun x y => x <<< amount y
def execShr (d a b : BitVec 6) (s : State) : Out := scalar2 (.shr d a b) d a b s fun x y => x >>> amount y
def execSar (d a b : BitVec 6) (s : State) : Out := scalar2 (.sar d a b) d a b s fun x y => x.sshiftRight (amount y)
def execMinI (d a b : BitVec 6) (s : State) : Out := scalar2 (.minI d a b) d a b s fun x y => if x.toInt ≤ y.toInt then x else y
def execMinN (d a b : BitVec 6) (s : State) : Out := scalar2 (.minN d a b) d a b s fun x y => if x.toNat ≤ y.toNat then x else y
def execMaxI (d a b : BitVec 6) (s : State) : Out := scalar2 (.maxI d a b) d a b s fun x y => if x.toInt ≤ y.toInt then y else x
def execMaxN (d a b : BitVec 6) (s : State) : Out := scalar2 (.maxN d a b) d a b s fun x y => if x.toNat ≤ y.toNat then y else x
def execMov (d a : BitVec 6) (s : State) : Out := scalar1 (.mov d a) d a s fun x => x
def execCmpI (d a b : BitVec 6) (cc : BitVec 3) (s : State) : Out :=
  scalar2 (.cmpI d a b cc) d a b s fun x y => bit (icond true 64 cc.toNat x.toNat y.toNat)
def execCmpN (d a b : BitVec 6) (cc : BitVec 3) (s : State) : Out :=
  scalar2 (.cmpN d a b cc) d a b s fun x y => bit (icond false 64 cc.toNat x.toNat y.toNat)

/-- SEL reads three registers (R101). -/
def execSel (d c a b : BitVec 6) (s : State) : Out :=
  ctl (.sel d c a b) s fun l =>
    let q := s.me
    s.putReg d.toNat (if q.readReg l c.toNat ≠ 0 then q.readReg l a.toNat else q.readReg l b.toNat)
      (q.mark l c.toNat || q.mark l a.toNat || q.mark l b.toNat)

def execAddi (d a : BitVec 6) (imm : BitVec 14) (s : State) : Out :=
  scalar1 (.addi d a imm) d a s fun x => x + imm14 imm
def execAndi (d a : BitVec 6) (imm : BitVec 14) (s : State) : Out :=
  scalar1 (.andi d a imm) d a s fun x => x &&& imm14 imm
def execOri (d a : BitVec 6) (imm : BitVec 14) (s : State) : Out :=
  scalar1 (.ori d a imm) d a s fun x => x ||| imm14 imm
def execXori (d a : BitVec 6) (imm : BitVec 14) (s : State) : Out :=
  scalar1 (.xori d a imm) d a s fun x => x ^^^ imm14 imm
def execShli (d a : BitVec 6) (imm : BitVec 14) (s : State) : Out :=
  scalar1 (.shli d a imm) d a s fun x => x <<< (imm.toNat % 64)
def execShri (d a : BitVec 6) (imm : BitVec 14) (s : State) : Out :=
  scalar1 (.shri d a imm) d a s fun x => x >>> (imm.toNat % 64)
def execSari (d a : BitVec 6) (imm : BitVec 14) (s : State) : Out :=
  scalar1 (.sari d a imm) d a s fun x => x.sshiftRight (imm.toNat % 64)

/-! ### Constants (R103) -/

def execMovi (d : BitVec 6) (imm : BitVec 20) (s : State) : Out := scalar0 (.movi d imm) d s fun _ => imm.signExtend 64

def execMovh (d : BitVec 6) (imm : BitVec 20) (s : State) : Out :=
  scalar0 (.movh d imm) d s fun l => s.me.readReg l d.toNat <<< 20 ||| imm.zeroExtend 64

/-- LDK: an entry of the constant pool; an index at or beyond NPOOL is ILLENC with check code 0x08. -/
def execLdk (d : BitVec 6) (k : BitVec 20) (s : State) : Out :=
  ctl (.ldk d k) s fun _ =>
    match (s.grid (ctxOf s.cur)).k.pool[k.toNat]? with
    | some v => s.putReg d.toNat v false
    | none => s.faultBad (.illenc 0 8) fun _ => encodeControl (.ldk d k)

/-! ### Special registers (R104) -/

/-- RDSR; FCTL and FFLAGS wait at a group stream (R39). -/
def execRdsr (d : BitVec 6) (n : BitVec 10) (s : State) : Out :=
  ctl (.rdsr d n) s fun _ =>
    if s.flagsBusy n.toNat then s.waitAt (.rdsr d n) else s.putReg d.toNat (BitVec.ofNat 64 (s.srRead n.toNat)) false

/-- WRSR of s(d). -/
def execWrsr (d : BitVec 6) (n : BitVec 10) (s : State) : Out :=
  ctl (.wrsr d n) s fun l =>
    if s.flagsBusy n.toNat then s.waitAt (.wrsr d n) [s.me.readReg l d.toNat]
    else (s.srWrite n.toNat (s.me.readReg l d.toNat)).advance

end Sys2Proof.Machine
end

