-- ==== Sys2Proof/Machine/Waits.lean ====
section
/-!
DEFINITION. Events that carry a wait or a long-latency word out (R98, R99). An event that is not enabled leaves the
state as it is.
-/
namespace Sys2Proof.Machine

/-- Whether the context of an agent is on its core; the grid sequencer's always is. -/
def State.onCore (s : State) (a : Agent) : Bool :=
  match a with
  | .grid _ => true
  | a => (s.wg (s.wgId a)).place == .resident

/-- Whether a stream waits at a word (R99) and may go on. -/
def State.waiting (s : State) (a : Agent) : Bool := s.onCore a && (s.seq a).run == .waiting

/-- An access of a waiting word is held for page service (R302). -/
def State.waitHeld (s : State) (a : Agent) (k : Acc4) : Bool :=
  s.holds.any fun x => x.2.who == .scalar a && x.2.kind == k

/-- Outstanding word `k` of a stream completes: an access that has not performed does so and its result arrives, or there is
nothing more to do (R98, R126 to R128, R280, R291). Other kinds have events of their own. -/
def execLongLatencyComplete (a : Agent) (k : Nat) (s : State) : Out :=
  if !s.onCore a then .next s
  else
    match (s.outs a)[k]? with
    | none => .next s
    | some o =>
      match o.kind with
      | .deferred _ _ _ _ _ _ =>
        .next (match a with
          | .lane _ _ _ _ => s.completeLanes a k o
          | a => s.completeScalar a k o)
      | .done => .next (s.dropOut a k)
      | _ => .next s

/-- WAITB, WAITT, WAITANY and WAITALL (R132, R133, R135). -/
def execWaitComplete (a : Agent) (s : State) : Out := .next (if s.waiting a then s.waitNow a else s)

/-- Whether an outstanding word is a SWAITA. -/
def OutKind.swaita? : OutKind → Option LogEntry
  | .swaita e => some e
  | _ => none

/-- SWAITA rereads its location, with the operands that it issued with (R98, R129): it completes when its condition holds;
the translation may page again, or fail once the earlier words of the stream have completed (R67), when the operand log has
room (R192). -/
def execSwaitaComplete (a : Agent) (s : State) : Out :=
  let out := s.outs a
  match out.find? fun o => o.kind.swaita?.isSome with
  | some o =>
    let e := (o.kind.swaita?).getD {}
    match scalarShape e.word with
    | none => .next s
    | some (n, k) =>
      if !s.onCore a then .next s
      else
        let ops := e.sops
        let g := s.grpId a
        let full := 4 ≤ (s.group g).log.length
        let at' (kd : OutKind) (q : Seq) : Seq := { q with out := q.out.map fun z => if z = o then { z with kind := kd } else z }
        match s.reach a (scalarAddr ops.addr) n k.acc ops.addr with
        | (_, .wait) => .next s
        | (s1, .ok t) =>
          (match (s1.inOrder? g t n).bind fun u => u.scalarDo g t n k e s1.clock with
           | some (s2, _, true) => .next (s2.modSeq a fun q => { q with out := q.out.filter (· != o) })
           | _ => .next s)
        | (s1, .page va) =>
          let (h, s2) := s1.hold { who := .scalar a, va := va, asid := (s1.space a).asid, kind := k.acc, ctx := ctxOf a }
          .next (if full then s else (s2.addLog g (ops.entry h o.pc e.word)).modSeq a (at' (.paged h)))
        | (s1, .bad c info) =>
          let h := s1.nextHandle
          let s2 := (({ s1 with nextHandle := h + 1 }).addLog g (ops.entry h o.pc e.word)).modSeq a (at' (.paged h))
          .next (if full ∨ (s.seq a).behind (· == o.kind) then s else s2.takeFault a { s2.record a c info with waddr := o.pc })
  | none => .next s

/-- What an outstanding AWAIT waits for. -/
def OutKind.await? : OutKind → Option (Nat × Nat)
  | .await d n => some (d, n)
  | _ => none

/-- AWAIT completes once every member has contributed (R114). -/
def execAwaitComplete (a : Agent) (s : State) : Out :=
  let q := s.seq a
  let ready (o : Outst) : Bool := match o.kind.await? with
    | some (_, n) => s.raiseFull a (agetD {} q.e n)
    | none => false
  match q.out.find? ready with
  | some o =>
    if !s.onCore a then .next s
    else
      let (d, n) := (o.kind.await?).getD (0, 0)
      .next ((s.modSeq a fun q => { q with out := q.out.filter (· != o) }).awaitNow a d n)
  | none => .next s

/-- BAR completes once every member has reached its instance (R117). -/
def execBarComplete (a : Agent) (s : State) : Out :=
  match (s.seq a).barAt with
  | some sc => .next (if s.waiting a ∧ s.barReady a sc then s.barPass a sc else s)
  | none => .next s

/-- SIGNAL writes once everything before it has completed (R118). -/
def execSignalWrite (a : Agent) (s : State) : Out :=
  let q := s.seq a
  let go (add : Bool) : State := ({ s with cur := a } : State).signalNow a (q.latched 0).toNat (q.latched 1) add
  if !s.waiting a ∨ s.waitHeld a .atomic ∨ !s.allDone a then .next s
  else
    match q.held with
    | some (.signalSet _ _ _) => .next (go false)
    | some (.signalAdd _ _ _) => .next (go true)
    | _ => .next s

/-- Words that wait for the group's earlier work (R99). -/
def execQueuedBlocksDrained (a : Agent) (s : State) : Out :=
  .next (if s.waiting a then s.orStay (({ s with cur := a } : State).drainedNow a) else s)

/-- DOWN, DOWNV and RUN once there is room (R111, R122). -/
def execLinkRoom (a : Agent) (s : State) : Out :=
  match (s.seq a).held, lvlOf a with
  | some i, some l =>
    let q := s.seq a
    let go (pre : State → State) : State :=
      if s.room a = .room then (s.wake a).handDown l i (q.latched 0).toNat (q.latched 1) (q.latched 2) (q.latched 3).toNat pre else s
    if !s.waiting a then .next s
    else
      match i with
      | .down _ | .downv _ _ _ => .next (go id)
      | .downReg _ | .downvReg _ _ _ => .next (go State.freed)
      | .run off => .next (if s.lead a < 16 then (s.wake a).queueBlock off.toNat else s)
      | _ => .next s
  | _, _ => .next s

/-- The waiting DRAW that arrived first gets its units when the pool can supply the increase (R124, R272). One whose
context is away keeps its place and takes no part (R276). -/
def execDrawGrant (die : Nat) (s : State) : Out :=
  let d := s.die die
  match d.drawQ.find? fun w => (s.wg w).place == .resident with
  | none => .next s
  | some w =>
    let a : Agent := .wg w.c w.w
    match (s.seq a).held with
    | some (.draw u) =>
      .next (if s.waiting a ∧ (u.toNat : Int) - (s.wg w).drawn ≤ d.poolFree then (s.grantDraw w u.toNat).resumeNext a else s)
    | _ => .next s

/-- Waiting claim `k` is granted once its run is free and no earlier waiter's run meets it (R215). -/
def execClaimGrant (c w k : Nat) (s : State) : Out :=
  let x := s.wg ⟨c, w⟩
  match x.claims[k]? with
  | none => .next s
  | some cl =>
    if x.place ≠ .resident ∨ !x.grantable (x.claims.take k) cl then .next s
    else
      let g : GrpId := ⟨c, w, cl.grp⟩
      let s1 := s.grant ⟨c, w⟩ cl (ldel x.claims k)
      match (s.group g).frags.find? fun f => f.lanes == 0xFFFFFFFF with
      | some f => .next (s1.goTo g f.fid (f.pc + 12))
      | none => .next s1

/-- BIND completes with its translation, or faults (R123). -/
def execBindComplete (a : Agent) (s : State) : Out :=
  let q := s.seq a
  match q.held with
  | some (.bind n _) =>
    .next (if s.waiting a ∧ !s.waitHeld a .bindOnly then
        s.orStay (({ s with cur := a } : State).bindNow a n.toNat (q.latched 0).toNat (q.latched 1).toNat) else s)
  | _ => .next s

end Sys2Proof.Machine
end

