-- ==== Sys2Proof/Machine/Dispatch.lean ====
section
/-!
DEFINITION. One meaning for every instruction of the table: events act by their arguments, words for `s.cur`.
-/
namespace Sys2Proof.Machine

def exec (i : Instr) (s : State) : Host.Outcome State Fault Refusal :=
  match i with
  | .add d a b => Sys2Proof.Machine.execAdd d a b s
  | .sub d a b => Sys2Proof.Machine.execSub d a b s
  | .mul d a b => Sys2Proof.Machine.execMul d a b s
  | .mulhI d a b => Sys2Proof.Machine.execMulhI d a b s
  | .mulhN d a b => Sys2Proof.Machine.execMulhN d a b s
  | .divI d a b => Sys2Proof.Machine.execDivI d a b s
  | .divN d a b => Sys2Proof.Machine.execDivN d a b s
  | .remI d a b => Sys2Proof.Machine.execRemI d a b s
  | .remN d a b => Sys2Proof.Machine.execRemN d a b s
  | .and d a b => Sys2Proof.Machine.execAnd d a b s
  | .or d a b => Sys2Proof.Machine.execOr d a b s
  | .xor d a b => Sys2Proof.Machine.execXor d a b s
  | .shl d a b => Sys2Proof.Machine.execShl d a b s
  | .shr d a b => Sys2Proof.Machine.execShr d a b s
  | .sar d a b => Sys2Proof.Machine.execSar d a b s
  | .mov d a => Sys2Proof.Machine.execMov d a s
  | .minI d a b => Sys2Proof.Machine.execMinI d a b s
  | .minN d a b => Sys2Proof.Machine.execMinN d a b s
  | .maxI d a b => Sys2Proof.Machine.execMaxI d a b s
  | .maxN d a b => Sys2Proof.Machine.execMaxN d a b s
  | .cmpI d a b cc => Sys2Proof.Machine.execCmpI d a b cc s
  | .cmpN d a b cc => Sys2Proof.Machine.execCmpN d a b cc s
  | .sel d c a b => Sys2Proof.Machine.execSel d c a b s
  | .addi d a imm => Sys2Proof.Machine.execAddi d a imm s
  | .andi d a imm => Sys2Proof.Machine.execAndi d a imm s
  | .ori d a imm => Sys2Proof.Machine.execOri d a imm s
  | .xori d a imm => Sys2Proof.Machine.execXori d a imm s
  | .shli d a imm => Sys2Proof.Machine.execShli d a imm s
  | .shri d a imm => Sys2Proof.Machine.execShri d a imm s
  | .sari d a imm => Sys2Proof.Machine.execSari d a imm s
  | .movi d imm => Sys2Proof.Machine.execMovi d imm s
  | .movh d imm => Sys2Proof.Machine.execMovh d imm s
  | .ldk d k => Sys2Proof.Machine.execLdk d k s
  | .rdsr d n => Sys2Proof.Machine.execRdsr d n s
  | .wrsr d n => Sys2Proof.Machine.execWrsr d n s
  | .br sc off => Sys2Proof.Machine.execBr sc off s
  | .bz sc a off => Sys2Proof.Machine.execBz sc a off s
  | .bnz sc a off => Sys2Proof.Machine.execBnz sc a off s
  | .call sc off => Sys2Proof.Machine.execCall sc off s
  | .callReg sc a => Sys2Proof.Machine.execCallReg sc a s
  | .ret sc => Sys2Proof.Machine.execRet sc s
  | .loop sc n a => Sys2Proof.Machine.execLoop sc n a s
  | .loopi sc n t => Sys2Proof.Machine.execLoopi sc n t s
  | .next sc n off => Sys2Proof.Machine.execNext sc n off s
  | .down off => Sys2Proof.Machine.execDown off s
  | .downReg r => Sys2Proof.Machine.execDownReg r s
  | .downv a b off => Sys2Proof.Machine.execDownv a b off s
  | .downvReg a b r => Sys2Proof.Machine.execDownvReg a b r s
  | .raise n a la fn => Sys2Proof.Machine.execRaise n a la fn s
  | .await d n la => Sys2Proof.Machine.execAwait d n la s
  | .bar sc => Sys2Proof.Machine.execBar sc s
  | .signalSet a b sc => Sys2Proof.Machine.execSignalSet a b sc s
  | .signalAdd a b sc => Sys2Proof.Machine.execSignalAdd a b sc s
  | .trap imm => Sys2Proof.Machine.execTrap imm s
  | .icp sec a n => Sys2Proof.Machine.execIcp sec a n s
  | .run off => Sys2Proof.Machine.execRun off s
  | .bind n a => Sys2Proof.Machine.execBind n a s
  | .unbind n => Sys2Proof.Machine.execUnbind n s
  | .draw u => Sys2Proof.Machine.execDraw u s
  | .undraw u => Sys2Proof.Machine.execUndraw u s
  | .sld d b la sz off => Sys2Proof.Machine.execSld d b la sz off s
  | .sst d b la sz off => Sys2Proof.Machine.execSst d b la sz off s
  | .satom d a la op ord sc w => Sys2Proof.Machine.execSatom d a la op ord sc w s
  | .swaita b a la sz cc n => Sys2Proof.Machine.execSwaita b a la sz cc n s
  | .phase sc k => Sys2Proof.Machine.execPhase sc k s
  | .waitb imm => Sys2Proof.Machine.execWaitb imm s
  | .waitt tl a => Sys2Proof.Machine.execWaitt tl a s
  | .waitany a => Sys2Proof.Machine.execWaitany a s
  | .waitall a => Sys2Proof.Machine.execWaitall a s
  | .ffr d a => Sys2Proof.Machine.execFfr d a s
  | .tagclr a => Sys2Proof.Machine.execTagclr a s
  | .rwmode k => Sys2Proof.Machine.execRwmode k s
  | .gstate d a sel => Sys2Proof.Machine.execGstate d a sel s
  | .gset b a sel => Sys2Proof.Machine.execGset b a sel s
  | .resumePr a => Sys2Proof.Machine.execResumePr a s
  | .resumeRg a => Sys2Proof.Machine.execResumeRg a s
  | .rules a => Sys2Proof.Machine.execRules a s
  | .fctl a => Sys2Proof.Machine.execFctl a s
  | .laneAdd w => Sys2Proof.Machine.execLaneAdd w s
  | .laneSub w => Sys2Proof.Machine.execLaneSub w s
  | .laneMul w => Sys2Proof.Machine.execLaneMul w s
  | .mulh w => Sys2Proof.Machine.execMulh w s
  | .mad w => Sys2Proof.Machine.execMad w s
  | .adds w => Sys2Proof.Machine.execAdds w s
  | .subs w => Sys2Proof.Machine.execSubs w s
  | .div w => Sys2Proof.Machine.execDiv w s
  | .rem w => Sys2Proof.Machine.execRem w s
  | .laneAnd w => Sys2Proof.Machine.execLaneAnd w s
  | .laneOr w => Sys2Proof.Machine.execLaneOr w s
  | .laneXor w => Sys2Proof.Machine.execLaneXor w s
  | .not w => Sys2Proof.Machine.execNot w s
  | .lop3 w => Sys2Proof.Machine.execLop3 w s
  | .laneShl w => Sys2Proof.Machine.execLaneShl w s
  | .laneShr w => Sys2Proof.Machine.execLaneShr w s
  | .laneSar w => Sys2Proof.Machine.execLaneSar w s
  | .rot w => Sys2Proof.Machine.execRot w s
  | .laneMin w => Sys2Proof.Machine.execLaneMin w s
  | .laneMax w => Sys2Proof.Machine.execLaneMax w s
  | .abs w => Sys2Proof.Machine.execAbs w s
  | .neg w => Sys2Proof.Machine.execNeg w s
  | .clz w => Sys2Proof.Machine.execClz w s
  | .popc w => Sys2Proof.Machine.execPopc w s
  | .brev w => Sys2Proof.Machine.execBrev w s
  | .bext w => Sys2Proof.Machine.execBext w s
  | .bins w => Sys2Proof.Machine.execBins w s
  | .laneSel w => Sys2Proof.Machine.execLaneSel w s
  | .laneCmp w => Sys2Proof.Machine.execLaneCmp w s
  | .fadd w => Sys2Proof.Machine.execFadd w s
  | .fsub w => Sys2Proof.Machine.execFsub w s
  | .fmul w => Sys2Proof.Machine.execFmul w s
  | .fma w => Sys2Proof.Machine.execFma w s
  | .fdiv w => Sys2Proof.Machine.execFdiv w s
  | .fmin w => Sys2Proof.Machine.execFmin w s
  | .fmax w => Sys2Proof.Machine.execFmax w s
  | .fabs w => Sys2Proof.Machine.execFabs w s
  | .fneg w => Sys2Proof.Machine.execFneg w s
  | .fsgn w => Sys2Proof.Machine.execFsgn w s
  | .frcp w => Sys2Proof.Machine.execFrcp w s
  | .frsq w => Sys2Proof.Machine.execFrsq w s
  | .fsqrt w => Sys2Proof.Machine.execFsqrt w s
  | .fexp2 w => Sys2Proof.Machine.execFexp2 w s
  | .flog2 w => Sys2Proof.Machine.execFlog2 w s
  | .fsinp w => Sys2Proof.Machine.execFsinp w s
  | .fcosp w => Sys2Proof.Machine.execFcosp w s
  | .ftanh w => Sys2Proof.Machine.execFtanh w s
  | .frnd w => Sys2Proof.Machine.execFrnd w s
  | .fcmp w => Sys2Proof.Machine.execFcmp w s
  | .fclass w => Sys2Proof.Machine.execFclass w s
  | .cvt w => Sys2Proof.Machine.execCvt w s
  | .pack w => Sys2Proof.Machine.execPack w s
  | .unpack w => Sys2Proof.Machine.execUnpack w s
  | .laneMov w => Sys2Proof.Machine.execLaneMov w s
  | .laneMovi w => Sys2Proof.Machine.execLaneMovi w s
  | .movs w => Sys2Proof.Machine.execMovs w s
  | .laneid w => Sys2Proof.Machine.execLaneid w s
  | .shfl w => Sys2Proof.Machine.execShfl w s
  | .bcast w => Sys2Proof.Machine.execBcast w s
  | .redc w => Sys2Proof.Machine.execRedc w s
  | .scan w => Sys2Proof.Machine.execScan w s
  | .vote w => Sys2Proof.Machine.execVote w s
  | .laneRaise w => Sys2Proof.Machine.execLaneRaise w s
  | .qand w => Sys2Proof.Machine.execQand w s
  | .qor w => Sys2Proof.Machine.execQor w s
  | .qxor w => Sys2Proof.Machine.execQxor w s
  | .qnot w => Sys2Proof.Machine.execQnot w s
  | .qmov w => Sys2Proof.Machine.execQmov w s
  | .qpop w => Sys2Proof.Machine.execQpop w s
  | .qff w => Sys2Proof.Machine.execQff w s
  | .ld w => Sys2Proof.Machine.execLd w s
  | .st w => Sys2Proof.Machine.execSt w s
  | .lds w => Sys2Proof.Machine.execLds w s
  | .sts w => Sys2Proof.Machine.execSts w s
  | .atom w => Sys2Proof.Machine.execAtom w s
  | .atoms w => Sys2Proof.Machine.execAtoms w s
  | .prf w => Sys2Proof.Machine.execPrf w s
  | .sclaim w => Sys2Proof.Machine.execSclaim w s
  | .srel w => Sys2Proof.Machine.execSrel w s
  | .ldslot w => Sys2Proof.Machine.execLdslot w s
  | .stslot w => Sys2Proof.Machine.execStslot w s
  | .trans w => Sys2Proof.Machine.execTrans w s
  | .scale w => Sys2Proof.Machine.execScale w s
  | .ldw w => Sys2Proof.Machine.execLdw w s
  | .mma w => Sys2Proof.Machine.execMma w s
  | .aclaim w => Sys2Proof.Machine.execAclaim w s
  | .arel w => Sys2Proof.Machine.execArel w s
  | .aload w => Sys2Proof.Machine.execAload w s
  | .adrainSp w => Sys2Proof.Machine.execAdrainSp w s
  | .adrainReg w => Sys2Proof.Machine.execAdrainReg w s
  | .tblw w => Sys2Proof.Machine.execTblw w s
  | .brLn w => Sys2Proof.Machine.execBrLn w s
  | .join w => Sys2Proof.Machine.execJoin w s
  | .lend w => Sys2Proof.Machine.execLend w s
  | .longLatencyComplete a k => Sys2Proof.Machine.execLongLatencyComplete a k s
  | .waitComplete a => Sys2Proof.Machine.execWaitComplete a s
  | .swaitaComplete a => Sys2Proof.Machine.execSwaitaComplete a s
  | .awaitComplete a => Sys2Proof.Machine.execAwaitComplete a s
  | .barComplete a => Sys2Proof.Machine.execBarComplete a s
  | .signalWrite a => Sys2Proof.Machine.execSignalWrite a s
  | .queuedBlocksDrained a => Sys2Proof.Machine.execQueuedBlocksDrained a s
  | .linkRoom a => Sys2Proof.Machine.execLinkRoom a s
  | .drawGrant die => Sys2Proof.Machine.execDrawGrant die s
  | .claimGrant c w k => Sys2Proof.Machine.execClaimGrant c w k s
  | .bindComplete a => Sys2Proof.Machine.execBindComplete a s
  | .tblwGenerationFree c w g n => Sys2Proof.Machine.execTblwGenerationFree c w g n s
  | .matrixIssue c w g n => Sys2Proof.Machine.execMatrixIssue c w g n s
  | .mmaRowEntry c w g n rows => Sys2Proof.Machine.execMmaRowEntry c w g n rows s
  | .commandRetire c w g n => Sys2Proof.Machine.execCommandRetire c w g n s
  | .laneBlockStart c w g => Sys2Proof.Machine.execLaneBlockStart c w g s
  | .fragmentRotation c w g => Sys2Proof.Machine.execFragmentRotation c w g s
  | .receiptTake a => Sys2Proof.Machine.execReceiptTake a s
  | .pitchFinish c p => Sys2Proof.Machine.execPitchFinish c p s
  | .notifyRecord c w => Sys2Proof.Machine.execNotifyRecord c w s
  | .entryConsume c w => Sys2Proof.Machine.execEntryConsume c w s
  | .chitStart c w k => Sys2Proof.Machine.execChitStart c w k s
  | .chitStep c w k => Sys2Proof.Machine.execChitStep c w k s
  | .chitComplete c w k => Sys2Proof.Machine.execChitComplete c w k s
  | .replayServiced h trickle => Sys2Proof.Machine.execReplayServiced h trickle s
  | .replayDeclined h => Sys2Proof.Machine.execReplayDeclined h s
  | .replayNoframe h => Sys2Proof.Machine.execReplayNoframe h s
  | .asidkill asid => Sys2Proof.Machine.execAsidkill asid s
  | .tinval t line => Sys2Proof.Machine.execTinval t line s
  | .pageTableStorePerform k => Sys2Proof.Machine.execPageTableStorePerform k s
  | .l1Invalidation core line => Sys2Proof.Machine.execL1Invalidation core line s
  | .hostSnoop line invalidate => Sys2Proof.Machine.execHostSnoop line invalidate s
  | .hostRequest r => Sys2Proof.Machine.execHostRequest r s
  | .remoteTransferArrival job bit fmt reduce elems => Sys2Proof.Machine.execRemoteTransferArrival job bit fmt reduce elems s
  | .footfallThreshold unit region => Sys2Proof.Machine.execFootfallThreshold unit region s
  | .wakeWrite vf off size value => Sys2Proof.Machine.execWakeWrite vf off size value s
  | .poolAging node => Sys2Proof.Machine.execPoolAging node s
  | .pitchPlace c => Sys2Proof.Machine.execPitchPlace c s
  | .placeWaitExpiry c => Sys2Proof.Machine.execPlaceWaitExpiry c s
  | .scriptResume c => Sys2Proof.Machine.execScriptResume c s
  | .nodeComplete node => Sys2Proof.Machine.execNodeComplete node s
  | .drawPoolChange die units => Sys2Proof.Machine.execDrawPoolChange die units s
  | .porterStage die cmd => Sys2Proof.Machine.execPorterStage die cmd s
  | .porterSwap die cmd => Sys2Proof.Machine.execPorterSwap die cmd s
  | .porterSpill die cmd => Sys2Proof.Machine.execPorterSpill die cmd s
  | .porterUnstage die cmd => Sys2Proof.Machine.execPorterUnstage die cmd s
  | .porterKill die cmd => Sys2Proof.Machine.execPorterKill die cmd s
  | .rwaysWrite die value => Sys2Proof.Machine.execRwaysWrite die value s
  | .pmaskWrite die slice p mask => Sys2Proof.Machine.execPmaskWrite die slice p mask s
  | .utilityInterval die slice => Sys2Proof.Machine.execUtilityInterval die slice s
  | .partitionReset p => Sys2Proof.Machine.execPartitionReset p s
  | .scrub line => Sys2Proof.Machine.execScrub line s
  | .eccError u corrected => Sys2Proof.Machine.execEccError u corrected s
  | .linkFail die unit loc lines => Sys2Proof.Machine.execLinkFail die unit loc lines s
  | .setStage2Entry vf iq value => Sys2Proof.Machine.execSetStage2Entry vf iq value s
  | .setTroot vf ctx value => Sys2Proof.Machine.execSetTroot vf ctx value s
  | .assignFrame frame owner => Sys2Proof.Machine.execAssignFrame frame owner s
  | .setHostRange vf idx base len => Sys2Proof.Machine.execSetHostRange vf idx base len s
  | .checkCodeObject pq code => Sys2Proof.Machine.execCheckCodeObject pq code s
  | .stageUpdate kind image => Sys2Proof.Machine.execStageUpdate kind image s
  | .commitUpdate kind => Sys2Proof.Machine.execCommitUpdate kind s
  | .retireCore core => Sys2Proof.Machine.execRetireCore core s
  | .attest vf nonce dest => Sys2Proof.Machine.execAttest vf nonce dest s
  | .registerCodeKey vf pa => Sys2Proof.Machine.execRegisterCodeKey vf pa s
  | .registerWrite r value => Sys2Proof.Machine.execRegisterWrite r value s
  | .writePerform k => Sys2Proof.Machine.execWritePerform k s
  | .l1Eviction core line => Sys2Proof.Machine.execL1Eviction core line s
  | .directoryEviction line => Sys2Proof.Machine.execDirectoryEviction line s
  | .coreGating core => Sys2Proof.Machine.execCoreGating core s
  | .cacheChipletGating die chiplet => Sys2Proof.Machine.execCacheChipletGating die chiplet s
  | .l2WayRetire die slice way => Sys2Proof.Machine.execL2WayRetire die slice way s
  | .hbmRowRepair die row => Sys2Proof.Machine.execHbmRowRepair die row s
  | .endW => Sys2Proof.Machine.execEndW s
  | .halt => Sys2Proof.Machine.execHalt s
  | .region => Sys2Proof.Machine.execRegion s
  | .yield => Sys2Proof.Machine.execYield s
  | .nop => Sys2Proof.Machine.execNop s
  | .seal => Sys2Proof.Machine.execSeal s
  | .flushw => Sys2Proof.Machine.execFlushw s
  | .abort => Sys2Proof.Machine.execAbort s
  | .wake => Sys2Proof.Machine.execWake s
  | .dispatch => Sys2Proof.Machine.execDispatch s
  | .deviceReset => Sys2Proof.Machine.execDeviceReset s

end Sys2Proof.Machine
end

