-- ==== Sys2Proof/Machine/Issue.lean ====
section
/-!
DEFINITION. Issuing a word: readiness, the section (R435), fetch through the X permission (R363), windows and their
dependences (R17, R56, R57), convergence words (R174), and the precise fault that waits for earlier words (R67).
-/
namespace Sys2Proof.Machine

/-- Whether an instruction is an event: it has no encoding. -/
def isEvent (i : Instr) : Bool := (laneCode i).isNone && encodeControl i == 0

/-! ### Readiness -/

/-- Whether a fetch of an agent is held for page service (R302). -/
def State.fetchHeld (s : State) (a : Agent) : Bool := s.holds.any fun x => x.2.who == .fetch a

/-- Whether an agent may issue: its stream runs or its fragment holds a slot or stands at a convergence word, its
workgroup is resident, its node has not failed, its context is not stopped by NOFRAME, and no fetch is held. -/
def State.ready (s : State) (a : Agent) : Bool :=
  let c := ctxOf a
  let up := (aget? s.grids c).isSome && (s.grid c).failing == [] && !(s.grid c).killed && !(s.grid c).noframe && !s.fetchHeld a
  let res := (s.wg (s.wgId a)).place == .resident
  match a with
  | .grid _ => up && (s.seq a).run == .running
  | .lane ci wi gi f =>
    let y := s.group ⟨ci, wi, gi⟩
    up && res && y.blk.isSome &&
      (match y.frag f with
       | some x => (x.st == .runnable && y.slots.contains f) || x.st == .converge
       | none => false)
  | .handler c w => up && res && (s.wg ⟨c, w⟩).hrun.isSome && (s.seq a).run == .running
  | a => up && res && (s.seq a).run == .running

/-! ### Slips and windows -/

/-- Count a slip: the stream's, or the group's for a lane engine (R274). -/
def State.slip (s : State) (a : Agent) : State := s.modSeq (s.ownOf a) fun q => { q with slip := q.slip + 1 }

/-- The slip mark of an agent. -/
def State.slippedOf (s : State) (a : Agent) : Bool :=
  match a with
  | .lane c w g f => (((s.group ⟨c, w, g⟩).frag f).map (·.slipped)).getD false
  | a => (s.seq a).slipped

/-- Set the slip mark and change the outstanding words of an agent. -/
def State.setOut (s : State) (a : Agent) (slipped : Bool) (h : Outst → Outst) : State :=
  match a with
  | .lane c w g f => s.modGroup ⟨c, w, g⟩ fun y => y.modFrag f fun x => { x with slipped := slipped, out := x.out.map h }
  | a => s.modSeq a fun q => { q with slipped := slipped, blocked := false, out := q.out.map h }

/-- The LAVIOL that an agent's word at `pc` waits with (R17). -/
def State.violOf (s : State) (a : Agent) (pc : Nat) : Option Nat :=
  (match a with
   | .lane c w g f => ((s.group ⟨c, w, g⟩).frag f).bind (·.viol)
   | a => (s.seq a).viol).bind fun v => if v.1 = pc then some v.2 else none
def State.setViol (s : State) (a : Agent) (v : Option (Nat × Nat)) : State :=
  match a with
  | .lane c w g f => s.modGroup ⟨c, w, g⟩ fun y => y.modFrag f fun x => { x with viol := v }
  | a => s.modSeq a fun q => { q with viol := v }

/-- The word waits and its wait is counted once (R17, R57, R192, R221). -/
def State.slipWait (s : State) (a : Agent) : State :=
  if s.slippedOf a then s else (s.slip a).setOut a true id

/-- The word issues: every window is one word shorter. -/
def State.opened (s : State) (a : Agent) : State := s.setOut a false fun o => { o with left := o.left - 1 }

/-- What the outstanding words of a stream say to the next word. -/
inductive Gate where
  | go | slip | hold
  | laviol (pc : Nat)
  deriving DecidableEq, Repr

/-- Whether a word that reads `rd` and writes `wr` depends on an outstanding word (R17). -/
def Outst.dependent (o : Outst) (rd wr : List RegRef) : Bool :=
  o.wr.any (fun r => rd.contains r || wr.contains r) || o.rd.any wr.contains

/-- Whether byte ranges of one space meet (R57). -/
def touches (xs ys : List (Bool × Nat × Nat)) : Bool :=
  xs.any fun x => ys.any fun y => x.1 == y.1 && overlap x.2.1 x.2.2 y.2.1 y.2.2

/-- Whether an outstanding word is a tile word. -/
def Outst.isTile (o : Outst) : Bool :=
  match o.kind with
  | .tile _ => true
  | _ => false

/-- The gate of R56 and R57. R57 concerns memory words: two tile words that share bytes are ordered by back-distance alone
(R222), and a tile word and a memory word as R223 says. -/
def gateOf (out : List Outst) (rd wr : List RegRef) (bytes : List (Bool × Nat × Nat)) (dbg : Bool) (tile : Bool := false) : Gate :=
  if out.any (·.left == 0) then .hold
  else
    match out.find? fun o => o.dependent rd wr with
    | some o => if dbg then .laviol o.pc else .slip
    | none => if out.any fun o => !(tile && o.isTile) && touches o.bytes bytes then .slip else .go

/-- A precise fault of the turn, seen from outside: the handler, its queue, the workgroup or the node changed. -/
def State.tookFault (s t : State) (a : Agent) : Bool :=
  let w := s.wgId a
  (s.wg w).hrun != (t.wg w).hrun || (s.wg w).hwait != (t.wg w).hwait || (s.wg w).place != (t.wg w).place ||
    (s.grid (ctxOf a)).failing != (t.grid (ctxOf a)).failing || (s.grid (ctxOf a)).scriptStop != (t.grid (ctxOf a)).scriptStop

/-- A word could not issue: its sequencer is Waiting at it (R99, R260). -/
def State.blockedAt (s : State) (a : Agent) : State :=
  match a with
  | .lane _ _ _ _ => s
  | a => s.modSeq a fun q => { q with blocked := true }

/-- A precise fault waits for the earlier words of its stream: a demand point where tile words are among them (R221,
R240). -/
def State.faultWaits (s : State) (a : Agent) : State :=
  match a with
  | .lane c w g _ => if (s.outs a).any Outst.isTile then s.demand ⟨c, w, g⟩ else s
  | _ => s

/-- The result of a word: nothing when it could not issue, and nothing yet when it faults before earlier words of its
stream have completed (R67, R299). -/
def State.settle (s : State) (a : Agent) (abort : Bool) : Out → Out
  | .next t =>
    if t.stalled then .next (s.blockedAt a)
    else if !abort && s.outs a != [] && s.tookFault t a then .next (s.faultWaits a)
    else .next t
  | o => o

/-- A LAVIOL against the earlier word at `p` (R17): taken once the earlier words of the stream have completed (R299). -/
def State.laviol (s : State) (a : Agent) (pc p : Nat) : State :=
  if s.outs a = [] then ({ s.setViol a none with cur := a } : State).fault cLAVIOL p else (s.setViol a (some (pc, p))).faultWaits a

/-- A word issued: the registers that it wrote hold values known since its own read, or since those of the registers that
it read (R291). -/
def State.learned (s t : State) (a : Agent) (rd wr : List RegRef) (reads : Bool) : State :=
  if s.tookFault t a then t
  else
    let q := match a with
      | .lane _ _ _ _ => s.seq (s.grpId a).stream
      | a => s.seq a
    t.know a wr (if reads then s.clock else knownAt q (s.group (s.grpId a)) rd)

/-- The same for the outcome of a word. -/
def State.learn (s : State) (a : Agent) (rd wr : List RegRef) (reads : Bool) : Out → Out
  | .next t => .next (if t.stalled then t else s.learned t a rd wr reads)
  | o => o

/-! ### Fetch -/

/-- Instruction caches may hold a line from now on (R273). -/
def State.cacheCode (s : State) (c line : Nat) : State :=
  if (s.grid c).code.contains line then s else s.modGrid c fun g => { g with code := g.code ++ [line] }

/-- A parcel at a physical address: as memory now holds it or, by a choice where code was written while it ran, an older
one (R69). -/
def State.parcel (s : State) (pa : Nat) : State × Nat :=
  match s.oldCode.filter fun x => x.1 == pa / 4 with
  | [] => (s, s.memNat pa 4)
  | olds =>
    let (k, s1) := s.choose
    (s1, if k = 0 then s.memNat pa 4 else (olds.getD ((k - 1) % olds.length) (0, 0)).2)

/-- Fetch `k` parcels from `va` (R69, R273, R363), the first lowest; or the state in which the fetch faulted or waits. -/
def State.fetch (s : State) (a : Agent) : Nat → Nat → Except State (State × Nat)
  | _, 0 => .ok (s, 0)
  | va, k + 1 =>
    match s.watchHit va 4 with
    | some x => .error (s.fault cWATCH x)
    | none =>
      match s.access (s.space a) va .fetch with
      | (s1, .ok tr) =>
        if (s1.poisonAt (tr.pa va) 4).isSome then .error (s1.fault cPOISON va)
        else
          let (s2, p) := (s1.cacheCode (ctxOf a) (lineOf (tr.pa va))).parcel (tr.pa va)
          match s2.fetch a (va + 4) k with
          | .ok (s3, n) => .ok (s3, p + 2 ^ 32 * n)
          | .error t => .error t
      | (s1, .fault .page) =>
        .error (s1.hold { who := .fetch a, va := va, asid := (s1.space a).asid, kind := .fetch, ctx := ctxOf a }).2
      | (s1, .fault .prot) => .error (s1.fault cPROT va)
      | (s1, .fault .poison) => .error (s1.fault cPOISON va)
      | (_, .wait) => .error s.stall

/-! ### Control words -/

/-- Whether a control word ends its block (R17). -/
def endsBlock : Instr → Bool
  | .endW | .halt => true
  | _ => false

/-- Bytes that a scalar memory word touches (R57), and whether it needs a free log entry (R192). -/
def State.ctlBytes (s : State) (a : Agent) (l : Lvl) (i : Instr) : List (Bool × Nat × Nat) :=
  match scalarShape i with
  | some (n, _) => touchOf (s.wg (s.wgId a)).pos (scalarAddr ((s.seq a).sops l i).addr) n
  | none => []
def State.ctlLogFull (s : State) (a : Agent) (i : Instr) : Bool :=
  let y := s.group (s.grpId a)
  (scalarShape i).isSome && (y.scalarLog (s.seq a).pc).isNone && 4 ≤ y.log.length

/-- A legal control word at its issue. -/
def State.runControl (s : State) (a : Agent) (l : Lvl) (i : Instr) : Out :=
  let (rd, wr) := ctlRefs l i
  match s.violOf a (s.seq a).pc, gateOf (s.seq a).out rd wr (s.ctlBytes a l i) (s.seq (s.ownOf a)).dbg with
  | some p, _ | none, .laviol p => .next (s.laviol a (s.seq a).pc p)
  | none, .hold => .next s
  | none, .slip => .next (s.slipWait a)
  | none, .go =>
    if s.ctlLogFull a i then .next (s.slipWait a)
    else if endsBlock i && (s.seq a).out != [] then
      .next (if (s.seq a).atEnd then s else s.modSeq a fun q => { q with atEnd := true })
    else s.settle a (i == .abort) (s.learn a rd wr (scalarShape i).isSome
      (exec i ((s.opened a).modSeq a fun q => { q with atEnd := false })))

/-- The next control word of a sequencer: the checks of R65 come before any wait. -/
def State.issueControl (s : State) (a : Agent) (l : Lvl) : Out :=
  let q := s.seq a
  if q.out.any (·.left == 0) then .next s
  else if !s.inSection a q.pc then s.settle a false (.next (s.fault cPROT q.pc))
  else
    match s.fetch a q.pc 1 with
    | .error t => s.settle a false (.next t)
    | .ok (s1, n) =>
      match ctlCheck l n, decode (toBytes 4 n) with
      | none, .ok i => s1.runControl a l i
      | b, _ => s.settle a false (.next (s1.faultBad (b.getD (.illenc 0 1)) fun _ => n))

/-! ### Lane words -/

/-- The words of R174. -/
def converges (c o : Nat) : Bool := c == 2 || c == 3 || (c == 0 && [0x44, 0x45, 0x48, 0x49, 0x4A, 0x4B].contains o)

/-- The fragments that a fragment waits for at a convergence word: fault fragments of its level, and the one it split
from. A whole fragment that faulted meets those that stand at its word (R174, R191). -/
def Group.partners (y : Group) (x : Frag) : List Frag :=
  y.frags.filter fun z => z.fid != x.fid && z.level == x.level &&
    (z.split.isSome || z.fault || x.split == some z.fid || (x.fault && z.st == .converge && z.pc == x.pc))

/-- What a fragment does at a convergence word. -/
inductive Meet where
  | issue | wait
  | merge (keep gone : Nat)
  deriving DecidableEq, Repr

def Group.meet (y : Group) (x : Frag) : Meet :=
  match y.partners x with
  | [] => .issue
  | ps =>
    match ps.find? fun z => z.pc == x.pc && (z.st == .runnable || z.st == .converge) &&
        (x.split == some z.fid || z.split == some x.fid || x.fault || z.fault) with
    | some z => if x.split = some z.fid then .merge z.fid x.fid else .merge x.fid z.fid
    | none => .wait

/-- Change the state of a fragment and refill the slots. -/
def State.setFrag (s : State) (g : GrpId) (f : Nat) (st : FragSt) : State :=
  s.modGroup g fun y => (y.modFrag f fun x => { x with st := st }).fill s.clock

/-- Bytes that a lane memory word touches in its acting lanes, and a tile word in scratchpad, from a core at pitch core
index `p` (R57, R223). -/
def LaneEnv.bytes (e : LaneEnv) (k : KObj) (p c o : Nat) (w : LaneW) : List (Bool × Nat × Nat) :=
  match c with
  | 1 =>
    let win := e.y.window (bits w.p2.toNat 2 0)
    e.act.flatMap fun j => touchOf p ((e.lops o w j).address w win) (accessSize w.ty.toNat)
  | 2 =>
    (match (laneRow 2 o w).bind e.tileOp with
     | some op => tileBytes p (extent k op).1 (extent k op).2
     | none => [])
  | _ => []

/-- A LEND that waits for a command kept back by eight held reports delivers the oldest of them (R312). -/
def State.lendFrees (s : State) (g : GrpId) : State :=
  if (s.keptBack g).1 ≠ [] ∧ !s.reportOpen g then
    (match (s.group g).reports with
     | r :: _ => s.deliver g r
     | [] => s)
  else s

/-- Whether a word waits for an unretired tile word of its fragment: a demand point (R240). -/
def tileWait (out : List Outst) (rd wr : List RegRef) (bytes : List (Bool × Nat × Nat)) : Bool :=
  out.any fun o => o.isTile && (o.left == 0 || o.dependent rd wr || touches o.bytes bytes)

/-- Whether a lane word is a flush point of the rewrite stage, or ends the block (R240, R242). -/
def flushWord (rules : List Nat) (e : LaneEnv) (i : Instr) (c o : Nat) : Bool :=
  (c == 0 && o == 0x4B) || (c == 3 && o == 0x03) || (c == 2 && ((e.tileOp i).map (TileOp.flushes rules)) == some true)

/-- Whether a lane engine has two fragments that may issue. -/
def Group.bothReady (y : Group) : Bool :=
  (y.slots.filter fun f => ((y.frag f).map fun x => x.st == .runnable && !x.out.any (·.left == 0)) == some true).length == 2

/-- The slot served where both are ready is an input of the node: captured, and enforced in a re-run (R423, R424). -/
def State.picked (s : State) (g : GrpId) (f : Nat) : Option State :=
  if (s.group g).bothReady then s.ordered g.c (.pick g.w g.g ((s.group g).slots.findIdx (· == f))) else some s

/-- SREL and AREL whose run is held wait for the group's words that name it: a demand point (R215, R240). -/
def State.releaseWaits (s : State) (g : GrpId) : Instr → Bool
  | .srel w => (s.releaseBad g false w).isNone && s.releaseNamed g false w
  | .arel w => (s.releaseBad g true w).isNone && s.releaseNamed g true w
  | _ => false

/-- The operands of a lane word of fragment `x`. -/
def State.envOf (s : State) (g : GrpId) (x : Frag) (w : LaneW) : LaneEnv :=
  { g := g, f := x.fid, y := s.group g, x := x, act := lanesOf ((s.group g).acting x.lanes w), stream := s.seq g.stream }

/-- The bytes of the next lane word in which it may meet an earlier word, and whether it waits for every earlier one (R56,
R185). -/
def State.laneBytes (s : State) (g : GrpId) (x : Frag) (c o : Nat) (w : LaneW) : List (Bool × Nat × Nat) :=
  (s.envOf g x w).bytes (s.grid g.c).k (s.wg g.wg).pos c o w
def waitsAll (c : Nat) (w : LaneW) : Bool := c == 3 || (c == 1 && w.mod.toNat / 4 != 0)

/-- The stage looks at the next word of the lane stream, whether or not it may issue yet: what is undecided is decided when
it is a flush point, or has to wait for an unretired tile word (R240). -/
def State.stageSees (s0 : State) (g : GrpId) (x : Frag) (i : Instr) (c o : Nat) (w : LaneW) : State :=
  let s := if flushWord (s0.wg g.wg).rules (s0.envOf g x w) i c o then s0.cut g else s0
  let (rd, wr) := laneRefs c o w
  if tileWait x.out rd wr (if c = 1 then s.laneBytes g x c o w else []) ∨ (waitsAll c w ∧ x.out.any Outst.isTile) ∨
      s.releaseWaits g i then s.demand g
  else s

/-- A legal lane word at its issue. -/
def State.runLane (s0 : State) (g : GrpId) (x : Frag) (i : Instr) (c o : Nat) (w : LaneW) : Out :=
  let a := g.lane x.fid
  let s := s0.stageSees g x i c o w
  let y := s.group g
  let stream := s.seq g.stream
  let (rd, wr) := laneRefs c o w
  let logged := y.log.any fun z => z.frag == some x.fid && z.declined && z.waddr == x.pc
  let lend (s : State) : State := if c = 3 ∧ o = 3 then s.lendFrees g else s
  match s.violOf a x.pc, gateOf x.out rd wr (s.laneBytes g x c o w) stream.dbg (c == 2) with
  | some p, _ | none, .laviol p => .next (s.laviol a x.pc p)
  | none, .hold => .next (lend s)
  | none, .slip => .next (s.slipWait a)
  | none, .go =>
    if waitsAll c w ∧ x.out ≠ [] then .next (lend s)
    else if c = 1 ∧ !logged ∧ 4 ≤ y.log.length then .next (s.slipWait a)
    else if s.releaseWaits g i then .next s
    else if c = 2 ∧ [0x03, 0x04, 0x05, 0x06, 0x07, 0x08, 0x0B, 0x0C, 0x0D].contains o ∧ 16 ≤ y.unretired.length then
      .next (s.slipWait a)
    else
      match if converges c o then y.meet x else .issue with
      | .wait => .next (s.setFrag g x.fid .converge)
      | .merge k d => .next ((s.modGroup g fun y => y.merge k d).setFrag g k .runnable)
      | .issue =>
        if x.st = .converge then .next (s.setFrag g x.fid .runnable)
        else
          match s.picked g x.fid with
          | none => .next s
          | some s1 =>
            -- past a convergence word a whole fragment that faulted is no fault fragment any more (R174)
            let s2 := if converges c o then s1.modGroup g fun y => y.modFrag x.fid fun z => { z with fault := false } else s1
            s.settle a false (s.learn a rd wr (c == 1) (exec i (s2.opened a)))

/-- The next lane word of a fragment: the checks of R65 come before any wait. -/
def State.issueLane (s : State) (g : GrpId) (f : Nat) : Out :=
  match (s.group g).frag f with
  | none => .next s
  | some x =>
    let a := g.lane f
    let closed := x.out.any (·.left == 0)
    let s0 := if tileWait x.out [] [] [] then s.demand g else s
    if !s.inSection a x.pc then (if closed then .next s0 else s.settle a false (.next (s.fault cPROT x.pc)))
    else
      match s0.fetch a x.pc 3 with
      | .error t => if closed then .next s0 else s.settle a false (.next t)
      | .ok (s1, n) =>
        match laneCheck (s.grid g.c).k.vregs (bits n 31 30) (bits n 7 0) (unpackLane n), decode (toBytes 12 n) with
        | none, .ok i =>
          (match laneCode i with
           | some (c, o, w) => s1.runLane g x i c o w
           | none => .next s)
        | b, _ => if closed then .next s0 else s.settle a false (.next (s1.faultBad (b.getD (.illenc 0 1)) (parcelOf n)))

/-! ### Turns -/

/-- A group stream goes on past its last RUN (R316). -/
def State.notFresh (s : State) (a : Agent) : State :=
  match a with
  | .group c w g => s.modGroup ⟨c, w, g⟩ fun y => { y with fresh := false }
  | _ => s

/-- An agent issues its next word, when it is ready. -/
def State.issueWord (s : State) (a : Agent) : Out :=
  if !s.ready a then .next s
  else
    let s1 : State := { s.notFresh a with cur := a, stalled := false }
    match a, lvlOf a with
    | .lane c w g f, _ => s1.issueLane ⟨c, w, g⟩ f
    | a, some l => s1.issueControl a l
    | _, none => .next s

/-- An instruction miss freezes an agent that is ready to issue, and is counted (R273, R274). -/
def State.missAt (s : State) (a : Agent) : State := if s.ready a then s.slip a else s

/-- One turn of the schedule. -/
def runTurn (s : State) : Turn → Out
  | .word a => s.issueWord a
  | .miss a => .next (s.missAt a)
  | .porter die => .next (s.porterTurn die)
  | .waits => .next s.wakeWaits.retryCheck
  | .event e => if isEvent e then exec e s else .next s

end Sys2Proof.Machine
end

