-- ==== Sys2Proof/Machine/Sched.lean ====
section
/-!
DEFINITION. The schedule: the next turn of the plan, or, when the plan is empty, one of the turns that the state offers
(R275, R276; log entry 2); and a word laid out where the next step fetches it (log entry 16).
-/
namespace Sys2Proof.Machine

/-- The completion event of a word that a stream waits at (R99). -/
def waitEvent (a : Agent) : Instr → Instr
  | .waitb _ | .waitt _ _ | .waitany _ | .waitall _ => .waitComplete a
  | .await _ _ _ => .awaitComplete a
  | .bar _ => .barComplete a
  | .signalSet _ _ _ | .signalAdd _ _ _ => .signalWrite a
  | .down _ | .downReg _ | .downv _ _ _ | .downvReg _ _ _ | .run _ => .linkRoom a
  | .bind _ _ => .bindComplete a
  | _ => .queuedBlocksDrained a

/-- Turns that a sequencer offers. -/
def seqTurns (x : Agent × Seq) : List Turn :=
  .word x.1 :: (List.range x.2.out.length).map (fun k => .event (.longLatencyComplete x.1 k)) ++
    [.event (.swaitaComplete x.1), .event (.receiptTake x.1)] ++
    (match x.2.held with | some i => [.event (waitEvent x.1 i)] | none => [])

/-- Turns that a group's lane engine and matrix window offer. -/
def groupTurns (x : GrpId × Group) : List Turn :=
  let g := x.1
  [.event (.laneBlockStart g.c g.w g.g), .event (.fragmentRotation g.c g.w g.g)] ++
    x.2.frags.flatMap (fun f => .word (g.lane f.fid) ::
      (List.range f.out.length).map fun k => .event (.longLatencyComplete (g.lane f.fid) k)) ++
    x.2.cmds.flatMap fun m =>
      let n := (m.origins.map (·.num)).headD 0
      [.event (.tblwGenerationFree g.c g.w g.g n), .event (.matrixIssue g.c g.w g.g n),
        .event (.mmaRowEntry g.c g.w g.g n 128), .event (.commandRetire g.c g.w g.g n)]

/-- Turns that a workgroup's core offers. -/
def wgTurns (x : WgId × Wg) : List Turn :=
  let c := x.1.c
  let w := x.1.w
  [.event (.notifyRecord c w), .event (.entryConsume c w)] ++
    (List.range x.2.claims.length).map (fun k => .event (.claimGrant c w k)) ++
    (List.range x.2.chits.length).flatMap fun k =>
      [.event (.chitStart c w k), .event (.chitStep c w k), .event (.chitComplete c w k)]

/-- Invalidations of a line that a write waits to change, and acknowledgements of its sharers. -/
def State.lineTurns (s : State) (line : Nat) : List Turn :=
  ((s.dirEnt line).l1.map fun x => .event (.l1Invalidation x.1 line)) ++
    (s.dirEnt line).tsh.map fun t => .event (.tinval t line)

/-- Turns of the memory system: stores and the writes that wait at their home perform, other copies are invalidated,
sharers acknowledge. -/
def State.memTurns (s : State) : List Turn :=
  ((List.range s.pend.length).flatMap fun k =>
    [.event (.writePerform k), .event (.pageTableStorePerform k)] ++ s.lineTurns (lineOf (s.pend.getD k {}).pa)) ++
  (List.range s.hostPend.length).flatMap fun k =>
    let x := s.hostPend.getD k {}
    .event (.writePerform (s.pend.length + k)) :: (linesOf x.pa x.data.length).flatMap s.lineTurns

/-- Turns of the front end. -/
def State.frontTurns (s : State) : List Turn :=
  [.event .wake, .event .dispatch, .waits] ++ (List.range s.dies.length).map .porter ++
    (List.range s.dies.length).map (fun d => .event (.drawGrant d)) ++
    s.grids.flatMap (fun x => [.event (.pitchPlace x.1), .event (.placeWaitExpiry x.1), .event (.scriptResume x.1)]) ++
    s.pitches.map (fun x => .event (.pitchFinish x.1.1 x.1.2)) ++
    s.fe.nodes.flatMap fun n => [.event (.poolAging n.nid), .event (.nodeComplete n.nid)]

/-- Every turn the state offers by itself; what comes from outside comes through the plan. -/
def State.turns (s : State) : List Turn :=
  s.frontTurns ++ s.seqs.flatMap seqTurns ++ s.groups.flatMap groupTurns ++ s.wgs.flatMap wgTurns ++ s.memTurns

/-- The turn of an empty plan. -/
def State.autoTurn (s : State) : Turn := s.turns.getD (s.clock % s.turns.length) (.event .wake)

/-- What still happens where a boot has stopped: a device reset, and what comes from the host: its snoops and requests
are answered, and its wakes are not accepted (R401, R429). -/
def Turn.outside : Turn → Bool
  | .event .deviceReset | .event (.hostSnoop _ _) | .event (.hostRequest _) | .event (.wakeWrite _ _ _ _) => true
  | _ => false

/-- The next turn and the state in which it runs; none where a boot has stopped and the turn is the machine's own (R429). -/
def State.nextTurn (s : State) : Option (Turn × State) :=
  let t := s.plan.headD s.autoTurn
  if s.trust.bootStopped && !t.outside then none
  else some (t, { s with plan := s.plan.tail, clock := s.clock + 1 })

/-! ### A word where the next step fetches it -/

/-- The level whose sequencer runs a control word here: the one its SCOPE names, the group stream where it may, else
the lowest level that may. -/
def levelFor (w : Nat) : Lvl :=
  let m := bits w 31 26
  let ls := majorLevels m
  let sc := bits w 25 23
  if 0x11 ≤ m ∧ m ≤ 0x14 ∧ 2 ≤ sc ∧ sc ≤ 4 then (if sc = 2 then .W else if sc = 3 then .P else .G)
  else if ls.contains .S then .S
  else if ls.contains .W then .W
  else ls.headD .S

/-- The agent of context 0 at a level. -/
def agentAt : Lvl → Agent
  | .G => .grid 0
  | .P => .pitch 0 0
  | .W => .wg 0 0
  | .S => .group 0 0 0
  | .H => .handler 0 0

/-- Address of the word, virtual and physical. -/
def wordAt : Nat := 0x10000

/-- Page tables that map the page of `wordAt` with R, W and X, in frames of virtual function 0 (R361, R362). -/
def State.mapWord (s : State) : State :=
  let s1 := (((s.writeMem 0x1000 (toBytes 8 0x2001)).writeMem 0x2000 (toBytes 8 0x3001)).writeMem 0x3000
    (toBytes 8 0x4001)).writeMem 0x4000 (toBytes 8 0x5001)
  let s2 := s1.writeMem 0x5080 (toBytes 8 (wordAt + 0x1F))
  { s2 with fe := { s2.fe with owner := cset 0 s2.fe.owner 0 1, troots := aput s2.fe.troots 0 (1, 1) } }

/-- A launch of one group on core (0, 0) of die 0, its sections at `wordAt`. -/
def State.oneGroup (s : State) : State :=
  let k : KObj := { base := [wordAt, wordAt, wordAt, wordAt, wordAt], len := [1024, 1024, 1024, 1024, 256], vregs := 128 }
  let w : WgId := ⟨0, 0⟩
  let s1 := (s.setGrid 0 { k := k, asid := 1 }).setPitch 0 0 { wgs := [0] }
  (s1.setWg w { started := true, htab := [(0, BitVec.ofNat 64 wordAt)] }).setGroup ⟨0, 0, 0⟩ {}

/-- Lay `k` bytes of a word out and let `a` run it next. -/
def State.placeWord (s : State) (a : Agent) (k n : Nat) : State :=
  let s1 := s.mapWord.oneGroup.writeMem wordAt (toBytes k n)
  let s2 : State := match a with
    | .lane _ _ _ f =>
      s1.modGroup ⟨0, 0, 0⟩ fun y => { y with
        blk := some {}, frags := [{ fid := f, lanes := 0xFFFFFFFF, pc := wordAt }], slots := [f], nextId := f + 1 }
    | .handler _ _ =>
      (s1.modWg ⟨0, 0⟩ fun x => { x with hrun := some (.group 0 0 0, false) }).setSeq a { pc := wordAt, run := .running }
    | a => s1.setSeq a { pc := wordAt, run := .running }
  { s2 with plan := [.word a] }

end Sys2Proof.Machine
end

