-- ==== Sys2Proof/Machine/Step.lean ====
section
/-!
DEFINITION. The step: the next turn of the schedule. It stops only where a boot has stopped (R429).
-/
namespace Sys2Proof.Machine

/-- One step of the machine. -/
def step (s : State) : Host.Outcome State Fault Refusal :=
  match s.nextTurn with
  | none => .fault .bootStopped
  | some (t, s1) => runTurn s1 t

/-- `s` with the instruction whose bits are `w` where the next step fetches it (log entry 16). -/
def State.withFetchWord (s : State) (nbits w : Nat) : State :=
  let n := w % 2 ^ nbits
  if nbits ≤ 32 then s.placeWord (agentAt (levelFor n)) 4 n else s.placeWord (.lane 0 0 0 0) 12 n

end Sys2Proof.Machine
end

