-- ==== Sys2Proof/Laws/PerInstr.lean ====
section
/-!
SUPPORT. For every instruction, as syntax: decoding its bytes gives it back (family RoundTrip). Events have no bytes.
-/
namespace Sys2Proof.Laws

open Sys2Proof

theorem length_toBytes (k n : Nat) : (toBytes k n).length = k := by
  induction k generalizing n with
  | zero => rfl
  | succ k ih => simp [toBytes, ih]

/-- Bytes and back. -/
theorem ofBytes_toBytes (k n : Nat) (h : n < 256 ^ k) : ofBytes (toBytes k n) = n := by
  induction k generalizing n with
  | zero => simp at h; simp [toBytes, ofBytes, h]
  | succ k ih =>
    have h2 : n / 256 < 256 ^ k := by rw [Nat.pow_succ] at h; omega
    simp only [toBytes, ofBytes, ih _ h2, BitVec.toNat_ofNat]
    omega

theorem fld_eq {n w lo : Nat} {d : BitVec n} (h : w / 2 ^ lo % 2 ^ n = d.toNat) : fld n w lo = d := by
  apply BitVec.eq_of_toNat_eq
  simp [fld, h]

/-- A control word decodes to the instruction whose row it selects. -/
theorem control_round {i : Instr} (h : laneCode i = none) (h0 : encodeControl i ≠ 0) (h1 : encodeControl i < 2 ^ 32)
    (hr : controlRow (encodeControl i) = some i) : decode (encode i) = .ok i := by
  simp only [encode, h, h0, if_false, decode, length_toBytes, if_true, ofBytes_toBytes 4 _ h1, decodeControl, hr, exactly]

theorem natBit_eq {n i : Nat} {b : Bool} (h : n / 2 ^ i % 2 = b.toNat) : natBit n i = b := by
  cases b <;> simp [natBit, h]

/-- Every field of a packed lane word is read back. -/
theorem unpack_pack (c o : Nat) (w : LaneW) (hc : c < 4) (ho : o < 256) :
    bits (packLane c o w) 31 30 = c ∧ bits (packLane c o w) 7 0 = o ∧ unpackLane (packLane c o w) = w ∧
      packLane c o w < 2 ^ 96 := by
  obtain ⟨va, vd, gneg, guard, la, mod, bsc, sat, rnd, fmt, ty, vc, vb, p2⟩ := w
  have := va.isLt; have := vd.isLt; have := guard.isLt; have := la.isLt; have := mod.isLt; have := rnd.isLt
  have := fmt.isLt; have := ty.isLt; have := vc.isLt; have := vb.isLt; have := p2.isLt
  have := gneg.toNat_lt; have := bsc.toNat_lt; have := sat.toNat_lt
  refine ⟨?_, ?_, ?_, ?_⟩
  · simp only [bits, packLane]; omega
  · simp only [bits, packLane]; omega
  · simp only [unpackLane, packLane, LaneW.mk.injEq]
    refine ⟨?_, ?_, ?_, ?_, ?_, ?_, ?_, ?_, ?_, ?_, ?_, ?_, ?_, ?_⟩ <;>
      first
      | (apply fld_eq; omega)
      | (apply natBit_eq; omega)
  · simp only [packLane]; omega

/-- A lane word decodes to the instruction whose row it selects. -/
theorem lane_round {i : Instr} {c o : Nat} {w : LaneW} (h : laneCode i = some (c, o, w)) (hc : c < 4) (ho : o < 256)
    (hr : laneRow c o w = some i) : decode (encode i) = .ok i := by
  obtain ⟨h1, h2, h3, h4⟩ := unpack_pack c o w hc ho
  have h5 : packLane c o w < 256 ^ 12 := h4
  simp only [encode, h, decode, length_toBytes, ofBytes_toBytes 12 _ h5, decodeLane, h1, h2, h3, hr]
  rfl

namespace RoundTrip

/-- Decoding the bytes of a well-formed instruction that has bytes gives the instruction. -/
def Statement (i : Instr) : Prop := i.wf = true → encode i ≠ [] → decode (encode i) = .ok i

/-- The two forms of ADRAIN are told apart by bit 0 of MOD. -/
theorem adrain_mod_adrainSp {w : LaneW} (h : (Instr.adrainSp w).wf = true) : w.mod.toNat % 2 = 0 := by
  have h' : (_ && _) = true := h
  simp at h'
  exact h'.2
theorem adrain_mod_adrainReg {w : LaneW} (h : (Instr.adrainReg w).wf = true) : w.mod.toNat % 2 = 1 := by
  have h' : (_ && _) = true := h
  simp at h'
  exact h'.2

theorem add (d : BitVec 6) (a : BitVec 6) (b : BitVec 6) : Statement (.add d a b) := by
  intro _ _
  have := d.isLt
  have := a.isLt
  have := b.isLt
  have he : encodeControl (.add d a b) = 0x04000000 + d.toNat * 0x100000 + a.toNat * 0x4000 + b.toNat * 0x100 := rfl
  apply control_round rfl <;> rw [he]
  · omega
  · omega
  · have h1 : bits (0x04000000 + d.toNat * 0x100000 + a.toNat * 0x4000 + b.toNat * 0x100) 31 26 = 0x01 := by simp only [bits]; omega
    have h2 : bits (0x04000000 + d.toNat * 0x100000 + a.toNat * 0x4000 + b.toNat * 0x100) 3 0 = 0 := by simp only [bits]; omega
    simp only [controlRow, h1, h2]
    congr 1; congr 1 <;> (apply fld_eq; omega)

theorem sub (d : BitVec 6) (a : BitVec 6) (b : BitVec 6) : Statement (.sub d a b) := by
  intro _ _
  have := d.isLt
  have := a.isLt
  have := b.isLt
  have he : encodeControl (.sub d a b) = 0x04000001 + d.toNat * 0x100000 + a.toNat * 0x4000 + b.toNat * 0x100 := rfl
  apply control_round rfl <;> rw [he]
  · omega
  · omega
  · have h1 : bits (0x04000001 + d.toNat * 0x100000 + a.toNat * 0x4000 + b.toNat * 0x100) 31 26 = 0x01 := by simp only [bits]; omega
    have h2 : bits (0x04000001 + d.toNat * 0x100000 + a.toNat * 0x4000 + b.toNat * 0x100) 3 0 = 1 := by simp only [bits]; omega
    simp only [controlRow, h1, h2]
    congr 1; congr 1 <;> (apply fld_eq; omega)

theorem mul (d : BitVec 6) (a : BitVec 6) (b : BitVec 6) : Statement (.mul d a b) := by
  intro _ _
  have := d.isLt
  have := a.isLt
  have := b.isLt
  have he : encodeControl (.mul d a b) = 0x04000002 + d.toNat * 0x100000 + a.toNat * 0x4000 + b.toNat * 0x100 := rfl
  apply control_round rfl <;> rw [he]
  · omega
  · omega
  · have h1 : bits (0x04000002 + d.toNat * 0x100000 + a.toNat * 0x4000 + b.toNat * 0x100) 31 26 = 0x01 := by simp only [bits]; omega
    have h2 : bits (0x04000002 + d.toNat * 0x100000 + a.toNat * 0x4000 + b.toNat * 0x100) 3 0 = 2 := by simp only [bits]; omega
    simp only [controlRow, h1, h2]
    congr 1; congr 1 <;> (apply fld_eq; omega)

theorem mulhI (d : BitVec 6) (a : BitVec 6) (b : BitVec 6) : Statement (.mulhI d a b) := by
  intro _ _
  have := d.isLt
  have := a.isLt
  have := b.isLt
  have he : encodeControl (.mulhI d a b) = 0x04000003 + d.toNat * 0x100000 + a.toNat * 0x4000 + b.toNat * 0x100 := rfl
  apply control_round rfl <;> rw [he]
  · omega
  · omega
  · have h1 : bits (0x04000003 + d.toNat * 0x100000 + a.toNat * 0x4000 + b.toNat * 0x100) 31 26 = 0x01 := by simp only [bits]; omega
    have h2 : bits (0x04000003 + d.toNat * 0x100000 + a.toNat * 0x4000 + b.toNat * 0x100) 3 0 = 3 := by simp only [bits]; omega
    simp only [controlRow, h1, h2]
    congr 1; congr 1 <;> (apply fld_eq; omega)

theorem mulhN (d : BitVec 6) (a : BitVec 6) (b : BitVec 6) : Statement (.mulhN d a b) := by
  intro _ _
  have := d.isLt
  have := a.isLt
  have := b.isLt
  have he : encodeControl (.mulhN d a b) = 0x04000004 + d.toNat * 0x100000 + a.toNat * 0x4000 + b.toNat * 0x100 := rfl
  apply control_round rfl <;> rw [he]
  · omega
  · omega
  · have h1 : bits (0x04000004 + d.toNat * 0x100000 + a.toNat * 0x4000 + b.toNat * 0x100) 31 26 = 0x01 := by simp only [bits]; omega
    have h2 : bits (0x04000004 + d.toNat * 0x100000 + a.toNat * 0x4000 + b.toNat * 0x100) 3 0 = 4 := by simp only [bits]; omega
    simp only [controlRow, h1, h2]
    congr 1; congr 1 <;> (apply fld_eq; omega)

theorem divI (d : BitVec 6) (a : BitVec 6) (b : BitVec 6) : Statement (.divI d a b) := by
  intro _ _
  have := d.isLt
  have := a.isLt
  have := b.isLt
  have he : encodeControl (.divI d a b) = 0x04000005 + d.toNat * 0x100000 + a.toNat * 0x4000 + b.toNat * 0x100 := rfl
  apply control_round rfl <;> rw [he]
  · omega
  · omega
  · have h1 : bits (0x04000005 + d.toNat * 0x100000 + a.toNat * 0x4000 + b.toNat * 0x100) 31 26 = 0x01 := by simp only [bits]; omega
    have h2 : bits (0x04000005 + d.toNat * 0x100000 + a.toNat * 0x4000 + b.toNat * 0x100) 3 0 = 5 := by simp only [bits]; omega
    simp only [controlRow, h1, h2]
    congr 1; congr 1 <;> (apply fld_eq; omega)

theorem divN (d : BitVec 6) (a : BitVec 6) (b : BitVec 6) : Statement (.divN d a b) := by
  intro _ _
  have := d.isLt
  have := a.isLt
  have := b.isLt
  have he : encodeControl (.divN d a b) = 0x04000006 + d.toNat * 0x100000 + a.toNat * 0x4000 + b.toNat * 0x100 := rfl
  apply control_round rfl <;> rw [he]
  · omega
  · omega
  · have h1 : bits (0x04000006 + d.toNat * 0x100000 + a.toNat * 0x4000 + b.toNat * 0x100) 31 26 = 0x01 := by simp only [bits]; omega
    have h2 : bits (0x04000006 + d.toNat * 0x100000 + a.toNat * 0x4000 + b.toNat * 0x100) 3 0 = 6 := by simp only [bits]; omega
    simp only [controlRow, h1, h2]
    congr 1; congr 1 <;> (apply fld_eq; omega)

theorem remI (d : BitVec 6) (a : BitVec 6) (b : BitVec 6) : Statement (.remI d a b) := by
  intro _ _
  have := d.isLt
  have := a.isLt
  have := b.isLt
  have he : encodeControl (.remI d a b) = 0x04000007 + d.toNat * 0x100000 + a.toNat * 0x4000 + b.toNat * 0x100 := rfl
  apply control_round rfl <;> rw [he]
  · omega
  · omega
  · have h1 : bits (0x04000007 + d.toNat * 0x100000 + a.toNat * 0x4000 + b.toNat * 0x100) 31 26 = 0x01 := by simp only [bits]; omega
    have h2 : bits (0x04000007 + d.toNat * 0x100000 + a.toNat * 0x4000 + b.toNat * 0x100) 3 0 = 7 := by simp only [bits]; omega
    simp only [controlRow, h1, h2]
    congr 1; congr 1 <;> (apply fld_eq; omega)

theorem remN (d : BitVec 6) (a : BitVec 6) (b : BitVec 6) : Statement (.remN d a b) := by
  intro _ _
  have := d.isLt
  have := a.isLt
  have := b.isLt
  have he : encodeControl (.remN d a b) = 0x04000008 + d.toNat * 0x100000 + a.toNat * 0x4000 + b.toNat * 0x100 := rfl
  apply control_round rfl <;> rw [he]
  · omega
  · omega
  · have h1 : bits (0x04000008 + d.toNat * 0x100000 + a.toNat * 0x4000 + b.toNat * 0x100) 31 26 = 0x01 := by simp only [bits]; omega
    have h2 : bits (0x04000008 + d.toNat * 0x100000 + a.toNat * 0x4000 + b.toNat * 0x100) 3 0 = 8 := by simp only [bits]; omega
    simp only [controlRow, h1, h2]
    congr 1; congr 1 <;> (apply fld_eq; omega)

theorem and (d : BitVec 6) (a : BitVec 6) (b : BitVec 6) : Statement (.and d a b) := by
  intro _ _
  have := d.isLt
  have := a.isLt
  have := b.isLt
  have he : encodeControl (.and d a b) = 0x04000009 + d.toNat * 0x100000 + a.toNat * 0x4000 + b.toNat * 0x100 := rfl
  apply control_round rfl <;> rw [he]
  · omega
  · omega
  · have h1 : bits (0x04000009 + d.toNat * 0x100000 + a.toNat * 0x4000 + b.toNat * 0x100) 31 26 = 0x01 := by simp only [bits]; omega
    have h2 : bits (0x04000009 + d.toNat * 0x100000 + a.toNat * 0x4000 + b.toNat * 0x100) 3 0 = 9 := by simp only [bits]; omega
    simp only [controlRow, h1, h2]
    congr 1; congr 1 <;> (apply fld_eq; omega)

theorem or (d : BitVec 6) (a : BitVec 6) (b : BitVec 6) : Statement (.or d a b) := by
  intro _ _
  have := d.isLt
  have := a.isLt
  have := b.isLt
  have he : encodeControl (.or d a b) = 0x0400000A + d.toNat * 0x100000 + a.toNat * 0x4000 + b.toNat * 0x100 := rfl
  apply control_round rfl <;> rw [he]
  · omega
  · omega
  · have h1 : bits (0x0400000A + d.toNat * 0x100000 + a.toNat * 0x4000 + b.toNat * 0x100) 31 26 = 0x01 := by simp only [bits]; omega
    have h2 : bits (0x0400000A + d.toNat * 0x100000 + a.toNat * 0x4000 + b.toNat * 0x100) 3 0 = 10 := by simp only [bits]; omega
    simp only [controlRow, h1, h2]
    congr 1; congr 1 <;> (apply fld_eq; omega)

theorem xor (d : BitVec 6) (a : BitVec 6) (b : BitVec 6) : Statement (.xor d a b) := by
  intro _ _
  have := d.isLt
  have := a.isLt
  have := b.isLt
  have he : encodeControl (.xor d a b) = 0x0400000B + d.toNat * 0x100000 + a.toNat * 0x4000 + b.toNat * 0x100 := rfl
  apply control_round rfl <;> rw [he]
  · omega
  · omega
  · have h1 : bits (0x0400000B + d.toNat * 0x100000 + a.toNat * 0x4000 + b.toNat * 0x100) 31 26 = 0x01 := by simp only [bits]; omega
    have h2 : bits (0x0400000B + d.toNat * 0x100000 + a.toNat * 0x4000 + b.toNat * 0x100) 3 0 = 11 := by simp only [bits]; omega
    simp only [controlRow, h1, h2]
    congr 1; congr 1 <;> (apply fld_eq; omega)

theorem shl (d : BitVec 6) (a : BitVec 6) (b : BitVec 6) : Statement (.shl d a b) := by
  intro _ _
  have := d.isLt
  have := a.isLt
  have := b.isLt
  have he : encodeControl (.shl d a b) = 0x0400000C + d.toNat * 0x100000 + a.toNat * 0x4000 + b.toNat * 0x100 := rfl
  apply control_round rfl <;> rw [he]
  · omega
  · omega
  · have h1 : bits (0x0400000C + d.toNat * 0x100000 + a.toNat * 0x4000 + b.toNat * 0x100) 31 26 = 0x01 := by simp only [bits]; omega
    have h2 : bits (0x0400000C + d.toNat * 0x100000 + a.toNat * 0x4000 + b.toNat * 0x100) 3 0 = 12 := by simp only [bits]; omega
    simp only [controlRow, h1, h2]
    congr 1; congr 1 <;> (apply fld_eq; omega)

theorem shr (d : BitVec 6) (a : BitVec 6) (b : BitVec 6) : Statement (.shr d a b) := by
  intro _ _
  have := d.isLt
  have := a.isLt
  have := b.isLt
  have he : encodeControl (.shr d a b) = 0x0400000D + d.toNat * 0x100000 + a.toNat * 0x4000 + b.toNat * 0x100 := rfl
  apply control_round rfl <;> rw [he]
  · omega
  · omega
  · have h1 : bits (0x0400000D + d.toNat * 0x100000 + a.toNat * 0x4000 + b.toNat * 0x100) 31 26 = 0x01 := by simp only [bits]; omega
    have h2 : bits (0x0400000D + d.toNat * 0x100000 + a.toNat * 0x4000 + b.toNat * 0x100) 3 0 = 13 := by simp only [bits]; omega
    simp only [controlRow, h1, h2]
    congr 1; congr 1 <;> (apply fld_eq; omega)

theorem sar (d : BitVec 6) (a : BitVec 6) (b : BitVec 6) : Statement (.sar d a b) := by
  intro _ _
  have := d.isLt
  have := a.isLt
  have := b.isLt
  have he : encodeControl (.sar d a b) = 0x0400000E + d.toNat * 0x100000 + a.toNat * 0x4000 + b.toNat * 0x100 := rfl
  apply control_round rfl <;> rw [he]
  · omega
  · omega
  · have h1 : bits (0x0400000E + d.toNat * 0x100000 + a.toNat * 0x4000 + b.toNat * 0x100) 31 26 = 0x01 := by simp only [bits]; omega
    have h2 : bits (0x0400000E + d.toNat * 0x100000 + a.toNat * 0x4000 + b.toNat * 0x100) 3 0 = 14 := by simp only [bits]; omega
    simp only [controlRow, h1, h2]
    congr 1; congr 1 <;> (apply fld_eq; omega)

theorem mov (d : BitVec 6) (a : BitVec 6) : Statement (.mov d a) := by
  intro _ _
  have := d.isLt
  have := a.isLt
  have he : encodeControl (.mov d a) = 0x0400000F + d.toNat * 0x100000 + a.toNat * 0x4000 := rfl
  apply control_round rfl <;> rw [he]
  · omega
  · omega
  · have h1 : bits (0x0400000F + d.toNat * 0x100000 + a.toNat * 0x4000) 31 26 = 0x01 := by simp only [bits]; omega
    have h2 : bits (0x0400000F + d.toNat * 0x100000 + a.toNat * 0x4000) 3 0 = 15 := by simp only [bits]; omega
    simp only [controlRow, h1, h2]
    congr 1; congr 1 <;> (apply fld_eq; omega)

theorem minI (d : BitVec 6) (a : BitVec 6) (b : BitVec 6) : Statement (.minI d a b) := by
  intro _ _
  have := d.isLt
  have := a.isLt
  have := b.isLt
  have he : encodeControl (.minI d a b) = 0x08000000 + d.toNat * 0x100000 + a.toNat * 0x4000 + b.toNat * 0x100 := rfl
  apply control_round rfl <;> rw [he]
  · omega
  · omega
  · have h1 : bits (0x08000000 + d.toNat * 0x100000 + a.toNat * 0x4000 + b.toNat * 0x100) 31 26 = 0x02 := by simp only [bits]; omega
    have h2 : bits (0x08000000 + d.toNat * 0x100000 + a.toNat * 0x4000 + b.toNat * 0x100) 3 0 = 0 := by simp only [bits]; omega
    simp only [controlRow, h1, h2]
    congr 1; congr 1 <;> (apply fld_eq; omega)

theorem minN (d : BitVec 6) (a : BitVec 6) (b : BitVec 6) : Statement (.minN d a b) := by
  intro _ _
  have := d.isLt
  have := a.isLt
  have := b.isLt
  have he : encodeControl (.minN d a b) = 0x08000001 + d.toNat * 0x100000 + a.toNat * 0x4000 + b.toNat * 0x100 := rfl
  apply control_round rfl <;> rw [he]
  · omega
  · omega
  · have h1 : bits (0x08000001 + d.toNat * 0x100000 + a.toNat * 0x4000 + b.toNat * 0x100) 31 26 = 0x02 := by simp only [bits]; omega
    have h2 : bits (0x08000001 + d.toNat * 0x100000 + a.toNat * 0x4000 + b.toNat * 0x100) 3 0 = 1 := by simp only [bits]; omega
    simp only [controlRow, h1, h2]
    congr 1; congr 1 <;> (apply fld_eq; omega)

theorem maxI (d : BitVec 6) (a : BitVec 6) (b : BitVec 6) : Statement (.maxI d a b) := by
  intro _ _
  have := d.isLt
  have := a.isLt
  have := b.isLt
  have he : encodeControl (.maxI d a b) = 0x08000002 + d.toNat * 0x100000 + a.toNat * 0x4000 + b.toNat * 0x100 := rfl
  apply control_round rfl <;> rw [he]
  · omega
  · omega
  · have h1 : bits (0x08000002 + d.toNat * 0x100000 + a.toNat * 0x4000 + b.toNat * 0x100) 31 26 = 0x02 := by simp only [bits]; omega
    have h2 : bits (0x08000002 + d.toNat * 0x100000 + a.toNat * 0x4000 + b.toNat * 0x100) 3 0 = 2 := by simp only [bits]; omega
    simp only [controlRow, h1, h2]
    congr 1; congr 1 <;> (apply fld_eq; omega)

theorem maxN (d : BitVec 6) (a : BitVec 6) (b : BitVec 6) : Statement (.maxN d a b) := by
  intro _ _
  have := d.isLt
  have := a.isLt
  have := b.isLt
  have he : encodeControl (.maxN d a b) = 0x08000003 + d.toNat * 0x100000 + a.toNat * 0x4000 + b.toNat * 0x100 := rfl
  apply control_round rfl <;> rw [he]
  · omega
  · omega
  · have h1 : bits (0x08000003 + d.toNat * 0x100000 + a.toNat * 0x4000 + b.toNat * 0x100) 31 26 = 0x02 := by simp only [bits]; omega
    have h2 : bits (0x08000003 + d.toNat * 0x100000 + a.toNat * 0x4000 + b.toNat * 0x100) 3 0 = 3 := by simp only [bits]; omega
    simp only [controlRow, h1, h2]
    congr 1; congr 1 <;> (apply fld_eq; omega)

theorem cmpI (d : BitVec 6) (a : BitVec 6) (b : BitVec 6) (cc : BitVec 3) : Statement (.cmpI d a b cc) := by
  intro _ _
  have := d.isLt
  have := a.isLt
  have := b.isLt
  have := cc.isLt
  have he : encodeControl (.cmpI d a b cc) = 0x0C000000 + d.toNat * 0x100000 + a.toNat * 0x4000 + b.toNat * 0x100 + cc.toNat := rfl
  apply control_round rfl <;> rw [he]
  · omega
  · omega
  · have h1 : bits (0x0C000000 + d.toNat * 0x100000 + a.toNat * 0x4000 + b.toNat * 0x100 + cc.toNat) 31 26 = 0x03 := by simp only [bits]; omega
    have h2 : bits (0x0C000000 + d.toNat * 0x100000 + a.toNat * 0x4000 + b.toNat * 0x100 + cc.toNat) 3 3 = 0 := by simp only [bits]; omega
    simp only [controlRow, h1, h2]
    congr 1; congr 1 <;> (apply fld_eq; omega)

theorem cmpN (d : BitVec 6) (a : BitVec 6) (b : BitVec 6) (cc : BitVec 3) : Statement (.cmpN d a b cc) := by
  intro _ _
  have := d.isLt
  have := a.isLt
  have := b.isLt
  have := cc.isLt
  have he : encodeControl (.cmpN d a b cc) = 0x0C000008 + d.toNat * 0x100000 + a.toNat * 0x4000 + b.toNat * 0x100 + cc.toNat := rfl
  apply control_round rfl <;> rw [he]
  · omega
  · omega
  · have h1 : bits (0x0C000008 + d.toNat * 0x100000 + a.toNat * 0x4000 + b.toNat * 0x100 + cc.toNat) 31 26 = 0x03 := by simp only [bits]; omega
    have h2 : bits (0x0C000008 + d.toNat * 0x100000 + a.toNat * 0x4000 + b.toNat * 0x100 + cc.toNat) 3 3 = 1 := by simp only [bits]; omega
    simp only [controlRow, h1, h2]
    congr 1; congr 1 <;> (apply fld_eq; omega)

theorem sel (d : BitVec 6) (c : BitVec 6) (a : BitVec 6) (b : BitVec 6) : Statement (.sel d c a b) := by
  intro _ _
  have := d.isLt
  have := c.isLt
  have := a.isLt
  have := b.isLt
  have he : encodeControl (.sel d c a b) = 0x10000000 + d.toNat * 0x100000 + c.toNat * 0x4000 + a.toNat * 0x100 + b.toNat * 0x4 := rfl
  apply control_round rfl <;> rw [he]
  · omega
  · omega
  · have h1 : bits (0x10000000 + d.toNat * 0x100000 + c.toNat * 0x4000 + a.toNat * 0x100 + b.toNat * 0x4) 31 26 = 0x04 := by simp only [bits]; omega
    simp only [controlRow, h1]
    congr 1; congr 1 <;> (apply fld_eq; omega)

theorem addi (d : BitVec 6) (a : BitVec 6) (imm : BitVec 14) : Statement (.addi d a imm) := by
  intro _ _
  have := d.isLt
  have := a.isLt
  have := imm.isLt
  have he : encodeControl (.addi d a imm) = 0x14000000 + d.toNat * 0x100000 + a.toNat * 0x4000 + imm.toNat := rfl
  apply control_round rfl <;> rw [he]
  · omega
  · omega
  · have h1 : bits (0x14000000 + d.toNat * 0x100000 + a.toNat * 0x4000 + imm.toNat) 31 26 = 0x05 := by simp only [bits]; omega
    simp only [controlRow, h1]
    congr 1; congr 1 <;> (apply fld_eq; omega)

theorem andi (d : BitVec 6) (a : BitVec 6) (imm : BitVec 14) : Statement (.andi d a imm) := by
  intro _ _
  have := d.isLt
  have := a.isLt
  have := imm.isLt
  have he : encodeControl (.andi d a imm) = 0x18000000 + d.toNat * 0x100000 + a.toNat * 0x4000 + imm.toNat := rfl
  apply control_round rfl <;> rw [he]
  · omega
  · omega
  · have h1 : bits (0x18000000 + d.toNat * 0x100000 + a.toNat * 0x4000 + imm.toNat) 31 26 = 0x06 := by simp only [bits]; omega
    simp only [controlRow, h1]
    congr 1; congr 1 <;> (apply fld_eq; omega)

theorem ori (d : BitVec 6) (a : BitVec 6) (imm : BitVec 14) : Statement (.ori d a imm) := by
  intro _ _
  have := d.isLt
  have := a.isLt
  have := imm.isLt
  have he : encodeControl (.ori d a imm) = 0x1C000000 + d.toNat * 0x100000 + a.toNat * 0x4000 + imm.toNat := rfl
  apply control_round rfl <;> rw [he]
  · omega
  · omega
  · have h1 : bits (0x1C000000 + d.toNat * 0x100000 + a.toNat * 0x4000 + imm.toNat) 31 26 = 0x07 := by simp only [bits]; omega
    simp only [controlRow, h1]
    congr 1; congr 1 <;> (apply fld_eq; omega)

theorem xori (d : BitVec 6) (a : BitVec 6) (imm : BitVec 14) : Statement (.xori d a imm) := by
  intro _ _
  have := d.isLt
  have := a.isLt
  have := imm.isLt
  have he : encodeControl (.xori d a imm) = 0x20000000 + d.toNat * 0x100000 + a.toNat * 0x4000 + imm.toNat := rfl
  apply control_round rfl <;> rw [he]
  · omega
  · omega
  · have h1 : bits (0x20000000 + d.toNat * 0x100000 + a.toNat * 0x4000 + imm.toNat) 31 26 = 0x08 := by simp only [bits]; omega
    simp only [controlRow, h1]
    congr 1; congr 1 <;> (apply fld_eq; omega)

theorem shli (d : BitVec 6) (a : BitVec 6) (imm : BitVec 14) : Statement (.shli d a imm) := by
  intro _ _
  have := d.isLt
  have := a.isLt
  have := imm.isLt
  have he : encodeControl (.shli d a imm) = 0x24000000 + d.toNat * 0x100000 + a.toNat * 0x4000 + imm.toNat := rfl
  apply control_round rfl <;> rw [he]
  · omega
  · omega
  · have h1 : bits (0x24000000 + d.toNat * 0x100000 + a.toNat * 0x4000 + imm.toNat) 31 26 = 0x09 := by simp only [bits]; omega
    simp only [controlRow, h1]
    congr 1; congr 1 <;> (apply fld_eq; omega)

theorem shri (d : BitVec 6) (a : BitVec 6) (imm : BitVec 14) : Statement (.shri d a imm) := by
  intro _ _
  have := d.isLt
  have := a.isLt
  have := imm.isLt
  have he : encodeControl (.shri d a imm) = 0x28000000 + d.toNat * 0x100000 + a.toNat * 0x4000 + imm.toNat := rfl
  apply control_round rfl <;> rw [he]
  · omega
  · omega
  · have h1 : bits (0x28000000 + d.toNat * 0x100000 + a.toNat * 0x4000 + imm.toNat) 31 26 = 0x0A := by simp only [bits]; omega
    simp only [controlRow, h1]
    congr 1; congr 1 <;> (apply fld_eq; omega)

theorem sari (d : BitVec 6) (a : BitVec 6) (imm : BitVec 14) : Statement (.sari d a imm) := by
  intro _ _
  have := d.isLt
  have := a.isLt
  have := imm.isLt
  have he : encodeControl (.sari d a imm) = 0x2C000000 + d.toNat * 0x100000 + a.toNat * 0x4000 + imm.toNat := rfl
  apply control_round rfl <;> rw [he]
  · omega
  · omega
  · have h1 : bits (0x2C000000 + d.toNat * 0x100000 + a.toNat * 0x4000 + imm.toNat) 31 26 = 0x0B := by simp only [bits]; omega
    simp only [controlRow, h1]
    congr 1; congr 1 <;> (apply fld_eq; omega)

theorem movi (d : BitVec 6) (imm : BitVec 20) : Statement (.movi d imm) := by
  intro _ _
  have := d.isLt
  have := imm.isLt
  have he : encodeControl (.movi d imm) = 0x30000000 + d.toNat * 0x100000 + imm.toNat := rfl
  apply control_round rfl <;> rw [he]
  · omega
  · omega
  · have h1 : bits (0x30000000 + d.toNat * 0x100000 + imm.toNat) 31 26 = 0x0C := by simp only [bits]; omega
    simp only [controlRow, h1]
    congr 1; congr 1 <;> (apply fld_eq; omega)

theorem movh (d : BitVec 6) (imm : BitVec 20) : Statement (.movh d imm) := by
  intro _ _
  have := d.isLt
  have := imm.isLt
  have he : encodeControl (.movh d imm) = 0x34000000 + d.toNat * 0x100000 + imm.toNat := rfl
  apply control_round rfl <;> rw [he]
  · omega
  · omega
  · have h1 : bits (0x34000000 + d.toNat * 0x100000 + imm.toNat) 31 26 = 0x0D := by simp only [bits]; omega
    simp only [controlRow, h1]
    congr 1; congr 1 <;> (apply fld_eq; omega)

theorem ldk (d : BitVec 6) (k : BitVec 20) : Statement (.ldk d k) := by
  intro _ _
  have := d.isLt
  have := k.isLt
  have he : encodeControl (.ldk d k) = 0x38000000 + d.toNat * 0x100000 + k.toNat := rfl
  apply control_round rfl <;> rw [he]
  · omega
  · omega
  · have h1 : bits (0x38000000 + d.toNat * 0x100000 + k.toNat) 31 26 = 0x0E := by simp only [bits]; omega
    simp only [controlRow, h1]
    congr 1; congr 1 <;> (apply fld_eq; omega)

theorem rdsr (d : BitVec 6) (n : BitVec 10) : Statement (.rdsr d n) := by
  intro _ _
  have := d.isLt
  have := n.isLt
  have he : encodeControl (.rdsr d n) = 0x3C000000 + d.toNat * 0x100000 + n.toNat := rfl
  apply control_round rfl <;> rw [he]
  · omega
  · omega
  · have h1 : bits (0x3C000000 + d.toNat * 0x100000 + n.toNat) 31 26 = 0x0F := by simp only [bits]; omega
    simp only [controlRow, h1]
    congr 1; congr 1 <;> (apply fld_eq; omega)

theorem wrsr (d : BitVec 6) (n : BitVec 10) : Statement (.wrsr d n) := by
  intro _ _
  have := d.isLt
  have := n.isLt
  have he : encodeControl (.wrsr d n) = 0x40000000 + d.toNat * 0x100000 + n.toNat := rfl
  apply control_round rfl <;> rw [he]
  · omega
  · omega
  · have h1 : bits (0x40000000 + d.toNat * 0x100000 + n.toNat) 31 26 = 0x10 := by simp only [bits]; omega
    simp only [controlRow, h1]
    congr 1; congr 1 <;> (apply fld_eq; omega)

theorem br (sc : BitVec 3) (off : BitVec 14) : Statement (.br sc off) := by
  intro _ _
  have := sc.isLt
  have := off.isLt
  have he : encodeControl (.br sc off) = 0x44000000 + sc.toNat * 0x800000 + off.toNat := rfl
  apply control_round rfl <;> rw [he]
  · omega
  · omega
  · have h1 : bits (0x44000000 + sc.toNat * 0x800000 + off.toNat) 31 26 = 0x11 := by simp only [bits]; omega
    have h2 : bits (0x44000000 + sc.toNat * 0x800000 + off.toNat) 22 20 = 0 := by simp only [bits]; omega
    simp only [controlRow, h1, h2]
    congr 1; congr 1 <;> (apply fld_eq; omega)

theorem bz (sc : BitVec 3) (a : BitVec 6) (off : BitVec 14) : Statement (.bz sc a off) := by
  intro _ _
  have := sc.isLt
  have := a.isLt
  have := off.isLt
  have he : encodeControl (.bz sc a off) = 0x44100000 + sc.toNat * 0x800000 + a.toNat * 0x4000 + off.toNat := rfl
  apply control_round rfl <;> rw [he]
  · omega
  · omega
  · have h1 : bits (0x44100000 + sc.toNat * 0x800000 + a.toNat * 0x4000 + off.toNat) 31 26 = 0x11 := by simp only [bits]; omega
    have h2 : bits (0x44100000 + sc.toNat * 0x800000 + a.toNat * 0x4000 + off.toNat) 22 20 = 1 := by simp only [bits]; omega
    simp only [controlRow, h1, h2]
    congr 1; congr 1 <;> (apply fld_eq; omega)

theorem bnz (sc : BitVec 3) (a : BitVec 6) (off : BitVec 14) : Statement (.bnz sc a off) := by
  intro _ _
  have := sc.isLt
  have := a.isLt
  have := off.isLt
  have he : encodeControl (.bnz sc a off) = 0x44200000 + sc.toNat * 0x800000 + a.toNat * 0x4000 + off.toNat := rfl
  apply control_round rfl <;> rw [he]
  · omega
  · omega
  · have h1 : bits (0x44200000 + sc.toNat * 0x800000 + a.toNat * 0x4000 + off.toNat) 31 26 = 0x11 := by simp only [bits]; omega
    have h2 : bits (0x44200000 + sc.toNat * 0x800000 + a.toNat * 0x4000 + off.toNat) 22 20 = 2 := by simp only [bits]; omega
    simp only [controlRow, h1, h2]
    congr 1; congr 1 <;> (apply fld_eq; omega)

theorem call (sc : BitVec 3) (off : BitVec 14) : Statement (.call sc off) := by
  intro _ _
  have := sc.isLt
  have := off.isLt
  have he : encodeControl (.call sc off) = 0x44300000 + sc.toNat * 0x800000 + off.toNat := rfl
  apply control_round rfl <;> rw [he]
  · omega
  · omega
  · have h1 : bits (0x44300000 + sc.toNat * 0x800000 + off.toNat) 31 26 = 0x11 := by simp only [bits]; omega
    have h2 : bits (0x44300000 + sc.toNat * 0x800000 + off.toNat) 22 20 = 3 := by simp only [bits]; omega
    simp only [controlRow, h1, h2]
    congr 1; congr 1 <;> (apply fld_eq; omega)

theorem callReg (sc : BitVec 3) (a : BitVec 6) : Statement (.callReg sc a) := by
  intro _ _
  have := sc.isLt
  have := a.isLt
  have he : encodeControl (.callReg sc a) = 0x44400000 + sc.toNat * 0x800000 + a.toNat * 0x4000 := rfl
  apply control_round rfl <;> rw [he]
  · omega
  · omega
  · have h1 : bits (0x44400000 + sc.toNat * 0x800000 + a.toNat * 0x4000) 31 26 = 0x11 := by simp only [bits]; omega
    have h2 : bits (0x44400000 + sc.toNat * 0x800000 + a.toNat * 0x4000) 22 20 = 4 := by simp only [bits]; omega
    simp only [controlRow, h1, h2]
    congr 1; congr 1 <;> (apply fld_eq; omega)

theorem ret (sc : BitVec 3) : Statement (.ret sc) := by
  intro _ _
  have := sc.isLt
  have he : encodeControl (.ret sc) = 0x44500000 + sc.toNat * 0x800000 := rfl
  apply control_round rfl <;> rw [he]
  · omega
  · omega
  · have h1 : bits (0x44500000 + sc.toNat * 0x800000) 31 26 = 0x11 := by simp only [bits]; omega
    have h2 : bits (0x44500000 + sc.toNat * 0x800000) 22 20 = 5 := by simp only [bits]; omega
    simp only [controlRow, h1, h2]
    congr 1; congr 1; exact fld_eq (by omega)

theorem loop (sc : BitVec 3) (n : BitVec 3) (a : BitVec 6) : Statement (.loop sc n a) := by
  intro _ _
  have := sc.isLt
  have := n.isLt
  have := a.isLt
  have he : encodeControl (.loop sc n a) = 0x48000000 + sc.toNat * 0x800000 + n.toNat * 0x100000 + a.toNat * 0x4000 := rfl
  apply control_round rfl <;> rw [he]
  · omega
  · omega
  · have h1 : bits (0x48000000 + sc.toNat * 0x800000 + n.toNat * 0x100000 + a.toNat * 0x4000) 31 26 = 0x12 := by simp only [bits]; omega
    simp only [controlRow, h1]
    congr 1; congr 1 <;> (apply fld_eq; omega)

theorem loopi (sc : BitVec 3) (n : BitVec 3) (t : BitVec 9) : Statement (.loopi sc n t) := by
  intro _ _
  have := sc.isLt
  have := n.isLt
  have := t.isLt
  have he : encodeControl (.loopi sc n t) = 0x4C000000 + sc.toNat * 0x800000 + n.toNat * 0x100000 + t.toNat := rfl
  apply control_round rfl <;> rw [he]
  · omega
  · omega
  · have h1 : bits (0x4C000000 + sc.toNat * 0x800000 + n.toNat * 0x100000 + t.toNat) 31 26 = 0x13 := by simp only [bits]; omega
    simp only [controlRow, h1]
    congr 1; congr 1 <;> (apply fld_eq; omega)

theorem next (sc : BitVec 3) (n : BitVec 3) (off : BitVec 14) : Statement (.next sc n off) := by
  intro _ _
  have := sc.isLt
  have := n.isLt
  have := off.isLt
  have he : encodeControl (.next sc n off) = 0x50000000 + sc.toNat * 0x800000 + n.toNat * 0x100000 + off.toNat := rfl
  apply control_round rfl <;> rw [he]
  · omega
  · omega
  · have h1 : bits (0x50000000 + sc.toNat * 0x800000 + n.toNat * 0x100000 + off.toNat) 31 26 = 0x14 := by simp only [bits]; omega
    simp only [controlRow, h1]
    congr 1; congr 1 <;> (apply fld_eq; omega)

theorem down (off : BitVec 13) : Statement (.down off) := by
  intro _ _
  have := off.isLt
  have he : encodeControl (.down off) = 0x54000000 + off.toNat := rfl
  apply control_round rfl <;> rw [he]
  · omega
  · omega
  · have h1 : bits (0x54000000 + off.toNat) 31 26 = 0x15 := by simp only [bits]; omega
    have h2 : bits (0x54000000 + off.toNat) 13 13 = 0 := by simp only [bits]; omega
    simp only [controlRow, h1, h2]
    congr 1; congr 1; exact fld_eq (by omega)

theorem downReg (r : BitVec 6) : Statement (.downReg r) := by
  intro _ _
  have := r.isLt
  have he : encodeControl (.downReg r) = 0x54002000 + r.toNat * 0x80 := rfl
  apply control_round rfl <;> rw [he]
  · omega
  · omega
  · have h1 : bits (0x54002000 + r.toNat * 0x80) 31 26 = 0x15 := by simp only [bits]; omega
    have h2 : bits (0x54002000 + r.toNat * 0x80) 13 13 = 1 := by simp only [bits]; omega
    simp only [controlRow, h1, h2]
    congr 1; congr 1; exact fld_eq (by omega)

theorem downv (a : BitVec 6) (b : BitVec 6) (off : BitVec 13) : Statement (.downv a b off) := by
  intro _ _
  have := a.isLt
  have := b.isLt
  have := off.isLt
  have he : encodeControl (.downv a b off) = 0x58000000 + a.toNat * 0x100000 + b.toNat * 0x4000 + off.toNat := rfl
  apply control_round rfl <;> rw [he]
  · omega
  · omega
  · have h1 : bits (0x58000000 + a.toNat * 0x100000 + b.toNat * 0x4000 + off.toNat) 31 26 = 0x16 := by simp only [bits]; omega
    have h2 : bits (0x58000000 + a.toNat * 0x100000 + b.toNat * 0x4000 + off.toNat) 13 13 = 0 := by simp only [bits]; omega
    simp only [controlRow, h1, h2]
    congr 1; congr 1 <;> (apply fld_eq; omega)

theorem downvReg (a : BitVec 6) (b : BitVec 6) (r : BitVec 6) : Statement (.downvReg a b r) := by
  intro _ _
  have := a.isLt
  have := b.isLt
  have := r.isLt
  have he : encodeControl (.downvReg a b r) = 0x58002000 + a.toNat * 0x100000 + b.toNat * 0x4000 + r.toNat * 0x80 := rfl
  apply control_round rfl <;> rw [he]
  · omega
  · omega
  · have h1 : bits (0x58002000 + a.toNat * 0x100000 + b.toNat * 0x4000 + r.toNat * 0x80) 31 26 = 0x16 := by simp only [bits]; omega
    have h2 : bits (0x58002000 + a.toNat * 0x100000 + b.toNat * 0x4000 + r.toNat * 0x80) 13 13 = 1 := by simp only [bits]; omega
    simp only [controlRow, h1, h2]
    congr 1; congr 1 <;> (apply fld_eq; omega)

theorem raise (n : BitVec 2) (a : BitVec 6) (la : BitVec 4) (fn : BitVec 3) : Statement (.raise n a la fn) := by
  intro _ _
  have := n.isLt
  have := a.isLt
  have := la.isLt
  have := fn.isLt
  have he : encodeControl (.raise n a la fn) = 0x64000000 + n.toNat * 0x100000 + a.toNat * 0x4000 + la.toNat * 0x10 + fn.toNat := rfl
  apply control_round rfl <;> rw [he]
  · omega
  · omega
  · have h1 : bits (0x64000000 + n.toNat * 0x100000 + a.toNat * 0x4000 + la.toNat * 0x10 + fn.toNat) 31 26 = 0x19 := by simp only [bits]; omega
    simp only [controlRow, h1]
    congr 1; congr 1 <;> (apply fld_eq; omega)

theorem await (d : BitVec 6) (n : BitVec 2) (la : BitVec 4) : Statement (.await d n la) := by
  intro _ _
  have := d.isLt
  have := n.isLt
  have := la.isLt
  have he : encodeControl (.await d n la) = 0x68000000 + d.toNat * 0x100000 + n.toNat * 0x4000 + la.toNat * 0x10 := rfl
  apply control_round rfl <;> rw [he]
  · omega
  · omega
  · have h1 : bits (0x68000000 + d.toNat * 0x100000 + n.toNat * 0x4000 + la.toNat * 0x10) 31 26 = 0x1A := by simp only [bits]; omega
    simp only [controlRow, h1]
    congr 1; congr 1 <;> (apply fld_eq; omega)

theorem bar (sc : BitVec 3) : Statement (.bar sc) := by
  intro _ _
  have := sc.isLt
  have he : encodeControl (.bar sc) = 0x6C000000 + sc.toNat * 0x800000 := rfl
  apply control_round rfl <;> rw [he]
  · omega
  · omega
  · have h1 : bits (0x6C000000 + sc.toNat * 0x800000) 31 26 = 0x1B := by simp only [bits]; omega
    simp only [controlRow, h1]
    congr 1; congr 1; exact fld_eq (by omega)

theorem signalSet (a : BitVec 6) (b : BitVec 6) (sc : BitVec 3) : Statement (.signalSet a b sc) := by
  intro _ _
  have := a.isLt
  have := b.isLt
  have := sc.isLt
  have he : encodeControl (.signalSet a b sc) = 0x70000000 + a.toNat * 0x4000 + b.toNat * 0x100 + sc.toNat := rfl
  apply control_round rfl <;> rw [he]
  · omega
  · omega
  · have h1 : bits (0x70000000 + a.toNat * 0x4000 + b.toNat * 0x100 + sc.toNat) 31 26 = 0x1C := by simp only [bits]; omega
    have h2 : bits (0x70000000 + a.toNat * 0x4000 + b.toNat * 0x100 + sc.toNat) 3 3 = 0 := by simp only [bits]; omega
    simp only [controlRow, h1, h2]
    congr 1; congr 1 <;> (apply fld_eq; omega)

theorem signalAdd (a : BitVec 6) (b : BitVec 6) (sc : BitVec 3) : Statement (.signalAdd a b sc) := by
  intro _ _
  have := a.isLt
  have := b.isLt
  have := sc.isLt
  have he : encodeControl (.signalAdd a b sc) = 0x70000008 + a.toNat * 0x4000 + b.toNat * 0x100 + sc.toNat := rfl
  apply control_round rfl <;> rw [he]
  · omega
  · omega
  · have h1 : bits (0x70000008 + a.toNat * 0x4000 + b.toNat * 0x100 + sc.toNat) 31 26 = 0x1C := by simp only [bits]; omega
    have h2 : bits (0x70000008 + a.toNat * 0x4000 + b.toNat * 0x100 + sc.toNat) 3 3 = 1 := by simp only [bits]; omega
    simp only [controlRow, h1, h2]
    congr 1; congr 1 <;> (apply fld_eq; omega)

theorem trap (imm : BitVec 20) : Statement (.trap imm) := by
  intro _ _
  have := imm.isLt
  have he : encodeControl (.trap imm) = 0x80000000 + imm.toNat := rfl
  apply control_round rfl <;> rw [he]
  · omega
  · omega
  · have h1 : bits (0x80000000 + imm.toNat) 31 26 = 0x20 := by simp only [bits]; omega
    simp only [controlRow, h1]
    congr 1; congr 1; exact fld_eq (by omega)

theorem icp (sec : BitVec 3) (a : BitVec 6) (n : BitVec 8) : Statement (.icp sec a n) := by
  intro _ _
  have := sec.isLt
  have := a.isLt
  have := n.isLt
  have he : encodeControl (.icp sec a n) = 0x84000000 + sec.toNat * 0x800000 + a.toNat * 0x4000 + n.toNat := rfl
  apply control_round rfl <;> rw [he]
  · omega
  · omega
  · have h1 : bits (0x84000000 + sec.toNat * 0x800000 + a.toNat * 0x4000 + n.toNat) 31 26 = 0x21 := by simp only [bits]; omega
    simp only [controlRow, h1]
    congr 1; congr 1 <;> (apply fld_eq; omega)

theorem run (off : BitVec 26) : Statement (.run off) := by
  intro _ _
  have := off.isLt
  have he : encodeControl (.run off) = 0x88000000 + off.toNat := rfl
  apply control_round rfl <;> rw [he]
  · omega
  · omega
  · have h1 : bits (0x88000000 + off.toNat) 31 26 = 0x22 := by simp only [bits]; omega
    simp only [controlRow, h1]
    congr 1; congr 1; exact fld_eq (by omega)

theorem bind (n : BitVec 3) (a : BitVec 6) : Statement (.bind n a) := by
  intro _ _
  have := n.isLt
  have := a.isLt
  have he : encodeControl (.bind n a) = 0x8C000000 + n.toNat * 0x100000 + a.toNat * 0x4000 := rfl
  apply control_round rfl <;> rw [he]
  · omega
  · omega
  · have h1 : bits (0x8C000000 + n.toNat * 0x100000 + a.toNat * 0x4000) 31 26 = 0x23 := by simp only [bits]; omega
    simp only [controlRow, h1]
    congr 1; congr 1 <;> (apply fld_eq; omega)

theorem unbind (n : BitVec 3) : Statement (.unbind n) := by
  intro _ _
  have := n.isLt
  have he : encodeControl (.unbind n) = 0x90000000 + n.toNat * 0x100000 := rfl
  apply control_round rfl <;> rw [he]
  · omega
  · omega
  · have h1 : bits (0x90000000 + n.toNat * 0x100000) 31 26 = 0x24 := by simp only [bits]; omega
    simp only [controlRow, h1]
    congr 1; congr 1; exact fld_eq (by omega)

theorem draw (u : BitVec 11) : Statement (.draw u) := by
  intro _ _
  have := u.isLt
  have he : encodeControl (.draw u) = 0x94000000 + u.toNat := rfl
  apply control_round rfl <;> rw [he]
  · omega
  · omega
  · have h1 : bits (0x94000000 + u.toNat) 31 26 = 0x25 := by simp only [bits]; omega
    simp only [controlRow, h1]
    congr 1; congr 1; exact fld_eq (by omega)

theorem undraw (u : BitVec 11) : Statement (.undraw u) := by
  intro _ _
  have := u.isLt
  have he : encodeControl (.undraw u) = 0x98000000 + u.toNat := rfl
  apply control_round rfl <;> rw [he]
  · omega
  · omega
  · have h1 : bits (0x98000000 + u.toNat) 31 26 = 0x26 := by simp only [bits]; omega
    simp only [controlRow, h1]
    congr 1; congr 1; exact fld_eq (by omega)

theorem sld (d : BitVec 6) (b : BitVec 6) (la : BitVec 4) (sz : BitVec 2) (off : BitVec 8) : Statement (.sld d b la sz off) := by
  intro _ _
  have := d.isLt
  have := b.isLt
  have := la.isLt
  have := sz.isLt
  have := off.isLt
  have he : encodeControl (.sld d b la sz off) = 0x9C000000 + d.toNat * 0x100000 + b.toNat * 0x4000 + la.toNat * 0x400 + sz.toNat * 0x100 + off.toNat := rfl
  apply control_round rfl <;> rw [he]
  · omega
  · omega
  · have h1 : bits (0x9C000000 + d.toNat * 0x100000 + b.toNat * 0x4000 + la.toNat * 0x400 + sz.toNat * 0x100 + off.toNat) 31 26 = 0x27 := by simp only [bits]; omega
    simp only [controlRow, h1]
    congr 1; congr 1 <;> (apply fld_eq; omega)

theorem sst (d : BitVec 6) (b : BitVec 6) (la : BitVec 4) (sz : BitVec 2) (off : BitVec 8) : Statement (.sst d b la sz off) := by
  intro _ _
  have := d.isLt
  have := b.isLt
  have := la.isLt
  have := sz.isLt
  have := off.isLt
  have he : encodeControl (.sst d b la sz off) = 0xA0000000 + d.toNat * 0x100000 + b.toNat * 0x4000 + la.toNat * 0x400 + sz.toNat * 0x100 + off.toNat := rfl
  apply control_round rfl <;> rw [he]
  · omega
  · omega
  · have h1 : bits (0xA0000000 + d.toNat * 0x100000 + b.toNat * 0x4000 + la.toNat * 0x400 + sz.toNat * 0x100 + off.toNat) 31 26 = 0x28 := by simp only [bits]; omega
    simp only [controlRow, h1]
    congr 1; congr 1 <;> (apply fld_eq; omega)

theorem satom (d : BitVec 6) (a : BitVec 6) (la : BitVec 4) (op : BitVec 4) (ord : BitVec 2) (sc : BitVec 2) (w : BitVec 1) : Statement (.satom d a la op ord sc w) := by
  intro _ _
  have := d.isLt
  have := a.isLt
  have := la.isLt
  have := op.isLt
  have := ord.isLt
  have := sc.isLt
  have := w.isLt
  have he : encodeControl (.satom d a la op ord sc w) = 0xA4000000 + d.toNat * 0x100000 + a.toNat * 0x4000 + la.toNat * 0x400 + op.toNat * 0x40 + ord.toNat * 0x10 + sc.toNat * 0x4 + w.toNat * 0x2 := rfl
  apply control_round rfl <;> rw [he]
  · omega
  · omega
  · have h1 : bits (0xA4000000 + d.toNat * 0x100000 + a.toNat * 0x4000 + la.toNat * 0x400 + op.toNat * 0x40 + ord.toNat * 0x10 + sc.toNat * 0x4 + w.toNat * 0x2) 31 26 = 0x29 := by simp only [bits]; omega
    simp only [controlRow, h1]
    congr 1; congr 1 <;> (apply fld_eq; omega)

theorem swaita (b : BitVec 6) (a : BitVec 6) (la : BitVec 4) (sz : BitVec 2) (cc : BitVec 3) (n : BitVec 1) : Statement (.swaita b a la sz cc n) := by
  intro _ _
  have := b.isLt
  have := a.isLt
  have := la.isLt
  have := sz.isLt
  have := cc.isLt
  have := n.isLt
  have he : encodeControl (.swaita b a la sz cc n) = 0xA8000000 + b.toNat * 0x100000 + a.toNat * 0x4000 + la.toNat * 0x400 + sz.toNat * 0x100 + cc.toNat * 0x20 + n.toNat * 0x10 := rfl
  apply control_round rfl <;> rw [he]
  · omega
  · omega
  · have h1 : bits (0xA8000000 + b.toNat * 0x100000 + a.toNat * 0x4000 + la.toNat * 0x400 + sz.toNat * 0x100 + cc.toNat * 0x20 + n.toNat * 0x10) 31 26 = 0x2A := by simp only [bits]; omega
    simp only [controlRow, h1]
    congr 1; congr 1 <;> (apply fld_eq; omega)

theorem phase (sc : BitVec 3) (k : BitVec 2) : Statement (.phase sc k) := by
  intro _ _
  have := sc.isLt
  have := k.isLt
  have he : encodeControl (.phase sc k) = 0xAC000000 + sc.toNat * 0x800000 + k.toNat * 0x200000 := rfl
  apply control_round rfl <;> rw [he]
  · omega
  · omega
  · have h1 : bits (0xAC000000 + sc.toNat * 0x800000 + k.toNat * 0x200000) 31 26 = 0x2B := by simp only [bits]; omega
    simp only [controlRow, h1]
    congr 1; congr 1 <;> (apply fld_eq; omega)

theorem waitb (imm : BitVec 20) : Statement (.waitb imm) := by
  intro _ _
  have := imm.isLt
  have he : encodeControl (.waitb imm) = 0xB4000000 + imm.toNat := rfl
  apply control_round rfl <;> rw [he]
  · omega
  · omega
  · have h1 : bits (0xB4000000 + imm.toNat) 31 26 = 0x2D := by simp only [bits]; omega
    simp only [controlRow, h1]
    congr 1; congr 1; exact fld_eq (by omega)

theorem waitt (tl : BitVec 2) (a : BitVec 6) : Statement (.waitt tl a) := by
  intro _ _
  have := tl.isLt
  have := a.isLt
  have he : encodeControl (.waitt tl a) = 0xB8000000 + tl.toNat * 0x1000000 + a.toNat * 0x4000 := rfl
  apply control_round rfl <;> rw [he]
  · omega
  · omega
  · have h1 : bits (0xB8000000 + tl.toNat * 0x1000000 + a.toNat * 0x4000) 31 26 = 0x2E := by simp only [bits]; omega
    simp only [controlRow, h1]
    congr 1; congr 1 <;> (apply fld_eq; omega)

theorem waitany (a : BitVec 6) : Statement (.waitany a) := by
  intro _ _
  have := a.isLt
  have he : encodeControl (.waitany a) = 0xBC000000 + a.toNat * 0x4000 := rfl
  apply control_round rfl <;> rw [he]
  · omega
  · omega
  · have h1 : bits (0xBC000000 + a.toNat * 0x4000) 31 26 = 0x2F := by simp only [bits]; omega
    simp only [controlRow, h1]
    congr 1; congr 1; exact fld_eq (by omega)

theorem waitall (a : BitVec 6) : Statement (.waitall a) := by
  intro _ _
  have := a.isLt
  have he : encodeControl (.waitall a) = 0xC0000000 + a.toNat * 0x4000 := rfl
  apply control_round rfl <;> rw [he]
  · omega
  · omega
  · have h1 : bits (0xC0000000 + a.toNat * 0x4000) 31 26 = 0x30 := by simp only [bits]; omega
    simp only [controlRow, h1]
    congr 1; congr 1; exact fld_eq (by omega)

theorem ffr (d : BitVec 6) (a : BitVec 6) : Statement (.ffr d a) := by
  intro _ _
  have := d.isLt
  have := a.isLt
  have he : encodeControl (.ffr d a) = 0xC4000000 + d.toNat * 0x100000 + a.toNat * 0x4000 := rfl
  apply control_round rfl <;> rw [he]
  · omega
  · omega
  · have h1 : bits (0xC4000000 + d.toNat * 0x100000 + a.toNat * 0x4000) 31 26 = 0x31 := by simp only [bits]; omega
    simp only [controlRow, h1]
    congr 1; congr 1 <;> (apply fld_eq; omega)

theorem tagclr (a : BitVec 6) : Statement (.tagclr a) := by
  intro _ _
  have := a.isLt
  have he : encodeControl (.tagclr a) = 0xC8000000 + a.toNat * 0x4000 := rfl
  apply control_round rfl <;> rw [he]
  · omega
  · omega
  · have h1 : bits (0xC8000000 + a.toNat * 0x4000) 31 26 = 0x32 := by simp only [bits]; omega
    simp only [controlRow, h1]
    congr 1; congr 1; exact fld_eq (by omega)

theorem rwmode (k : BitVec 1) : Statement (.rwmode k) := by
  intro _ _
  have := k.isLt
  have he : encodeControl (.rwmode k) = 0xCC000000 + k.toNat := rfl
  apply control_round rfl <;> rw [he]
  · omega
  · omega
  · have h1 : bits (0xCC000000 + k.toNat) 31 26 = 0x33 := by simp only [bits]; omega
    simp only [controlRow, h1]
    congr 1; congr 1; exact fld_eq (by omega)

theorem gstate (d : BitVec 6) (a : BitVec 6) (sel : BitVec 14) : Statement (.gstate d a sel) := by
  intro _ _
  have := d.isLt
  have := a.isLt
  have := sel.isLt
  have he : encodeControl (.gstate d a sel) = 0xD4000000 + d.toNat * 0x100000 + a.toNat * 0x4000 + sel.toNat := rfl
  apply control_round rfl <;> rw [he]
  · omega
  · omega
  · have h1 : bits (0xD4000000 + d.toNat * 0x100000 + a.toNat * 0x4000 + sel.toNat) 31 26 = 0x35 := by simp only [bits]; omega
    simp only [controlRow, h1]
    congr 1; congr 1 <;> (apply fld_eq; omega)

theorem gset (b : BitVec 6) (a : BitVec 6) (sel : BitVec 14) : Statement (.gset b a sel) := by
  intro _ _
  have := b.isLt
  have := a.isLt
  have := sel.isLt
  have he : encodeControl (.gset b a sel) = 0xD8000000 + b.toNat * 0x100000 + a.toNat * 0x4000 + sel.toNat := rfl
  apply control_round rfl <;> rw [he]
  · omega
  · omega
  · have h1 : bits (0xD8000000 + b.toNat * 0x100000 + a.toNat * 0x4000 + sel.toNat) 31 26 = 0x36 := by simp only [bits]; omega
    simp only [controlRow, h1]
    congr 1; congr 1 <;> (apply fld_eq; omega)

theorem resumePr (a : BitVec 6) : Statement (.resumePr a) := by
  intro _ _
  have := a.isLt
  have he : encodeControl (.resumePr a) = 0xDC000000 + a.toNat * 0x4000 := rfl
  apply control_round rfl <;> rw [he]
  · omega
  · omega
  · have h1 : bits (0xDC000000 + a.toNat * 0x4000) 31 26 = 0x37 := by simp only [bits]; omega
    have h2 : bits (0xDC000000 + a.toNat * 0x4000) 25 24 = 0 := by simp only [bits]; omega
    simp only [controlRow, h1, h2]
    congr 1; congr 1; exact fld_eq (by omega)

theorem resumeRg (a : BitVec 6) : Statement (.resumeRg a) := by
  intro _ _
  have := a.isLt
  have he : encodeControl (.resumeRg a) = 0xDD000000 + a.toNat * 0x4000 := rfl
  apply control_round rfl <;> rw [he]
  · omega
  · omega
  · have h1 : bits (0xDD000000 + a.toNat * 0x4000) 31 26 = 0x37 := by simp only [bits]; omega
    have h2 : bits (0xDD000000 + a.toNat * 0x4000) 25 24 = 1 := by simp only [bits]; omega
    simp only [controlRow, h1, h2]
    congr 1; congr 1; exact fld_eq (by omega)

theorem rules (a : BitVec 6) : Statement (.rules a) := by
  intro _ _
  have := a.isLt
  have he : encodeControl (.rules a) = 0xE4000000 + a.toNat * 0x4000 := rfl
  apply control_round rfl <;> rw [he]
  · omega
  · omega
  · have h1 : bits (0xE4000000 + a.toNat * 0x4000) 31 26 = 0x39 := by simp only [bits]; omega
    simp only [controlRow, h1]
    congr 1; congr 1; exact fld_eq (by omega)

theorem fctl (a : BitVec 6) : Statement (.fctl a) := by
  intro _ _
  have := a.isLt
  have he : encodeControl (.fctl a) = 0xE8000000 + a.toNat * 0x4000 := rfl
  apply control_round rfl <;> rw [he]
  · omega
  · omega
  · have h1 : bits (0xE8000000 + a.toNat * 0x4000) 31 26 = 0x3A := by simp only [bits]; omega
    simp only [controlRow, h1]
    congr 1; congr 1; exact fld_eq (by omega)

theorem laneAdd (w : LaneW) : Statement (.laneAdd w) :=
  fun _ _ => lane_round (c := 0) (o := 0x01) rfl (by decide) (by decide) rfl
theorem laneSub (w : LaneW) : Statement (.laneSub w) :=
  fun _ _ => lane_round (c := 0) (o := 0x02) rfl (by decide) (by decide) rfl
theorem laneMul (w : LaneW) : Statement (.laneMul w) :=
  fun _ _ => lane_round (c := 0) (o := 0x03) rfl (by decide) (by decide) rfl
theorem mulh (w : LaneW) : Statement (.mulh w) :=
  fun _ _ => lane_round (c := 0) (o := 0x04) rfl (by decide) (by decide) rfl
theorem mad (w : LaneW) : Statement (.mad w) :=
  fun _ _ => lane_round (c := 0) (o := 0x05) rfl (by decide) (by decide) rfl
theorem adds (w : LaneW) : Statement (.adds w) :=
  fun _ _ => lane_round (c := 0) (o := 0x06) rfl (by decide) (by decide) rfl
theorem subs (w : LaneW) : Statement (.subs w) :=
  fun _ _ => lane_round (c := 0) (o := 0x07) rfl (by decide) (by decide) rfl
theorem div (w : LaneW) : Statement (.div w) :=
  fun _ _ => lane_round (c := 0) (o := 0x08) rfl (by decide) (by decide) rfl
theorem rem (w : LaneW) : Statement (.rem w) :=
  fun _ _ => lane_round (c := 0) (o := 0x09) rfl (by decide) (by decide) rfl
theorem laneAnd (w : LaneW) : Statement (.laneAnd w) :=
  fun _ _ => lane_round (c := 0) (o := 0x0A) rfl (by decide) (by decide) rfl
theorem laneOr (w : LaneW) : Statement (.laneOr w) :=
  fun _ _ => lane_round (c := 0) (o := 0x0B) rfl (by decide) (by decide) rfl
theorem laneXor (w : LaneW) : Statement (.laneXor w) :=
  fun _ _ => lane_round (c := 0) (o := 0x0C) rfl (by decide) (by decide) rfl
theorem not (w : LaneW) : Statement (.not w) :=
  fun _ _ => lane_round (c := 0) (o := 0x0D) rfl (by decide) (by decide) rfl
theorem lop3 (w : LaneW) : Statement (.lop3 w) :=
  fun _ _ => lane_round (c := 0) (o := 0x0E) rfl (by decide) (by decide) rfl
theorem laneShl (w : LaneW) : Statement (.laneShl w) :=
  fun _ _ => lane_round (c := 0) (o := 0x0F) rfl (by decide) (by decide) rfl
theorem laneShr (w : LaneW) : Statement (.laneShr w) :=
  fun _ _ => lane_round (c := 0) (o := 0x10) rfl (by decide) (by decide) rfl
theorem laneSar (w : LaneW) : Statement (.laneSar w) :=
  fun _ _ => lane_round (c := 0) (o := 0x11) rfl (by decide) (by decide) rfl
theorem rot (w : LaneW) : Statement (.rot w) :=
  fun _ _ => lane_round (c := 0) (o := 0x12) rfl (by decide) (by decide) rfl
theorem laneMin (w : LaneW) : Statement (.laneMin w) :=
  fun _ _ => lane_round (c := 0) (o := 0x13) rfl (by decide) (by decide) rfl
theorem laneMax (w : LaneW) : Statement (.laneMax w) :=
  fun _ _ => lane_round (c := 0) (o := 0x14) rfl (by decide) (by decide) rfl
theorem abs (w : LaneW) : Statement (.abs w) :=
  fun _ _ => lane_round (c := 0) (o := 0x15) rfl (by decide) (by decide) rfl
theorem neg (w : LaneW) : Statement (.neg w) :=
  fun _ _ => lane_round (c := 0) (o := 0x16) rfl (by decide) (by decide) rfl
theorem clz (w : LaneW) : Statement (.clz w) :=
  fun _ _ => lane_round (c := 0) (o := 0x17) rfl (by decide) (by decide) rfl
theorem popc (w : LaneW) : Statement (.popc w) :=
  fun _ _ => lane_round (c := 0) (o := 0x18) rfl (by decide) (by decide) rfl
theorem brev (w : LaneW) : Statement (.brev w) :=
  fun _ _ => lane_round (c := 0) (o := 0x19) rfl (by decide) (by decide) rfl
theorem bext (w : LaneW) : Statement (.bext w) :=
  fun _ _ => lane_round (c := 0) (o := 0x1A) rfl (by decide) (by decide) rfl
theorem bins (w : LaneW) : Statement (.bins w) :=
  fun _ _ => lane_round (c := 0) (o := 0x1B) rfl (by decide) (by decide) rfl
theorem laneSel (w : LaneW) : Statement (.laneSel w) :=
  fun _ _ => lane_round (c := 0) (o := 0x1C) rfl (by decide) (by decide) rfl
theorem laneCmp (w : LaneW) : Statement (.laneCmp w) :=
  fun _ _ => lane_round (c := 0) (o := 0x1D) rfl (by decide) (by decide) rfl
theorem fadd (w : LaneW) : Statement (.fadd w) :=
  fun _ _ => lane_round (c := 0) (o := 0x20) rfl (by decide) (by decide) rfl
theorem fsub (w : LaneW) : Statement (.fsub w) :=
  fun _ _ => lane_round (c := 0) (o := 0x21) rfl (by decide) (by decide) rfl
theorem fmul (w : LaneW) : Statement (.fmul w) :=
  fun _ _ => lane_round (c := 0) (o := 0x22) rfl (by decide) (by decide) rfl
theorem fma (w : LaneW) : Statement (.fma w) :=
  fun _ _ => lane_round (c := 0) (o := 0x23) rfl (by decide) (by decide) rfl
theorem fdiv (w : LaneW) : Statement (.fdiv w) :=
  fun _ _ => lane_round (c := 0) (o := 0x29) rfl (by decide) (by decide) rfl
theorem fmin (w : LaneW) : Statement (.fmin w) :=
  fun _ _ => lane_round (c := 0) (o := 0x24) rfl (by decide) (by decide) rfl
theorem fmax (w : LaneW) : Statement (.fmax w) :=
  fun _ _ => lane_round (c := 0) (o := 0x25) rfl (by decide) (by decide) rfl
theorem fabs (w : LaneW) : Statement (.fabs w) :=
  fun _ _ => lane_round (c := 0) (o := 0x26) rfl (by decide) (by decide) rfl
theorem fneg (w : LaneW) : Statement (.fneg w) :=
  fun _ _ => lane_round (c := 0) (o := 0x27) rfl (by decide) (by decide) rfl
theorem fsgn (w : LaneW) : Statement (.fsgn w) :=
  fun _ _ => lane_round (c := 0) (o := 0x28) rfl (by decide) (by decide) rfl
theorem frcp (w : LaneW) : Statement (.frcp w) :=
  fun _ _ => lane_round (c := 0) (o := 0x2A) rfl (by decide) (by decide) rfl
theorem frsq (w : LaneW) : Statement (.frsq w) :=
  fun _ _ => lane_round (c := 0) (o := 0x2B) rfl (by decide) (by decide) rfl
theorem fsqrt (w : LaneW) : Statement (.fsqrt w) :=
  fun _ _ => lane_round (c := 0) (o := 0x2C) rfl (by decide) (by decide) rfl
theorem fexp2 (w : LaneW) : Statement (.fexp2 w) :=
  fun _ _ => lane_round (c := 0) (o := 0x2D) rfl (by decide) (by decide) rfl
theorem flog2 (w : LaneW) : Statement (.flog2 w) :=
  fun _ _ => lane_round (c := 0) (o := 0x2E) rfl (by decide) (by decide) rfl
theorem fsinp (w : LaneW) : Statement (.fsinp w) :=
  fun _ _ => lane_round (c := 0) (o := 0x2F) rfl (by decide) (by decide) rfl
theorem fcosp (w : LaneW) : Statement (.fcosp w) :=
  fun _ _ => lane_round (c := 0) (o := 0x30) rfl (by decide) (by decide) rfl
theorem ftanh (w : LaneW) : Statement (.ftanh w) :=
  fun _ _ => lane_round (c := 0) (o := 0x31) rfl (by decide) (by decide) rfl
theorem frnd (w : LaneW) : Statement (.frnd w) :=
  fun _ _ => lane_round (c := 0) (o := 0x32) rfl (by decide) (by decide) rfl
theorem fcmp (w : LaneW) : Statement (.fcmp w) :=
  fun _ _ => lane_round (c := 0) (o := 0x33) rfl (by decide) (by decide) rfl
theorem fclass (w : LaneW) : Statement (.fclass w) :=
  fun _ _ => lane_round (c := 0) (o := 0x34) rfl (by decide) (by decide) rfl
theorem cvt (w : LaneW) : Statement (.cvt w) :=
  fun _ _ => lane_round (c := 0) (o := 0x38) rfl (by decide) (by decide) rfl
theorem pack (w : LaneW) : Statement (.pack w) :=
  fun _ _ => lane_round (c := 0) (o := 0x39) rfl (by decide) (by decide) rfl
theorem unpack (w : LaneW) : Statement (.unpack w) :=
  fun _ _ => lane_round (c := 0) (o := 0x3A) rfl (by decide) (by decide) rfl
theorem laneMov (w : LaneW) : Statement (.laneMov w) :=
  fun _ _ => lane_round (c := 0) (o := 0x40) rfl (by decide) (by decide) rfl
theorem laneMovi (w : LaneW) : Statement (.laneMovi w) :=
  fun _ _ => lane_round (c := 0) (o := 0x41) rfl (by decide) (by decide) rfl
theorem movs (w : LaneW) : Statement (.movs w) :=
  fun _ _ => lane_round (c := 0) (o := 0x42) rfl (by decide) (by decide) rfl
theorem laneid (w : LaneW) : Statement (.laneid w) :=
  fun _ _ => lane_round (c := 0) (o := 0x43) rfl (by decide) (by decide) rfl
theorem shfl (w : LaneW) : Statement (.shfl w) :=
  fun _ _ => lane_round (c := 0) (o := 0x44) rfl (by decide) (by decide) rfl
theorem bcast (w : LaneW) : Statement (.bcast w) :=
  fun _ _ => lane_round (c := 0) (o := 0x45) rfl (by decide) (by decide) rfl
theorem redc (w : LaneW) : Statement (.redc w) :=
  fun _ _ => lane_round (c := 0) (o := 0x48) rfl (by decide) (by decide) rfl
theorem scan (w : LaneW) : Statement (.scan w) :=
  fun _ _ => lane_round (c := 0) (o := 0x49) rfl (by decide) (by decide) rfl
theorem vote (w : LaneW) : Statement (.vote w) :=
  fun _ _ => lane_round (c := 0) (o := 0x4A) rfl (by decide) (by decide) rfl
theorem laneRaise (w : LaneW) : Statement (.laneRaise w) :=
  fun _ _ => lane_round (c := 0) (o := 0x4B) rfl (by decide) (by decide) rfl
theorem qand (w : LaneW) : Statement (.qand w) :=
  fun _ _ => lane_round (c := 0) (o := 0x50) rfl (by decide) (by decide) rfl
theorem qor (w : LaneW) : Statement (.qor w) :=
  fun _ _ => lane_round (c := 0) (o := 0x51) rfl (by decide) (by decide) rfl
theorem qxor (w : LaneW) : Statement (.qxor w) :=
  fun _ _ => lane_round (c := 0) (o := 0x52) rfl (by decide) (by decide) rfl
theorem qnot (w : LaneW) : Statement (.qnot w) :=
  fun _ _ => lane_round (c := 0) (o := 0x53) rfl (by decide) (by decide) rfl
theorem qmov (w : LaneW) : Statement (.qmov w) :=
  fun _ _ => lane_round (c := 0) (o := 0x54) rfl (by decide) (by decide) rfl
theorem qpop (w : LaneW) : Statement (.qpop w) :=
  fun _ _ => lane_round (c := 0) (o := 0x55) rfl (by decide) (by decide) rfl
theorem qff (w : LaneW) : Statement (.qff w) :=
  fun _ _ => lane_round (c := 0) (o := 0x56) rfl (by decide) (by decide) rfl
theorem ld (w : LaneW) : Statement (.ld w) :=
  fun _ _ => lane_round (c := 1) (o := 0x01) rfl (by decide) (by decide) rfl
theorem st (w : LaneW) : Statement (.st w) :=
  fun _ _ => lane_round (c := 1) (o := 0x02) rfl (by decide) (by decide) rfl
theorem lds (w : LaneW) : Statement (.lds w) :=
  fun _ _ => lane_round (c := 1) (o := 0x03) rfl (by decide) (by decide) rfl
theorem sts (w : LaneW) : Statement (.sts w) :=
  fun _ _ => lane_round (c := 1) (o := 0x04) rfl (by decide) (by decide) rfl
theorem atom (w : LaneW) : Statement (.atom w) :=
  fun _ _ => lane_round (c := 1) (o := 0x05) rfl (by decide) (by decide) rfl
theorem atoms (w : LaneW) : Statement (.atoms w) :=
  fun _ _ => lane_round (c := 1) (o := 0x06) rfl (by decide) (by decide) rfl
theorem prf (w : LaneW) : Statement (.prf w) :=
  fun _ _ => lane_round (c := 1) (o := 0x07) rfl (by decide) (by decide) rfl
theorem sclaim (w : LaneW) : Statement (.sclaim w) :=
  fun _ _ => lane_round (c := 2) (o := 0x01) rfl (by decide) (by decide) rfl
theorem srel (w : LaneW) : Statement (.srel w) :=
  fun _ _ => lane_round (c := 2) (o := 0x02) rfl (by decide) (by decide) rfl
theorem ldslot (w : LaneW) : Statement (.ldslot w) :=
  fun _ _ => lane_round (c := 2) (o := 0x03) rfl (by decide) (by decide) rfl
theorem stslot (w : LaneW) : Statement (.stslot w) :=
  fun _ _ => lane_round (c := 2) (o := 0x04) rfl (by decide) (by decide) rfl
theorem trans (w : LaneW) : Statement (.trans w) :=
  fun _ _ => lane_round (c := 2) (o := 0x05) rfl (by decide) (by decide) rfl
theorem scale (w : LaneW) : Statement (.scale w) :=
  fun _ _ => lane_round (c := 2) (o := 0x06) rfl (by decide) (by decide) rfl
theorem ldw (w : LaneW) : Statement (.ldw w) :=
  fun _ _ => lane_round (c := 2) (o := 0x07) rfl (by decide) (by decide) rfl
theorem mma (w : LaneW) : Statement (.mma w) :=
  fun _ _ => lane_round (c := 2) (o := 0x08) rfl (by decide) (by decide) rfl
theorem aclaim (w : LaneW) : Statement (.aclaim w) :=
  fun _ _ => lane_round (c := 2) (o := 0x09) rfl (by decide) (by decide) rfl
theorem arel (w : LaneW) : Statement (.arel w) :=
  fun _ _ => lane_round (c := 2) (o := 0x0A) rfl (by decide) (by decide) rfl
theorem aload (w : LaneW) : Statement (.aload w) :=
  fun _ _ => lane_round (c := 2) (o := 0x0B) rfl (by decide) (by decide) rfl
theorem adrainSp (w : LaneW) : Statement (.adrainSp w) := by
  intro h _
  have hm : w.mod.toNat % 2 = 0 := adrain_mod_adrainSp h
  exact lane_round (c := 2) (o := 0x0C) rfl (by decide) (by decide) (by
      show some (if w.mod.toNat % 2 = 0 then Instr.adrainSp w else .adrainReg w) = _
      rw [if_pos hm])
theorem adrainReg (w : LaneW) : Statement (.adrainReg w) := by
  intro h _
  have hm : w.mod.toNat % 2 = 1 := adrain_mod_adrainReg h
  exact lane_round (c := 2) (o := 0x0C) rfl (by decide) (by decide) (by
      show some (if w.mod.toNat % 2 = 0 then Instr.adrainSp w else .adrainReg w) = _
      rw [if_neg (by omega)])
theorem tblw (w : LaneW) : Statement (.tblw w) :=
  fun _ _ => lane_round (c := 2) (o := 0x0D) rfl (by decide) (by decide) rfl
theorem brLn (w : LaneW) : Statement (.brLn w) :=
  fun _ _ => lane_round (c := 3) (o := 0x01) rfl (by decide) (by decide) rfl
theorem join (w : LaneW) : Statement (.join w) :=
  fun _ _ => lane_round (c := 3) (o := 0x02) rfl (by decide) (by decide) rfl
theorem lend (w : LaneW) : Statement (.lend w) :=
  fun _ _ => lane_round (c := 3) (o := 0x03) rfl (by decide) (by decide) rfl
theorem longLatencyComplete (a : Agent) (k : Nat) : Statement (.longLatencyComplete a k) := fun _ h => absurd rfl h
theorem waitComplete (a : Agent) : Statement (.waitComplete a) := fun _ h => absurd rfl h
theorem swaitaComplete (a : Agent) : Statement (.swaitaComplete a) := fun _ h => absurd rfl h
theorem awaitComplete (a : Agent) : Statement (.awaitComplete a) := fun _ h => absurd rfl h
theorem barComplete (a : Agent) : Statement (.barComplete a) := fun _ h => absurd rfl h
theorem signalWrite (a : Agent) : Statement (.signalWrite a) := fun _ h => absurd rfl h
theorem queuedBlocksDrained (a : Agent) : Statement (.queuedBlocksDrained a) := fun _ h => absurd rfl h
theorem linkRoom (a : Agent) : Statement (.linkRoom a) := fun _ h => absurd rfl h
theorem drawGrant (die : Nat) : Statement (.drawGrant die) := fun _ h => absurd rfl h
theorem claimGrant (c : Nat) (w : Nat) (k : Nat) : Statement (.claimGrant c w k) := fun _ h => absurd rfl h
theorem bindComplete (a : Agent) : Statement (.bindComplete a) := fun _ h => absurd rfl h
theorem tblwGenerationFree (c : Nat) (w : Nat) (g : Nat) (n : Nat) : Statement (.tblwGenerationFree c w g n) := fun _ h => absurd rfl h
theorem matrixIssue (c : Nat) (w : Nat) (g : Nat) (n : Nat) : Statement (.matrixIssue c w g n) := fun _ h => absurd rfl h
theorem mmaRowEntry (c : Nat) (w : Nat) (g : Nat) (n : Nat) (rows : Nat) : Statement (.mmaRowEntry c w g n rows) := fun _ h => absurd rfl h
theorem commandRetire (c : Nat) (w : Nat) (g : Nat) (n : Nat) : Statement (.commandRetire c w g n) := fun _ h => absurd rfl h
theorem laneBlockStart (c : Nat) (w : Nat) (g : Nat) : Statement (.laneBlockStart c w g) := fun _ h => absurd rfl h
theorem fragmentRotation (c : Nat) (w : Nat) (g : Nat) : Statement (.fragmentRotation c w g) := fun _ h => absurd rfl h
theorem receiptTake (a : Agent) : Statement (.receiptTake a) := fun _ h => absurd rfl h
theorem pitchFinish (c : Nat) (p : Nat) : Statement (.pitchFinish c p) := fun _ h => absurd rfl h
theorem notifyRecord (c : Nat) (w : Nat) : Statement (.notifyRecord c w) := fun _ h => absurd rfl h
theorem entryConsume (c : Nat) (w : Nat) : Statement (.entryConsume c w) := fun _ h => absurd rfl h
theorem chitStart (c : Nat) (w : Nat) (k : Nat) : Statement (.chitStart c w k) := fun _ h => absurd rfl h
theorem chitStep (c : Nat) (w : Nat) (k : Nat) : Statement (.chitStep c w k) := fun _ h => absurd rfl h
theorem chitComplete (c : Nat) (w : Nat) (k : Nat) : Statement (.chitComplete c w k) := fun _ h => absurd rfl h
theorem replayServiced (h : Nat) (trickle : Bool) : Statement (.replayServiced h trickle) := fun _ h => absurd rfl h
theorem replayDeclined (h : Nat) : Statement (.replayDeclined h) := fun _ h => absurd rfl h
theorem replayNoframe (h : Nat) : Statement (.replayNoframe h) := fun _ h => absurd rfl h
theorem asidkill (asid : Nat) : Statement (.asidkill asid) := fun _ h => absurd rfl h
theorem tinval (t : TAgent) (line : Nat) : Statement (.tinval t line) := fun _ h => absurd rfl h
theorem pageTableStorePerform (k : Nat) : Statement (.pageTableStorePerform k) := fun _ h => absurd rfl h
theorem l1Invalidation (core : CoreId) (line : Nat) : Statement (.l1Invalidation core line) := fun _ h => absurd rfl h
theorem hostSnoop (line : Nat) (invalidate : Bool) : Statement (.hostSnoop line invalidate) := fun _ h => absurd rfl h
theorem hostRequest (r : HostReq) : Statement (.hostRequest r) := fun _ h => absurd rfl h
theorem remoteTransferArrival (job : Nat) (bit : Nat) (fmt : Nat) (reduce : Bool) (elems : List (Nat × Bool)) : Statement (.remoteTransferArrival job bit fmt reduce elems) := fun _ h => absurd rfl h
theorem footfallThreshold (unit : Nat) (region : Nat) : Statement (.footfallThreshold unit region) := fun _ h => absurd rfl h
theorem wakeWrite (vf : Nat) (off : Nat) (size : Nat) (value : Nat) : Statement (.wakeWrite vf off size value) := fun _ h => absurd rfl h
theorem poolAging (node : Nat) : Statement (.poolAging node) := fun _ h => absurd rfl h
theorem pitchPlace (c : Nat) : Statement (.pitchPlace c) := fun _ h => absurd rfl h
theorem placeWaitExpiry (c : Nat) : Statement (.placeWaitExpiry c) := fun _ h => absurd rfl h
theorem scriptResume (c : Nat) : Statement (.scriptResume c) := fun _ h => absurd rfl h
theorem nodeComplete (node : Nat) : Statement (.nodeComplete node) := fun _ h => absurd rfl h
theorem drawPoolChange (die : Nat) (units : Int) : Statement (.drawPoolChange die units) := fun _ h => absurd rfl h
theorem porterStage (die : Nat) (cmd : Nat) : Statement (.porterStage die cmd) := fun _ h => absurd rfl h
theorem porterSwap (die : Nat) (cmd : Nat) : Statement (.porterSwap die cmd) := fun _ h => absurd rfl h
theorem porterSpill (die : Nat) (cmd : Nat) : Statement (.porterSpill die cmd) := fun _ h => absurd rfl h
theorem porterUnstage (die : Nat) (cmd : Nat) : Statement (.porterUnstage die cmd) := fun _ h => absurd rfl h
theorem porterKill (die : Nat) (cmd : Nat) : Statement (.porterKill die cmd) := fun _ h => absurd rfl h
theorem rwaysWrite (die : Nat) (value : Nat) : Statement (.rwaysWrite die value) := fun _ h => absurd rfl h
theorem pmaskWrite (die : Nat) (slice : Nat) (p : Nat) (mask : Nat) : Statement (.pmaskWrite die slice p mask) := fun _ h => absurd rfl h
theorem utilityInterval (die : Nat) (slice : Nat) : Statement (.utilityInterval die slice) := fun _ h => absurd rfl h
theorem partitionReset (p : Nat) : Statement (.partitionReset p) := fun _ h => absurd rfl h
theorem scrub (line : Nat) : Statement (.scrub line) := fun _ h => absurd rfl h
theorem eccError (u : ErrUnit) (corrected : Bool) : Statement (.eccError u corrected) := fun _ h => absurd rfl h
theorem linkFail (die : Nat) (unit : Nat) (loc : Nat) (lines : List Nat) : Statement (.linkFail die unit loc lines) := fun _ h => absurd rfl h
theorem setStage2Entry (vf : Nat) (iq : Nat) (value : Nat) : Statement (.setStage2Entry vf iq value) := fun _ h => absurd rfl h
theorem setTroot (vf : Nat) (ctx : Nat) (value : Nat) : Statement (.setTroot vf ctx value) := fun _ h => absurd rfl h
theorem assignFrame (frame : Nat) (owner : Nat) : Statement (.assignFrame frame owner) := fun _ h => absurd rfl h
theorem setHostRange (vf : Nat) (idx : Nat) (base : Nat) (len : Nat) : Statement (.setHostRange vf idx base len) := fun _ h => absurd rfl h
theorem checkCodeObject (pq : Nat) (code : Nat) : Statement (.checkCodeObject pq code) := fun _ h => absurd rfl h
theorem stageUpdate (kind : Nat) (image : List Byte) : Statement (.stageUpdate kind image) := fun _ h => absurd rfl h
theorem commitUpdate (kind : Nat) : Statement (.commitUpdate kind) := fun _ h => absurd rfl h
theorem retireCore (core : CoreId) : Statement (.retireCore core) := fun _ h => absurd rfl h
theorem attest (vf : Nat) (nonce : Nat) (dest : Nat) : Statement (.attest vf nonce dest) := fun _ h => absurd rfl h
theorem registerCodeKey (vf : Nat) (pa : Nat) : Statement (.registerCodeKey vf pa) := fun _ h => absurd rfl h
theorem registerWrite (r : RegName) (value : Nat) : Statement (.registerWrite r value) := fun _ h => absurd rfl h
theorem writePerform (k : Nat) : Statement (.writePerform k) := fun _ h => absurd rfl h
theorem l1Eviction (core : CoreId) (line : Nat) : Statement (.l1Eviction core line) := fun _ h => absurd rfl h
theorem directoryEviction (line : Nat) : Statement (.directoryEviction line) := fun _ h => absurd rfl h
theorem coreGating (core : CoreId) : Statement (.coreGating core) := fun _ h => absurd rfl h
theorem cacheChipletGating (die : Nat) (chiplet : Nat) : Statement (.cacheChipletGating die chiplet) := fun _ h => absurd rfl h
theorem l2WayRetire (die : Nat) (slice : Nat) (way : Nat) : Statement (.l2WayRetire die slice way) := fun _ h => absurd rfl h
theorem hbmRowRepair (die : Nat) (row : Nat) : Statement (.hbmRowRepair die row) := fun _ h => absurd rfl h
theorem endW : Statement .endW := by
  intro _ _
  have he : encodeControl .endW = 0x5C000000 := rfl
  apply control_round rfl <;> rw [he]
  · omega
  · omega
  · have h1 : bits (0x5C000000) 31 26 = 0x17 := by simp only [bits]; omega
    simp only [controlRow, h1]

theorem halt : Statement .halt := by
  intro _ _
  have he : encodeControl .halt = 0x60000000 := rfl
  apply control_round rfl <;> rw [he]
  · omega
  · omega
  · have h1 : bits (0x60000000) 31 26 = 0x18 := by simp only [bits]; omega
    simp only [controlRow, h1]

theorem region : Statement .region := by
  intro _ _
  have he : encodeControl .region = 0x74000000 := rfl
  apply control_round rfl <;> rw [he]
  · omega
  · omega
  · have h1 : bits (0x74000000) 31 26 = 0x1D := by simp only [bits]; omega
    simp only [controlRow, h1]

theorem yield : Statement .yield := by
  intro _ _
  have he : encodeControl .yield = 0x78000000 := rfl
  apply control_round rfl <;> rw [he]
  · omega
  · omega
  · have h1 : bits (0x78000000) 31 26 = 0x1E := by simp only [bits]; omega
    simp only [controlRow, h1]

theorem nop : Statement .nop := by
  intro _ _
  have he : encodeControl .nop = 0x7C000000 := rfl
  apply control_round rfl <;> rw [he]
  · omega
  · omega
  · have h1 : bits (0x7C000000) 31 26 = 0x1F := by simp only [bits]; omega
    simp only [controlRow, h1]

theorem flushw : Statement .flushw := by
  intro _ _
  have he : encodeControl .flushw = 0xD0000000 := rfl
  apply control_round rfl <;> rw [he]
  · omega
  · omega
  · have h1 : bits (0xD0000000) 31 26 = 0x34 := by simp only [bits]; omega
    simp only [controlRow, h1]

theorem abort : Statement .abort := by
  intro _ _
  have he : encodeControl .abort = 0xE0000000 := rfl
  apply control_round rfl <;> rw [he]
  · omega
  · omega
  · have h1 : bits (0xE0000000) 31 26 = 0x38 := by simp only [bits]; omega
    simp only [controlRow, h1]

theorem wake : Statement .wake := fun _ h => absurd rfl h
theorem dispatch : Statement .dispatch := fun _ h => absurd rfl h
theorem deviceReset : Statement .deviceReset := fun _ h => absurd rfl h

end RoundTrip

theorem RoundTrip.seal : RoundTrip.Statement .seal := by
  intro _ _
  have he : encodeControl .seal = 0xB0000000 := rfl
  apply control_round rfl <;> rw [he]
  · omega
  · omega
  · have h1 : bits (0xB0000000) 31 26 = 0x2C := by simp only [bits]; omega
    simp only [controlRow, h1]


end Sys2Proof.Laws
end

