-- ==== Sys2Proof/Safety.lean ====
section
/-!
DEFINITION. What a safe run is: steps that neither stop nor refuse, and the invariant of the machine's data.
-/
namespace Sys2Proof

open Sys2Proof.Machine

/-- `n` steps from `s` end in `t`. -/
inductive Runs : Nat → State → State → Prop
  | zero (s : State) : Runs 0 s s
  | succ {n : Nat} {s t u : State} : Runs n s t → Machine.step t = .next u → Runs (n + 1) s u

/-- The data invariant that every step keeps: memory in its canonical form. -/
def Inv (s : State) : Prop := Memory.wf s.mem = true

/-- A state from which no step ever stops or refuses. -/
def Safe (s : State) : Prop := ∀ n t, Runs n s t → ∃ u, Machine.step t = .next u

end Sys2Proof
end

