-- ==== Sys2Proof/Certificates/Slice0/Obligations.lean ====
section
/-!
DEFINITION. The statements for the provers. Helper definitions stand in the namespace Sys2Proof.Claims; a statement that
gives the model's own choice says so and names the log entry.
-/

namespace Sys2Proof.Claims

open Sys2Proof.Machine

/-! ### Control words -/

/-- The executing sequencer, at level `l`, passes `i` through the checks of R65 and R66, and no register that `i` reads is
in error (R415). Nothing else may stop the word from having its own effect. -/
abbrev Legal (i : Instr) (s : State) (l : Lvl) : Prop :=
  lvlOf s.cur = some l ∧ ctlCheck l (encodeControl i) = none ∧
    ∀ r ∈ (ctlSpec l (encodeControl i)).src, r ∉ (s.seq s.cur).badRegs

/-- Every field of the machine but the executing sequencer is unchanged. -/
def OnlySelf (s t : State) : Prop :=
  { t with seqs := s.seqs } = s ∧ ∀ a, a ≠ s.cur → t.seq a = s.seq a

/-- The frame of a word that writes one scalar register: s(d) receives `v` with mark `m` and loses its error, s0 stays
zero, the pc is that of the next word, and everything else is unchanged: every other register and mark, the handed
values, counters, stack, raise registers, outstanding words, and every other part of the machine. -/
def WroteReg (s t : State) (d : Nat) (v : Word) (m : Bool) : Prop :=
  OnlySelf s t ∧
    { t.me with s := s.me.s, nu := s.me.nu, badRegs := s.me.badRegs, pc := s.me.pc } = s.me ∧ t.me.pc = s.me.pc + 4 ∧
    (∀ l f, f ≠ d → t.me.readReg l f = s.me.readReg l f ∧ t.me.mark l f = s.me.mark l f) ∧
    (∀ l, d ≠ 0 → d < h0Code l → t.me.readReg l d = v ∧ t.me.mark l d = m) ∧ (∀ l, t.me.readReg l 0 = 0) ∧
    ∀ r, r ∈ t.me.badRegs ↔ r ∈ s.me.badRegs ∧ (r = d → d = 0)

/-- `x cc y` for the condition codes 000 to 101 (R47): eq, ne, lt, le, gt, ge, as sint or as uint. -/
def holdsCC (signed : Bool) (cc : BitVec 3) (x y : Word) : Bool :=
  let lt (u v : Word) : Bool := if signed then u.slt v else u.ult v
  match cc.toNat with
  | 0 => x == y
  | 1 => x != y
  | 2 => lt x y
  | 3 => !lt y x
  | 4 => lt y x
  | _ => !lt x y

/-- The words of R101 and R102: instruction, source registers, and what s(d) receives, the registers being read by `r`. -/
def arithWords (d a b c : BitVec 6) (cc : BitVec 3) (k : BitVec 14) :
    List (Instr × List (BitVec 6) × ((BitVec 6 → Word) → Word)) :=
  let y : Word := k.signExtend 64
  [(.add d a b, [a, b], fun r => r a + r b),
   (.sub d a b, [a, b], fun r => r a - r b),
   (.mul d a b, [a, b], fun r => r a * r b),
   (.mulhI d a b, [a, b], fun r => BitVec.ofInt 64 ((r a).toInt * (r b).toInt / 2 ^ 64)),
   (.mulhN d a b, [a, b], fun r => BitVec.ofNat 64 ((r a).toNat * (r b).toNat / 2 ^ 64)),
   (.divI d a b, [a, b], fun r => if r b = 0 then BitVec.allOnes 64 else BitVec.ofInt 64 ((r a).toInt.tdiv (r b).toInt)),
   (.divN d a b, [a, b], fun r => if r b = 0 then BitVec.allOnes 64 else r a / r b),
   (.remI d a b, [a, b], fun r => if r b = 0 then r a else BitVec.ofInt 64 ((r a).toInt.tmod (r b).toInt)),
   (.remN d a b, [a, b], fun r => if r b = 0 then r a else r a % r b),
   (.and d a b, [a, b], fun r => r a &&& r b),
   (.or d a b, [a, b], fun r => r a ||| r b),
   (.xor d a b, [a, b], fun r => r a ^^^ r b),
   (.shl d a b, [a, b], fun r => r a <<< ((r b).toNat % 64)),
   (.shr d a b, [a, b], fun r => r a >>> ((r b).toNat % 64)),
   (.sar d a b, [a, b], fun r => (r a).sshiftRight ((r b).toNat % 64)),
   (.mov d a, [a], fun r => r a),
   (.minI d a b, [a, b], fun r => if (r b).slt (r a) then r b else r a),
   (.minN d a b, [a, b], fun r => if (r b).ult (r a) then r b else r a),
   (.maxI d a b, [a, b], fun r => if (r a).slt (r b) then r b else r a),
   (.maxN d a b, [a, b], fun r => if (r a).ult (r b) then r b else r a),
   (.cmpI d a b cc, [a, b], fun r => if holdsCC true cc (r a) (r b) then 1 else 0),
   (.cmpN d a b cc, [a, b], fun r => if holdsCC false cc (r a) (r b) then 1 else 0),
   (.sel d c a b, [c, a, b], fun r => if r c ≠ 0 then r a else r b),
   (.addi d a k, [a], fun r => r a + y),
   (.andi d a k, [a], fun r => r a &&& y),
   (.ori d a k, [a], fun r => r a ||| y),
   (.xori d a k, [a], fun r => r a ^^^ y),
   (.shli d a k, [a], fun r => r a <<< k.toNat),
   (.shri d a k, [a], fun r => r a >>> k.toNat),
   (.sari d a k, [a], fun r => (r a).sshiftRight k.toNat)]

end Sys2Proof.Claims

section
open Sys2Proof Sys2Proof.Machine Sys2Proof.Claims

/-- R101, R102 (with the marks of R25): each arithmetic, logical, compare and select word writes s(d) with the value of
the table and the OR of the marks of its sources, and changes nothing else. -/
def Obligations.ArithmeticWordsWriteTheTableValue : Prop :=
  ∀ (d a b c : BitVec 6) (cc : BitVec 3) (k : BitVec 14) (s : State) (l : Lvl),
    ∀ p ∈ arithWords d a b c cc k, Legal p.1 s l →
      ∃ t, exec p.1 s = .next t ∧
        WroteReg s t d.toNat (p.2.2 fun f => s.me.readReg l f.toNat) (p.2.1.any fun f => s.me.mark l f.toNat)

/-- R103: MOVI, MOVH and LDK write their constants and clear the mark; an LDK at or beyond NPOOL is ILLENC with check code
0x08 in parcel 0. -/
def Obligations.ConstantWordsWriteTheirConstant : Prop :=
  ∀ (d : BitVec 6) (k : BitVec 20) (s : State) (l : Lvl),
    (Legal (.movi d k) s l → ∃ t, exec (.movi d k) s = .next t ∧ WroteReg s t d.toNat (k.signExtend 64) false) ∧
    (Legal (.movh d k) s l → ∃ t, exec (.movh d k) s = .next t ∧
      WroteReg s t d.toNat (s.me.readReg l d.toNat <<< 20 ||| k.zeroExtend 64) false) ∧
    (Legal (.ldk d k) s l → ∀ v, (s.grid (ctxOf s.cur)).k.pool[k.toNat]? = some v →
      ∃ t, exec (.ldk d k) s = .next t ∧ WroteReg s t d.toNat v false) ∧
    (Legal (.ldk d k) s l → (s.grid (ctxOf s.cur)).k.pool.length ≤ k.toNat →
      exec (.ldk d k) s = .next (s.fault 0x01 (encodeControl (.ldk d k) * 2 ^ 32 + 8)))

end

namespace Sys2Proof.Claims

open Sys2Proof.Machine

/-- The executing sequencer goes to `pc` after `f`, the held RAISEs of R115 having been released; no other part of the
machine changes but by that release. -/
def goesTo (s : State) (pc : Nat) (f : Seq → Seq := id) : State :=
  (s.releaseHeld s.cur).modSeq s.cur fun q => { f q with pc := pc }

/-- The same without a release. -/
def goesToHeld (s : State) (pc : Nat) (f : Seq → Seq) : State := s.modSeq s.cur fun q => { f q with pc := pc }

/-- NONUNIFORM of a deciding word: INFO holds the contributing mask and the mask of members not at X0, FAULT6 and FAULT7
hold X0 and X1, all as the last differing AWAIT recorded them (R115); zero when none is recorded. -/
def nonUniform (s : State) : State :=
  match s.me.nonuni with
  | some x => s.fault 0x03 (x.mask % 2 ^ 32 + x.notX0 % 2 ^ 32 * 2 ^ 32) x.x0.toNat x.x1.toNat
  | none => s.fault 0x03

/-- What R105 does with the address `t` of the next word: PROT with INFO = `t` as 64 bits outside the section, else `u`. -/
def inSectionOr (s : State) (t : Int) (u : State) : State :=
  if 0 ≤ t ∧ s.inSection s.cur t.toNat then u else s.fault 0x0A (wrapN 64 t)

/-- The word that a conditional branch goes to. -/
def branchPc (s : State) (off : BitVec 14) (taken : Bool) : Int :=
  if taken then (s.me.pc : Int) + 4 * off.toInt else s.me.pc + 4

end Sys2Proof.Claims

section
open Sys2Proof Sys2Proof.Machine Sys2Proof.Claims

/-- R105 for BR, BZ and BNZ: a marked register raises NONUNIFORM; else the word goes to its target or to the next word,
which must lie in the section, and releases the held RAISEs (R115). -/
def Sys2Proof.Claims.BranchesGoToTheirTarget : Prop :=
  ∀ (sc : BitVec 3) (a : BitVec 6) (off : BitVec 14) (s : State) (l : Lvl),
    (Legal (.br sc off) s l →
      exec (.br sc off) s = .next (inSectionOr s (branchPc s off true) (goesTo s (branchPc s off true).toNat))) ∧
    (Legal (.bz sc a off) s l →
      let t := branchPc s off (s.me.readReg l a.toNat == 0)
      exec (.bz sc a off) s =
        .next (if s.me.mark l a.toNat then nonUniform s else inSectionOr s t (goesTo s t.toNat))) ∧
    (Legal (.bnz sc a off) s l →
      let t := branchPc s off (s.me.readReg l a.toNat != 0)
      exec (.bnz sc a off) s =
        .next (if s.me.mark l a.toNat then nonUniform s else inSectionOr s t (goesTo s t.toNat)))

/-- R105, R107: CALL pushes pc + 4 and goes to its target, RET pops; a CALL at depth 256 and a RET of an empty stack raise
STACK, with INFO 0 and 1 (R300), before the target
is judged; CALL through a register decides. -/
def Sys2Proof.Claims.CallsAndReturnsUseTheStack : Prop :=
  ∀ (sc : BitVec 3) (a : BitVec 6) (off : BitVec 14) (s : State) (l : Lvl),
    let push (q : Seq) : Seq := { q with stack := BitVec.ofNat 64 (q.pc + 4) :: q.stack }
    let full := 256 ≤ s.me.stack.length
    (Legal (.call sc off) s l →
      let t := branchPc s off true
      exec (.call sc off) s = .next (if full then s.fault 0x11 0 else inSectionOr s t (goesToHeld s t.toNat push))) ∧
    (Legal (.callReg sc a) s l →
      let t : Int := ((s.section s.cur).1 : Int) + 4 * (s.me.readReg l a.toNat).toNat
      exec (.callReg sc a) s = .next (if s.me.mark l a.toNat then nonUniform s else if full then s.fault 0x11 0
        else inSectionOr s t (goesTo s t.toNat push))) ∧
    (Legal (.ret sc) s l →
      exec (.ret sc) s = .next (match s.me.stack with
        | [] => s.fault 0x11 1
        | t :: r => inSectionOr s t.toNat (goesToHeld s t.toNat fun q => { q with stack := r })))

/-- R106: LOOP sets its counter to the trip count, at most 0xFFFFFFFF, a marked one raising NONUNIFORM; NEXT ends the loop
at a count of 1 or 0 and else counts down and goes to its target. -/
def Sys2Proof.Claims.LoopsCount : Prop :=
  ∀ (sc n : BitVec 3) (a : BitVec 6) (t : BitVec 9) (off : BitVec 14) (s : State) (l : Lvl),
    let count (v : Nat) (q : Seq) : Seq := { q with lc := cset 0 q.lc n.toNat (BitVec.ofNat 32 v) }
    let c := (s.me.ctr n.toNat).toNat
    (Legal (.loop sc n a) s l →
      exec (.loop sc n a) s = .next (if s.me.mark l a.toNat then nonUniform s
        else goesTo s (s.me.pc + 4) (count (min (s.me.readReg l a.toNat).toNat 0xFFFFFFFF)))) ∧
    (Legal (.loopi sc n t) s l → exec (.loopi sc n t) s = .next (goesToHeld s (s.me.pc + 4) (count t.toNat))) ∧
    (Legal (.next sc n off) s l →
      exec (.next sc n off) s = .next (if c ≤ 1 then goesToHeld s (s.me.pc + 4) (count 0)
        else goesToHeld s (wrapN 57 (branchPc s off true)) (count (c - 1)))) ∧
    ∀ k v, k ≠ n.toNat → (count v s.me).ctr k = s.me.ctr k ∧ (count v s.me).ctr n.toNat = BitVec.ofNat 32 v

/-- R105 to R107: branches, calls and returns, and loops. -/
def Obligations.ControlTransfersGoWhereTheTableSays : Prop :=
  BranchesGoToTheirTarget ∧ CallsAndReturnsUseTheStack ∧ LoopsCount

end

namespace Sys2Proof.Claims

open Sys2Proof.Machine

/-- The word that stream `a` waited at completes: the stream runs on at the next word and waits at nothing. -/
def completes (t : State) (a : Agent) : State :=
  t.modSeq a fun q => { q with pc := q.pc + 4, run := .running, held := none, vals := [], decided := false, barAt := none }

/-- The word completes: the executing stream runs on at the next word and waits at nothing. -/
def wentOn (s : State) : State := completes s s.cur

/-- The stream waits at `i` (R99) with the operands `vals` that the word read as it issued (R98), and nothing else has
happened. -/
def waitsAt (s : State) (i : Instr) (vals : List Word := []) (bar : Option Nat := none) : State :=
  s.modSeq s.cur fun q => { q with
    run := .waiting, held := some i, vals := vals, decided := false, barAt := if bar = none then q.barAt else bar }

/-- A flush point of the rewrite stage of group `g` (R242): it cuts before the next block. -/
def flushed (s : State) (g : GrpId) : State := s.modGroup g fun y => { y with flushMark := true }

/-- The RAISE and AWAIT of a group stream are flush points (R116); above it there is no stage. -/
def raiseFlushed (s : State) : State :=
  match s.cur with
  | .group c w g => flushed s ⟨c, w, g⟩
  | _ => s

/-- DOWN and DOWNV: the word, its deciding register, the registers that it hands down, the block offset and the handed
values. -/
def downWords (a b r : BitVec 6) (off : BitVec 13) :
    List (Instr × Option (BitVec 6) × List (BitVec 6) × ((BitVec 6 → Word) → Nat × Word × Word)) :=
  [(.down off, none, [], fun _ => (off.toNat, 0, 0)),
   (.downReg r, some r, [], fun rd => ((rd r).toNat, 0, 0)),
   (.downv a b off, none, [a, b], fun rd => (off.toNat, rd a, rd b)),
   (.downvReg a b r, some r, [a, b], fun rd => ((rd r).toNat, rd a, rd b))]

/-- When the newest read behind scalar registers of the executing sequencer had returned its value (R291). -/
def knownSince (s : State) (rs : List (BitVec 6)) : Nat := (rs.map fun f => cget 0 s.me.known f.toNat).foldl max 0

/-- The loop-counter stamp of R109: byte `k` is the low byte of lc`k`. -/
def stampOf (q : Seq) (x : Word) : Prop := ∀ k, k < 8 → x.toNat / 2 ^ (8 * k) % 256 = (q.ctr k).toNat % 256

end Sys2Proof.Claims

section
open Sys2Proof Sys2Proof.Machine Sys2Proof.Claims

/-- R108, R111: a DOWN or DOWNV with a legal block sends one receipt when the link has room, waits when it is full, and
raises SCRIPT at a full script that some pitch has not started; a block at or beyond the lower section is PROT with INFO
the offset. The word with a register operand decides: it releases the held RAISEs as it sends its receipt, and while it
waits for room they stay held, which R115 leaves to the model (log entry 34). INFO of SCRIPT is the SEQ of the receipt not
written (R300). -/
def Sys2Proof.Claims.HandingDownSendsAReceipt : Prop :=
  ∀ (a b r : BitVec 6) (off : BitVec 13) (s : State) (l : Lvl),
    ∀ p ∈ downWords a b r off, Legal p.1 s l →
      let (o, h0, h1) := p.2.2.2 fun f => s.me.readReg l f.toNat
      let since := knownSince s p.2.2.1
      let s0 := if p.2.1 = none then s else s.releaseHeld s.cur
      ∃ rc : Receipt, rc.seq.toNat = s.me.sent % 2 ^ 32 ∧ rc.off.toNat = o % 2 ^ 13 ∧ rc.h0 = h0 ∧ rc.h1 = h1 ∧
        rc.since = since ∧ stampOf s.me rc.stamp ∧
        exec p.1 s = .next (
          if p.2.1.any (fun f => s.me.mark l f.toNat) then nonUniform s
          else if s.lowerWords l ≤ o then s.fault 0x0A o
          else match s.room s.cur with
            | .room => (s0.send s.cur rc).advance
            | .full => waitsAt s p.1 [BitVec.ofNat 64 o, h0, h1, BitVec.ofNat 64 since]
            | .script => s.fault 0x12 (s.me.sent % 2 ^ 32))

/-- R110, R111, R262: there is room while LEAD is below 8 at a pitch and at a workgroup, and below the script's size at
the grid, where no pitch has still to end the receipt in the entry to be written; a receipt sent stands last in the queue of every receiver of the link, or in the script entry of its SEQ, and
no other sequencer changes. -/
def Sys2Proof.Claims.ReceiptsFanOutOverTheLink : Prop :=
  ∀ (s : State) (a : Agent) (rc : Receipt),
    (s.room a = match a with
      | .grid c =>
        let n := (s.seq a).sent
        if s.lead a < (s.grid c).size ∧
            ∀ i, i < s.lead a → (n - 1 - i) % 2 ^ 32 % (s.grid c).size ≠ n % 2 ^ 32 % (s.grid c).size then .room
          else if (s.grid c).placed < (s.grid c).npitch then .script else .full
      | _ => if s.lead a < 8 then .room else .full) ∧
    ((s.receivers a).Nodup → a ∉ s.receivers a →
      ((s.send a rc).seq a = { s.seq a with sent := (s.seq a).sent + 1 }) ∧
      ∀ x, x ≠ a → (s.send a rc).seq x =
        if x ∈ s.receivers a then { s.seq x with inq := (s.seq x).inq ++ [rc] } else s.seq x) ∧
    ∀ c, a = .grid c → agetD {} ((s.send a rc).grid c).script (rc.seq.toNat % (s.grid c).size) = rc

/-- R112: END ends its block, once no long-latency word is outstanding, at P, W and S, and in the handler it is RESUME .pr
of the handler's own group (R307); HALT stops the grid sequencer. Both release the held RAISEs (R115). -/
def Obligations.BlocksEnd : Prop :=
  ∀ (s : State) (l : Lvl), s.me.out = [] →
    (Legal .endW s l → exec .endW s = .next (
      if l = .H then (s.resumePr (s.grpId s.cur)).retryLogged (s.grpId s.cur)
      else (s.releaseHeld s.cur).modSeq s.cur fun q => { q with run := .idle, ended := q.ended + 1 })) ∧
    (Legal .halt s l →
      exec .halt s = .next ((s.releaseHeld s.cur).modSeq s.cur fun q => { q with run := .halted }))

/-- R113: a RAISE waits while its member's contribution is pending, raises NONUNIFORM with X0 and X1 the two operations on
a conflict, and else adds its value, with its mark and the time at which it was known (R291), to the register of the level
above and stays outstanding (R98), with the registers that R56 guards. -/
def Obligations.RaiseContributesToTheLevelAbove : Prop :=
  ∀ (n : BitVec 2) (a : BitVec 6) (la : BitVec 4) (fn : BitVec 3) (s : State) (l : Lvl),
    Legal (.raise n a la fn) s l →
      let (t, m) := s.raiseTarget s.cur
      let e := agetD {} (s.seq t).e n.toNat
      let x := (m, s.me.readReg l a.toNat, s.me.mark l a.toNat)
      let since := knownSince s [a]
      (m ∈ e.mask → exec (.raise n a la fn) s = .next s.stall) ∧
      (m ∉ e.mask → e.mask ≠ [] → e.op ≠ fn.toNat →
        exec (.raise n a la fn) s = .next (s.fault 0x03 0 e.op fn.toNat)) ∧
      (m ∉ e.mask → (e.mask ≠ [] → e.op = fn.toNat) →
        exec (.raise n a la fn) s = .next (((raiseFlushed s).modSeq t fun q => { q with e := aput q.e n.toNat (
            if e.mask = [] then { op := fn.toNat, mask := [m], vals := [x], known := since }
            else { e with mask := e.mask ++ [m], vals := e.vals ++ [x], known := max e.known since }) }).issueLong la.toNat (.raise t n.toNat) (ctlRefs l (.raise n a la fn)).1
            (ctlRefs l (.raise n a la fn)).2 []))

/-- R114, R115: an AWAIT whose register every member has reached empties it and writes the combined value, known as late as
the latest contribution (R291), marked exactly when a uni register differed; then the contributing RAISEs are held with X0, X1 and the masks recorded, else they
complete. With a member missing the word stays outstanding. Held RAISEs are released first, and a group stream's word is a
flush point of its stage (R116). -/
def Sys2Proof.Claims.AwaitCombinesTheContributions : Prop :=
  ∀ (d : BitVec 6) (n : BitVec 2) (la : BitVec 4) (s : State) (l : Lvl),
    Legal (.await d n la) s l →
      let a := s.cur
      let s1 := (raiseFlushed s).releaseHeld a
      let e := agetD {} s1.me.e n.toNat
      let v := combine e.op (e.vals.map fun x => x.2.1.toNat)
      let q : Seq := { s1.me.writeReg d.toNat (BitVec.ofNat 64 v) e.differs with
        known := if d = 0 then s1.me.known else cset 0 s1.me.known d.toNat e.known }
      let ms : List Agent := match s.cur with
        | .group _ _ _ => [s.cur]
        | a => (s1.members a).map (s1.memberAgent a)
      (s1.raiseFull s.cur e = true → e.differs = true →
        exec (.await d n la) s = .next ((ms.foldl (fun s m =>
            s.changeRaise a m (.raise a n.toNat) (some (.heldRaise a n.toNat)))
          (s1.setSeq s.cur { q with
            e := adel s1.me.e n.toNat, nonuni := some e.nonUni
            heldRaise := s1.me.heldRaise ++ ms.map fun m => (m, n.toNat) })).advance)) ∧
      (s1.raiseFull s.cur e = true → e.differs = false →
        exec (.await d n la) s = .next ((ms.foldl (fun s m => s.completeRaise a n.toNat m)
          (s1.setSeq s.cur { q with e := adel s1.me.e n.toNat })).advance)) ∧
      (s1.raiseFull s.cur e = false →
        exec (.await d n la) s = .next (s1.issueLong la.toNat (.await d.toNat n.toNat) (ctlRefs l (.await d n la)).1
          (ctlRefs l (.await d n la)).2 []))

/-- R113: the combining operations: AND, OR, least and greatest under sint and uint, the sum modulo 2^64, and for uni the
least under uint, of any contributions (at least one). -/
def Sys2Proof.Claims.CombiningOperationsMeanWhatTheyName : Prop :=
  ∀ (xs : List Word), xs ≠ [] →
    let ns := xs.map BitVec.toNat
    let c (op : Nat) : Nat := combine op ns
    c 0 = (xs.foldl (· &&& ·) (BitVec.allOnes 64)).toNat ∧ c 1 = (xs.foldl (· ||| ·) 0).toNat ∧
    c 6 = ns.sum % 2 ^ 64 ∧ (∀ op ∈ [2, 3, 4, 5, 7], c op ∈ ns) ∧
    (∀ x ∈ xs, (BitVec.ofNat 64 (c 2)).toInt ≤ x.toInt) ∧ (∀ x ∈ xs, c 3 ≤ x.toNat) ∧
    (∀ x ∈ xs, x.toInt ≤ (BitVec.ofNat 64 (c 4)).toInt) ∧ (∀ x ∈ xs, x.toNat ≤ c 5) ∧ ∀ x ∈ xs, c 7 ≤ x.toNat

/-- R117: a member that comes to a barrier which every other member has reached passes it; else it waits there. -/
def Obligations.BarriersWaitForEveryMember : Prop :=
  ∀ (sc : BitVec 3) (s : State) (l : Lvl), Legal (.bar sc) s l →
    let k := agetD 0 s.me.barCount sc.toNat
    let all := ∀ m ∈ s.barMembers s.cur sc.toNat, m = s.cur ∨ (s.seq m).reached sc.toNat k = true
    (all → exec (.bar sc) s =
      .next ((wentOn s).modSeq s.cur fun q => { q with barCount := aput q.barCount sc.toNat (k + 1) })) ∧
    (¬all → exec (.bar sc) s = .next (waitsAt s (.bar sc) [] (some sc.toNat)))

/-- R108 to R111: a DOWN or DOWNV sends a receipt, and the receipt reaches every receiver of the link. -/
def Obligations.HandingDownSendsReceiptsOverTheLink : Prop :=
  HandingDownSendsAReceipt ∧ ReceiptsFanOutOverTheLink

/-- R113 to R115: AWAIT writes the combination of the contributions, and the combining operations are what they name. -/
def Obligations.AwaitWritesTheCombinedValue : Prop :=
  AwaitCombinesTheContributions ∧ CombiningOperationsMeanWhatTheyName

end

namespace Sys2Proof.Claims

open Sys2Proof.Machine

/-- The group whose resources the executing stream uses. -/
def own (s : State) : GrpId := s.grpId s.cur

/-- The record of a window bound at `va`, whose base was known at `since`, by a translation (R31, R123, R291). -/
def boundTo (tr : Trans) (va since : Nat) : Window :=
  { st := .bound, perm := tr.perm, trk := tr.trk, vbase := BitVec.ofNat 57 va, frame := tr.frame, start := tr.start,
    len := tr.len, ff := tr.ff, hv := tr.hv, hdie := tr.hdie, lines := tr.lines, since := since }

/-- The condition of R99 for REGION, PHASE and SEAL: every lane block queued before has ended and every long-latency word
has completed. In the handler, in whose slot the stream stands still, only its own words count (log entry 17). -/
def drained (s : State) : Prop :=
  s.me.out = [] ∧ ((∃ c w, s.cur = .handler c w) ∨ ((s.group (own s)).laneQ = [] ∧ (s.group (own s)).blk = none))

/-- The word has no effect but the pc (R120). -/
def noEffect (s : State) : State := s.modSeq s.cur fun q => { q with pc := q.pc + 4 }

/-- The node of context `c` is neither recorded nor re-run (R423, R424). -/
def plainRun (s : State) (c : Nat) : Prop := (s.grid c).cap = none ∧ (s.grid c).rerun = none

/-- The effect of DRAW and UNDRAW that set DRAWN to `u`: the die's pool has the difference (R124). -/
def drawn (s : State) (u : Nat) (queue : List WgId → List WgId) : State :=
  let w := s.wgId s.cur
  ((s.modDie (s.wg w).core.die fun d => { d with
    poolFree := d.poolFree + ((s.wg w).drawn : Int) - u, drawQ := queue d.drawQ }).modWg w fun x => { x with drawn := u })

/-- A value as a signed number, or as it is, by the type (R149). -/
def asInt (sg : Bool) (n x : Nat) : Int := if sg ∧ 2 ^ (n - 1) ≤ x then (x : Int) - 2 ^ n else x

/-- `n` bits given one by one. -/
def ofBits : Nat → (Nat → Bool) → Nat
  | 0, _ => 0
  | n + 1, f => (if f n then 2 ^ n else 0) + ofBits n f

/-- What an atomic stores, `n` bits wide, from the old value, the operand and the compared value (R128, R186). -/
def atomicTable (op n ty old b cmp : Nat) : Nat :=
  match op with
  | 0 => (old + b) % 2 ^ n
  | 1 => if asInt true n b < asInt true n old then b else old
  | 2 => if b < old then b else old
  | 3 => if asInt true n old < asInt true n b then b else old
  | 4 => if old < b then b else old
  | 5 => ofBits n fun i => old.testBit i && b.testBit i
  | 6 => ofBits n fun i => old.testBit i || b.testBit i
  | 7 => ofBits n fun i => old.testBit i ^^ b.testBit i
  | 8 => b
  | 9 => if old = cmp then b else old
  | 10 => if b ≤ old then 0 else old + 1
  | 11 => if old = 0 ∨ b < old then b else old - 1
  | _ => faddBits (ty == 12) old b

/-- `x cc y` at `w` bits for the condition codes of R47, as sint or as uint. -/
def holdsAt (w : Nat) (signed : Bool) (cc x y : Nat) : Bool :=
  let lt (u v : Nat) : Bool := decide (asInt signed w (u % 2 ^ w) < asInt signed w (v % 2 ^ w))
  match cc with
  | 0 => x % 2 ^ w == y % 2 ^ w
  | 1 => x % 2 ^ w != y % 2 ^ w
  | 2 => lt x y
  | 3 => !lt y x
  | 4 => lt y x
  | _ => !lt x y

/-- What SATOM stores, `n` bits wide (R128): CAS compares s(d) and stores s(d + 1); the others store the table's value. -/
def satomTable (op n : Nat) (o : SOps) (old : Nat) : Nat :=
  if op = 9 then (if old = o.data % 2 ^ n then o.cmp % 2 ^ n else old) else atomicTable op n 0 old (o.data % 2 ^ n) 0

/-- What SWAITA reads, and the state in which the phase has seen it: the bytes at the home or in the core's coherent copy,
not those of the group's snapshot (R129, R283, R286). -/
def watchedValue (u : State) (g : GrpId) (n : Nat) : Target → State × Nat
  | .sp w off => (u, ofBytes (u.spBytes w off n))
  | .mem pa trk _ =>
    let (s1, v) := u.hostInput g pa (ofBytes (if trk then u.coreBytes g.wg pa n else u.homeBytes g pa n))
    (if trk then s1.settleOwn g pa (toBytes n v) else s1, v)

/-- A scalar memory word goes on: at once with lookahead 0, else it stays outstanding for its window (R55, R56). -/
def issued (s : State) (l : Lvl) (i : Instr) (la : BitVec 4) (k : OutKind) (bytes : List (Bool × Nat × Nat))
    (f : Seq → Seq) : State :=
  if la = 0 then s.modSeq s.cur fun q => (f q).adv else s.issueLong la.toNat k (ctlRefs l i).1 (ctlRefs l i).2 bytes

/-- A SATOM with acq or ar acquires at its scope once its access has performed (R128). -/
def acquired (s : State) (g : GrpId) : Instr → State
  | .satom _ _ _ _ ord sc _ => if ord = 1 ∨ ord = 3 then s.acquire g (scScope sc.toNat) else s
  | _ => s

/-- What a scalar memory word of size `n` does at target `t` once its checks, which left `s1`, have passed (R126 to R129):
outstanding accesses of its group to the bytes perform first; with lookahead, all but SWAITA stay outstanding, and perform
by the time they complete (R280). None while its home, or one of those accesses, cannot perform. -/
def scalarResult (i : Instr) (la : BitVec 4) (n : Nat) (k : SKind) (s s1 : State) (l : Lvl) (t : Target) : Option State :=
  let o := s.me.sops l i
  let g := own s
  let by_ := touchOf (s.wg g.wg).pos (scalarAddr o.addr) n
  let since := knownAt s.me (s.group g) (ctlRefs l i).1
  let e := o.entry 0 s.me.pc i
  let later (u : State) : State := u.issueLong la.toNat (.deferred k.acc e n since [(0, t)] []) (ctlRefs l i).1 (ctlRefs l i).2 by_
  let writes (u : State) (d v : Nat) : State := u.modSeq s.cur fun q => (q.writeReg d (BitVec.ofNat 64 v) false).adv
  (s1.inOrder? g t n).bind fun u =>
    match k with
    | .load d => some (if la ≠ 0 then later u else let (s2, v) := u.readAt g t n since; writes s2 d v)
    | .store => some (if la ≠ 0 then later u else (u.writeAt g t n o.data o.addr s.me.pc).modSeq s.cur Seq.adv)
    | .atomic op d =>
      if la ≠ 0 then some (later u)
      else (u.atomicAt g t n (satomTable op (8 * n) o)).map fun r => writes (acquired r.1 g i) d r.2
    | .waitv cc sg =>
      let (s2, v) := watchedValue u g n t
      some (if holdsAt (8 * n) sg cc v o.data then issued s2 l i la .done by_ id
        else s2.issueLong la.toNat (.swaita e) (ctlRefs l i).1 (ctlRefs l i).2 by_)

/-- Every L1 and the host may acknowledge a write of `n` bytes at `pa` at once (R287, R396). -/
def quiet (s : State) (pa n : Nat) : Prop := ∀ l ∈ linesOf pa n, s.lineFree none l = true

/-- An aligned access of agent `a` to `n` bytes at `va` finds the leaf `tr` in the agent's translation cache; the leaf
permits it, no byte is watched or, if it reads, poisoned in what it reads, L1 has room for a tracked line, and no store of
the group translates again (R183, R287, R365). -/
structure Translated (s : State) (a : Agent) (va n : Nat) (k : Acc4) (tr : Trans) : Prop where
  form : va < 2 ^ 57
  aligned : va % n = 0
  unwatched : ∀ x ∈ s.watched, x < va ∨ va + n ≤ x
  settled : ∀ p ∈ s.pend, p.again = false
  cached : s.lookup (s.space a).t (s.space a).asid va = some tr
  allowed : permits tr.perm k = true
  room : tr.trk = true → s.l1Open (s.wgId a) (lineOf (tr.pa va)) = true
  clean : k = .write ∨ ∀ i, i < n →
    (if k = .read ∧ tr.trk then s.grpBad (s.grpId a) tr.lines (tr.pa va + i) else s.homeBad (s.grpId a).wg (tr.pa va + i)) = false

/-- An aligned access of agent `a` to `n` bytes at scratchpad offset `off` lies in the reservation of `w`, at `o`, and reads
no poisoned byte (R125, R181, R416). -/
structure InScratch (s : State) (a : Agent) (off n : Nat) (k : Acc4) (w : WgId) (o : Nat) : Prop where
  form : off < 2 ^ 32
  aligned : off % n = 0
  inside : s.spTarget (s.wgId a) off n = some (w, o)
  clean : k = .write ∨ s.spPoisonAt w o n = none

/-- A scalar access at `x` reaches `t`: memory, where footfall counts it (R371), or a scratchpad (R125). -/
inductive Reaches (s : State) (a : Agent) (n : Nat) (k : Acc4) : Nat → State → Target → Prop
  | memory (va : Nat) (tr : Trans) : Translated s a va n k tr →
      Reaches s a n k va (s.touch (s.space a) tr (tr.pa va)) (.mem (tr.pa va) tr.trk tr.lines)
  | scratch (off : Nat) (w : WgId) (o : Nat) : InScratch s a off n k w o →
      Reaches s a n k (0xFFFFFFFF * 2 ^ 32 + off) s (.sp w o)

/-- An atomic of group `g` performs at `t` at once: no re-run orders it (R424), and at a home no store of its core to the
bytes is to perform first, no translation derives from their lines and every core may acknowledge (R187, R284, R287, R368). -/
def homeFree (s : State) (g : GrpId) (n : Nat) (t : Target) : Prop :=
  plainRun s g.c ∧ match t with
    | .sp _ _ => True
    | .mem pa _ _ => quiet s pa n ∧ (∀ l ∈ linesOf pa n, (s.dirEnt l).tsh = []) ∧
        ∀ p ∈ s.pend, p.src = g.wg → overlap p.pa p.data.length pa n = false

/-- What a scalar memory word may need beyond its address: the outstanding accesses to the bytes perform; an atomic needs its
home unless it has lookahead; and it and a store are not at NOTIFY, which the engine records (R199). -/
def performsNow (s s1 : State) (la : BitVec 4) (n : Nat) (k : SKind) (t : Target) : Prop :=
  (k.acc = .read ∨ s1.notifyHit t n = false) ∧
    ∃ u, s1.inOrder? (own s) t n = some u ∧ (k.acc = .atomic → la = 0 → homeFree u (own s) n t)

/-- The scalar memory words with their lookahead, except a SATOM that carries an ordering. -/
def plainMem (i : Instr) : Option (BitVec 4) :=
  match i with
  | .sld _ _ la _ _ | .sst _ _ la _ _ | .swaita _ _ la _ _ _ => some la
  | .satom _ _ la _ ord _ _ => if ord = 0 then some la else none
  | _ => none

end Sys2Proof.Claims

section
open Sys2Proof Sys2Proof.Machine Sys2Proof.Claims

/-- R119, R130, R131 with the wait of R99: REGION adds 1 to RGN modulo 2^32 and records its entry (R267), or delivers the
oldest held report first; PHASE goes on once what it releases has performed, and acquires at its scope; SEAL closes the
batch at the ring index that the group has published up to. All three are flush points of the rewrite stage. Until its
condition holds each word waits. -/
def Obligations.RegionPhaseAndSealWaitThenAct : Prop :=
  ∀ (sc : BitVec 3) (k : BitVec 2) (s : State) (l : Lvl),
    let g := own s
    let rel := k = 1 ∨ k = 3
    (Legal .region s l → exec .region s = .next (
      if s.drainedFor s.cur then
        match (s.group g).reports with
        | [] => completes ((flushed (waitsAt s .region) g).modGroup g fun y =>
            { y with rgn := y.rgn + 1, regionPc := s.me.pc + 4, regionRc := s.me.rc }) s.cur
        | r :: _ => (waitsAt s .region).deliver g r
      else waitsAt s .region)) ∧
    (Legal (.phase sc k) s l → exec (.phase sc k) s = .next (
      let w := waitsAt s (.phase sc k)
      if s.drainedFor s.cur ∧ (rel → s.released g.wg sc.toNat) then
        completes (flushed (if k = 1 then w else w.acquire g sc.toNat) g) s.cur
      else w)) ∧
    (Legal .seal s l → exec .seal s = .next (
      if s.drainedFor s.cur then
        completes ((flushed (waitsAt s .seal) g).modGroup g fun y => { y with
          sealed := y.sealed + 1, bounds := y.bounds ++ [cget 0 (s.wg g.wg).ends g.g] }) s.cur
      else waitsAt s .seal)) ∧
    (s.drainedFor s.cur = true ↔ drained s)

/-- R120: NOP, YIELD and ICP have no architectural effect. -/
def Obligations.HintsOnlyAdvance : Prop :=
  ∀ (sec : BitVec 3) (a : BitVec 6) (n : BitVec 8) (s : State) (l : Lvl),
    (Legal .nop s l → exec .nop s = .next (noEffect s)) ∧ (Legal .yield s l → exec .yield s = .next (noEffect s)) ∧
      (Legal (.icp sec a n) s l → exec (.icp sec a n) s = .next (noEffect s))

/-- R122, R123: RUN queues the lane block with copies of the windows, the class N permission and its own address, waits
while 16 are queued or running, and raises PROT beyond the lane section; UNBIND unbinds. That INFO of that PROT is the offset
(log entry 68) and that UNBIND leaves the rest of the window's record as it was (log entry 47) are the model's choices. -/
def Obligations.RunQueuesALaneBlock : Prop :=
  ∀ (off : BitVec 26) (n : BitVec 3) (s : State) (l : Lvl),
    let y := s.group (own s)
    (Legal (.run off) s l → exec (.run off) s = .next (
      if (s.grid (ctxOf s.cur)).k.len.getD 4 0 ≤ off.toNat then s.fault 0x0A off.toNat
      else if 16 ≤ s.lead s.cur then waitsAt s (.run off)
      else (noEffect s).modGroup (own s) fun y => { y with
        flushMark := false, fresh := true
        laneQ := y.laneQ ++ [{ off := off.toNat, wins := (List.range 8).map (agetD {} y.win), perm := y.perm,
                               flush := y.flushMark, saddr := s.me.pc }] })) ∧
    (lvlOf s.cur = some .S → s.lead s.cur = y.laneQ.length + (if y.blk.isSome then 1 else 0)) ∧
    (Legal (.unbind n) s l → exec (.unbind n) s = .next ((noEffect s).modGroup (own s) fun y => { y with
      win := aput y.win n.toNat { (agetD {} y.win n.toNat) with st := .unbound } }))

/-- R31, R123: BIND of an address with bits [63:57] set raises PROT; else, once its translation is complete, the window is
Bound at the address with the frame, permission and tracking of the leaf and its covered run. -/
def Obligations.BindTakesItsTranslation : Prop :=
  ∀ (n : BitVec 3) (a : BitVec 6) (s : State) (l : Lvl), Legal (.bind n a) s l →
    let va := (s.me.readReg l a.toNat).toNat
    let since := cget 0 s.me.known a.toNat
    let w := waitsAt s (.bind n a) [BitVec.ofNat 64 va, BitVec.ofNat 64 since]
    (2 ^ 57 ≤ va → exec (.bind n a) s = .next (s.fault 0x0A va)) ∧
    ∀ s1 tr, va < 2 ^ 57 → w.access (w.space s.cur) va .bindOnly = (s1, .ok tr) →
      exec (.bind n a) s = .next ((s1.modGroup (s1.grpId s.cur) fun y => { y with
          win := aput y.win n.toNat (boundTo tr va since) }).resumeNext s.cur)

/-- R124: a DRAW above the grant raises DRAW; one that the pool can supply, behind no earlier waiter, takes the
difference; else it joins the die's queue and waits. In a re-run it keeps the captured order of the DRAWs (R424). UNDRAW returns the difference at once. A request that does not
raise DRAWN, or lower it, changes nothing. -/
def Obligations.DrawMovesUnitsBetweenPoolAndWorkgroup : Prop :=
  ∀ (u : BitVec 11) (s : State) (l : Lvl),
    let w := s.wgId s.cur
    let x := s.wg w
    let d := s.die x.core.die
    (Legal (.draw u) s l → exec (.draw u) s = .next (
      if (s.grid w.c).dgrant < u.toNat then s.fault 0x13 u.toNat
      else if u.toNat ≤ x.drawn then noEffect s
      else match s.ordered w.c (.draw w.w) with
        | none => s.stall
        | some s1 =>
          if d.drawQ = [] ∧ (u.toNat : Int) - x.drawn ≤ d.poolFree then noEffect (drawn s1 u.toNat fun _ => [])
          else waitsAt (s1.modDie x.core.die fun d => { d with drawQ := d.drawQ ++ [w] }) (.draw u))) ∧
    (plainRun s w.c → ∀ e, s.ordered w.c e = some s) ∧
    (Legal (.undraw u) s l → exec (.undraw u) s = .next (
      if u.toNat < x.drawn then noEffect (drawn s u.toNat id) else noEffect s))

/-- R126 to R129 at an address that is reached: SLD writes the bytes read, zero-extended; SST stores its low bytes; SATOM
writes the old value and stores the new one in one access; SWAITA goes on when its condition holds and else stays
outstanding. Accesses of the group to the same bytes that are outstanding perform first, and an SLD, SST or SATOM with
lookahead performs by the time it completes (R280). A word that its home or an earlier store keeps waiting has no effect. A store to NOTIFY goes to the engine
(R199). -/
def Sys2Proof.Claims.ScalarMemoryWordsAccessMemory : Prop :=
  ∀ (i : Instr) (la : BitVec 4) (n : Nat) (k : SKind) (s s1 : State) (l : Lvl) (t : Target),
    Legal i s l → plainMem i = some la → scalarShape i = some (n, k) → (s.group (own s)).scalarLog s.me.pc = none →
    let o := s.me.sops l i
    s.reach s.cur (scalarAddr o.addr) n k.acc o.addr = (s1, .ok t) →
    (s1.notifyHit t n = true → k.acc = .read) →
      exec i s = .next ((scalarResult i la n k s s1 l t).getD s.stall)

/-- R126 to R129: a scalar memory word whose address the agent's translation cache or the scratchpad serves completes: its
result is there, and is the next state. -/
def Sys2Proof.Claims.ScalarMemoryWordsComplete : Prop :=
  ∀ (i : Instr) (la : BitVec 4) (n : Nat) (k : SKind) (s s1 : State) (l : Lvl) (t : Target),
    Legal i s l → plainMem i = some la → scalarShape i = some (n, k) → (s.group (own s)).scalarLog s.me.pc = none →
    Reaches s s.cur n k.acc (s.me.sops l i).addr s1 t → performsNow s s1 la n k t →
      ∃ u, scalarResult i la n k s s1 l t = some u ∧ exec i s = .next u

/-- R128, R99: a SATOM with an ordering waits as PHASE does, with the operands that it read; with nothing to wait for it
completes at once. -/
def Sys2Proof.Claims.OrderedAtomicsWaitThenComplete : Prop :=
  ∀ (d a : BitVec 6) (la op : BitVec 4) (ord sc : BitVec 2) (w : BitVec 1) (s : State) (l : Lvl),
    let i : Instr := .satom d a la op ord sc w
    let n := if w = 1 then 8 else 4
    let ready := drained s ∧ (ord = 2 ∨ ord = 3 → s.released (own s).wg (scScope sc.toNat) = true)
    Legal i s l → ord ≠ 0 → s.stalled = false →
      (¬ready → exec i s = .next (waitsAt s i (s.me.sops l i).vals)) ∧
      ∀ s1 t, (s.group (own s)).scalarLog s.me.pc = none → ready →
        let v := s.modSeq s.cur fun q => { q with run := .running, held := none, vals := [], decided := false }
        Reaches v s.cur n .atomic (s.me.sops l i).addr s1 t → performsNow v s1 la n (.atomic op.toNat d.toNat) t →
          ∃ u, scalarResult i la n (.atomic op.toNat d.toNat) v s1 l t = some u ∧ exec i s = .next u

/-- R57, R125 to R129, R199, R280: scalar memory words reach memory or scratchpad, do what their table says there, and
complete. -/
def Obligations.ScalarMemoryWordsAccessMemory : Prop :=
  Sys2Proof.Claims.ScalarMemoryWordsAccessMemory ∧ ScalarMemoryWordsComplete ∧ OrderedAtomicsWaitThenComplete

end

namespace Sys2Proof.Claims

open Sys2Proof.Machine

/-- The condition of a wait for its group (R132, R133), the masks and bounds being read by `r`. -/
def waitMet (s : State) (r : BitVec 6 → Word) : Instr → Prop
  | .waitb imm => (s.group (own s)).sealed - (s.wg (own s).wg).tlc (s.group (own s)) (own s).g ≤ imm.toNat
  | .waitt tl a => (r a).toNat ≤
      (if tl = 0 then (s.wg (own s).wg).tlc (s.group (own s)) (own s).g
       else if tl = 1 then (s.group (own s)).tlm else (s.wg (own s).wg).tlx)
  | .waitany a => r a = 0 ∨ (s.wg (own s).wg).tags &&& r a ≠ 0
  | .waitall a => (s.wg (own s).wg).tags &&& r a = r a
  | _ => False

/-- What a wait waits for (R434), `v` being the operand that it read as it issued. -/
def awaited (s : State) (v : Word) : Instr → RKey → Prop
  | .waitb imm, .chit b _ _ _ => imm.toNat < (s.group (own s)).sealed ∧ b + imm.toNat ≤ (s.group (own s)).sealed
  | .waitt tl _, .tile n => tl = 1 ∧ n ≤ v.toNat
  | .waitt tl _, .chit b _ _ rem => (tl = 0 ∧ b ≤ v.toNat) ∨ (tl = 2 ∧ ∃ p, rem = some p ∧ p < v.toNat)
  | .waitany _, .chit _ te tag _ | .waitall _, .chit _ te tag _ => te = true ∧ v.toNat.testBit tag = true
  | _, _ => False

/-- The reports that a wait covers (R434): WAITANY and WAITALL those of the chits whose tags they found set. -/
def coveredBy (s : State) (v : Word) (i : Instr) (k : RKey) : Prop :=
  awaited s v i k ∧ match i, k with
    | .waitany _, .chit _ _ tag _ | .waitall _, .chit _ _ tag _ => (s.wg (own s).wg).tags.toNat.testBit tag = true
    | _, _ => True

/-- A command of the executing group, or a chit that counts for it, failed and is kept back because eight reports are
held (R312). -/
def keptBackKey (s : State) (k : RKey) : Prop :=
  8 ≤ (s.group (own s)).reports.length ∧
    ∃ r : Report, r.key = k ∧ ((∃ c ∈ (s.group (own s)).cmds, c.report = some r) ∨
      ∃ c ∈ (s.wg (own s).wg).chits, c.grp = (own s).g ∧ c.report = some r)

/-- The operand that a wait reads. -/
def waitOperand (r : BitVec 6 → Word) : Instr → List Word
  | .waitt _ a | .waitany a | .waitall a => [r a]
  | _ => []

/-- WAITB and WAITT are flush points of the rewrite stage (R132). -/
def waitFlushes : Instr → Bool
  | .waitb _ | .waitt _ _ => true
  | _ => false

/-- A wait whose condition has held at one instant: the tags that it found (R133). -/
def decidedAt (s : State) (v tags : Word) : State := s.modSeq s.cur fun q => { q with decided := true, vals := [v, tags] }

/-- A wait goes on: it has flushed, and acquires at device scope. -/
def waited (s : State) (a : Agent) (i : Instr) : State :=
  completes ((if waitFlushes i then flushed s (s.grpId a) else s).acquire (s.grpId a) 5) a

/-- The waits of R132 and R133. -/
def waitWords (imm : BitVec 20) (tl : BitVec 2) (a : BitVec 6) : List Instr :=
  [.waitb imm, .waitt tl a, .waitany a, .waitall a]

/-- What RDSR and WRSR of FCTL and FFLAGS wait for (R39): a lane block of the group, queued or running, or an ADRAIN that has
not completed. -/
def flagsWait (s : State) (n : BitVec 10) : Prop :=
  (n = 0x030 ∨ n = 0x031) ∧ (lvlOf s.cur = some .S ∨ lvlOf s.cur = some .H) ∧
    ((s.group (own s)).laneQ ≠ [] ∨ (s.group (own s)).blk ≠ none ∨
      ∃ c ∈ (s.group (own s)).cmds, ∃ o ∈ c.origins, (∃ a sh of v f r st, o.op = .adrainSp a sh of v f r st) ∨
        ∃ a row vd f r st, o.op = .adrainReg a row vd f r st)

/-- MODE.DBG of every sequencer of context `c` (log entry 56). -/
def modeOf (s : State) (c : Nat) (b : Bool) : State :=
  ({ s with seqs := s.seqs.map fun x => (x.1, if ctxOf x.1 = c then { x.2 with dbg := b } else x.2) } : State).modGrid c
    fun g => { g with dbg := b }

/-- The special registers of R37 and R38 and what the executing sequencer reads there. -/
def specialTable (s : State) : List (Nat × Nat) :=
  let gr := s.grid (ctxOf s.cur)
  let x := s.wg (s.wgId s.cur)
  let y := s.group (own s)
  let core := s.coreOf s.cur
  let q := s.seq (s.ownOf s.cur)
  let at' : Nat × Nat := match s.cur with
    | .pitch _ p => (p, 0)
    | _ => (x.pitch, x.pos)
  [(0x001, (own s).g + 16 * (gr.k.groups - 1)), (0x002, x.gidx + 2 ^ 32 * (gr.gx * gr.gy * gr.gz)),
   (0x003, at'.2 + 2 ^ 8 * (at'.2 % gr.pw) + 2 ^ 12 * (at'.2 / gr.pw) + 2 ^ 16 * gr.pw + 2 ^ 20 * gr.ph + 2 ^ 32 * at'.1),
   (0x004, x.gidx % gr.gx + 2 ^ 20 * (x.gidx / gr.gx % gr.gy) + 2 ^ 40 * (x.gidx / (gr.gx * gr.gy))),
   (0x005, core.x + 16 * core.y + 256 * core.die), (0x006, core.die), (0x007, (s.die core.die).defsig),
   (0x008, gr.args % 2 ^ 57), (0x010, y.rgn.toNat), (0x011, s.lead (s.ownOf s.cur)), (0x012, q.slip.toNat),
   (0x013, if q.dbg then 1 else 0), (0x020, x.tags.toNat), (0x021, x.tlc y (own s).g), (0x022, y.tlm), (0x023, x.tlx),
   (0x024, y.sealed), (0x030, y.fctl), (0x031, y.fflags), (0x032, x.drawn % 2048), (0x033, gr.dgrant % 2048),
   (0x034, if y.perm then 1 else 0)] ++
    (List.range 8).map (fun k => (0x040 + k, (s.me.ctr k).toNat)) ++ (List.range 8).map fun k => (0x100 + k, cget 0 x.freg k)

/-- Whether what a SIGNAL of an agent writes is seen in a phase of its group: in tracked memory, of a group or the handler. -/
def inGroup (a : Agent) (trk : Bool) : Bool :=
  match a with
  | .group .. | .handler .. => trk
  | _ => false

/-- What a SIGNAL leaves for its own group to read: the bytes it wrote, in the rest of the phase (R283, R285). -/
def signalSeen (s : State) (a : Agent) (trk : Bool) (pa : Nat) (bs : List Byte) : State :=
  if inGroup a trk then s.settleOwn (s.grpId a) pa bs else s

/-- The groups whose state a GSTATE reads and a GSET writes as the table of R139 lists them, registers and counters:
selector, and what it reads. -/
def plainItems (s : State) (g : GrpId) : List (Nat × Nat) :=
  let q := s.seq g.stream
  let y := s.group g
  (List.range 64).map (fun n => (n, (q.readReg .S n).toNat)) ++
    (List.range 8).map (fun n => (0x40 + n, (q.ctr n).toNat)) ++
    [(0x50, q.pc), (0x51, y.rgn.toNat), (0x52, y.fctl), (0x53, y.fflags)] ++
    (List.range 8).map fun n => (0x58 + n, (y.mask n).toNat)

/-- The registers that an item of R139 reads that may be in error (R415). -/
abbrev itemBad (s : State) (g : GrpId) (sel : Nat) : Prop :=
  (sel < 0x3E ∧ sel ∈ (s.seq g.stream).badRegs) ∨ (0x58 ≤ sel ∧ sel < 0x60 ∧ sel - 0x58 ∈ (s.group g).badQ) ∨
    (0x1000 ≤ sel ∧ sel < 0x1000 + 32 * (s.grid g.c).k.vregs ∧ (sel - 0x1000) / 32 ∈ (s.group g).badV)

/-- The handler of the workgroup of group `g`, in the slot of that group, handles a precise fault of stream `a` of the slot or
above it, which stopped as it ran, and no other handler waits. -/
structure Handles (s : State) (g : GrpId) (a : Agent) : Prop where
  run_eq : (s.wg g.wg).hrun = some (a, false)
  none_waits : (s.wg g.wg).hwait = []
  slot_eq : hostGroup a = g.g ∧ s.wgId a = g.wg ∧ s.grpId (.handler g.c g.w) = g
  stream : (∀ c v, a ≠ .handler c v) ∧ (∀ c, a ≠ .grid c) ∧ lvlOf a ≠ none
  stopped : (s.seq a).run = .stopped ∧ (s.seq a).prior = .running
  slot_stopped : (s.seq g.stream).run = .stopped

/-- RESUME .pr has put a group that GSTATE or GSET stopped back to what it did; the handler goes on, and no other stream,
group or byte of memory has changed (R138, R140). -/
def Released (s t : State) (g : GrpId) : Prop :=
  t.seq g.stream = { s.seq g.stream with run := (s.seq g.stream).prior } ∧ t.me.pc = s.me.pc + 4 ∧ t.mem = s.mem ∧
    (∀ h, h ≠ g → t.group h = s.group h) ∧ ∀ b, b ≠ g.stream → b ≠ s.cur → t.seq b = s.seq b

/-- RESUME .rg has put a group back to its region entry: its outstanding words, queued and running lane blocks, fragments,
tile words, operand log and reports are gone; its vector registers and memory stand (R140, R267, R311). -/
def AtRegion (s t : State) (g : GrpId) : Prop :=
  let q := t.seq g.stream
  let y := s.group g
  let z := t.group g
  q.run = .running ∧ q.pc = y.regionPc ∧ q.rc = y.regionRc ∧ q.out = [] ∧ z.laneQ = [] ∧ z.blk = none ∧ z.frags = [] ∧
    z.cmds = [] ∧ z.log = [] ∧ z.reports = [] ∧ z.v = y.v ∧ t.mem = s.mem

end Sys2Proof.Claims

section
open Sys2Proof Sys2Proof.Machine Sys2Proof.Claims

/-- R132, R133, R434: once every earlier read of its stream has returned (R288), a wait whose condition holds delivers the oldest held report that it covers, and with none flushes
(WAITB, WAITT), acquires and goes on; that the acquire is at .dv is the model's choice (log entry 68); while its condition fails it waits, and delivers the oldest held report when what it
waits for failed and is kept back by eight held reports (R312). -/
def Sys2Proof.Claims.WaitsCompleteOnTheirCondition : Prop :=
  ∀ (imm : BitVec 20) (tl : BitVec 2) (a : BitVec 6) (s : State) (l : Lvl),
    ∀ i ∈ waitWords imm tl a, Legal i s l →
      let rd (f : BitVec 6) : Word := s.me.readReg l f.toNat
      let v := (waitOperand rd i).headD 0
      let w := waitsAt s i (waitOperand rd i)
      let x := decidedAt w v (s.wg (own s).wg).tags
      let g := own s
      ((∃ o ∈ s.me.out, o.reading = true) → exec i s = .next w) ∧
      ((∀ o ∈ s.me.out, o.reading = false) →
      (waitMet s rd i → (∀ r ∈ (s.group g).reports, ¬coveredBy s v i r.key) → exec i s = .next (waited x s.cur i)) ∧
      (∀ pre r post, waitMet s rd i → (s.group g).reports = pre ++ r :: post → (∀ z ∈ pre, ¬coveredBy s v i z.key) →
        coveredBy s v i r.key → exec i s = .next (x.deliver g r)) ∧
      (¬waitMet s rd i → (∀ k, keptBackKey s k → ¬awaited s v i k) → exec i s = .next w) ∧
      ∀ k r post, ¬waitMet s rd i → keptBackKey s k → awaited s v i k → (s.group g).reports = r :: post →
        exec i s = .next (w.deliver g r))

/-- R134, R136, R137, R40: FFR writes the lowest set bit of TAGS & s(a), or 64, with the mark of s(a); TAGCLR clears the
bits of s(a) in TAGS; RWMODE gives the permission that the node record grants and the word asks for; FLUSHW marks a flush
point before the next block. -/
def Sys2Proof.Claims.TagAndRewriteWords : Prop :=
  ∀ (d a : BitVec 6) (k : BitVec 1) (s : State) (l : Lvl),
    let w := s.wgId s.cur
    let x := s.me.readReg l a.toNat
    let m := (s.wg w).tags &&& x
    (Legal (.ffr d a) s l → ∃ n, n ≤ 64 ∧ (∀ j, j < n → j < 64 → m.getLsbD j = false) ∧ (n < 64 → m.getLsbD n = true) ∧
      ∃ t, exec (.ffr d a) s = .next t ∧ WroteReg s t d.toNat (BitVec.ofNat 64 n) (s.me.mark l a.toNat)) ∧
    (Legal (.tagclr a) s l → exec (.tagclr a) s =
      .next (noEffect (s.modWg w fun y => { y with tags := y.tags &&& ~~~x }))) ∧
    (Legal (.rwmode k) s l → exec (.rwmode k) s =
      .next (noEffect (s.modGroup (own s) fun y => { y with perm := y.rwg && k == 1 }))) ∧
    (Legal .flushw s l → exec .flushw s = .next (noEffect (s.modGroup (own s) fun y => { y with flushMark := true })))

/-- R104, R36 to R39, R41, R42: RDSR writes the register's value and clears the mark, WRSR writes SLIP, FCTL, FFLAGS, and
in the handler MODE, of every sequencer of the grid context (log entry 56), and FAULT0 to FAULT7; RDSR and WRSR of FCTL or
FFLAGS wait while a lane block is queued or runs or an ADRAIN has not completed. That SLIP, LEAD and MODE in the handler are
those of the stream in whose slot it runs is the model's reading (log entry 30). -/
def Obligations.SpecialRegistersAreReadAndWritten : Prop :=
  ∀ (d : BitVec 6) (n : BitVec 10) (s : State) (l : Lvl),
    let v := s.me.readReg l d.toNat
    let o := s.ownOf s.cur
    (Legal (.rdsr d n) s l → ¬flagsWait s n → ∃ t, exec (.rdsr d n) s = .next t ∧
      WroteReg s t d.toNat (BitVec.ofNat 64 (s.srRead n.toNat)) false) ∧
    (∀ p ∈ specialTable s, s.srRead p.1 = p.2) ∧
    (Legal (.rdsr d n) s l → flagsWait s n → exec (.rdsr d n) s = .next (waitsAt s (.rdsr d n))) ∧
    (Legal (.wrsr d n) s l → flagsWait s n → exec (.wrsr d n) s = .next (waitsAt s (.wrsr d n) [v])) ∧
    (Legal (.wrsr d n) s l → ¬flagsWait s n → exec (.wrsr d n) s = .next (noEffect (
      if n = 0x012 then s.modSeq o fun q => { q with slip := v }
      else if n = 0x013 then modeOf s (ctxOf s.cur) (v.getLsbD 0)
      else if n = 0x030 then s.modGroup (own s) fun y => { y with fctl := if v.toNat % 8 ≤ 4 then v.toNat % 8 else 0 }
      else if n = 0x031 then s.modGroup (own s) fun y => { y with fflags := v.toNat % 32 }
      else if 0x100 ≤ n.toNat ∧ n.toNat ≤ 0x107 then
        s.modWg (s.wgId s.cur) fun x => { x with
          freg := cset 0 x.freg (n.toNat - 0x100) (faultMask (n.toNat - 0x100) v.toNat) }
      else s)))

/-- R118: SIGNAL of an address with bits [63:57] set raises PROT, of a misaligned one ALIGN; it waits until everything
issued before it has completed; then, at an address that is translated, it writes the eight bytes with its value, or
adds it, in one access at the home, and goes on; the value that it adds to is an input of the node where the host homes it
(R423). What a SIGNAL of the handler waits for is the model's reading (log entry
17). -/
def Obligations.SignalWritesItsValue : Prop :=
  ∀ (a b : BitVec 6) (sc : BitVec 3) (s : State) (l : Lvl) (add : Bool),
    let i : Instr := if add then .signalAdd a b sc else .signalSet a b sc
    let va := (s.me.readReg l a.toNat).toNat
    let v := (s.me.readReg l b.toNat).toNat
    let w := waitsAt s i [s.me.readReg l a.toNat, s.me.readReg l b.toNat]
    Legal i s l →
      (2 ^ 57 ≤ va → exec i s = .next (s.fault 0x0A va)) ∧
      (va < 2 ^ 57 → va % 8 ≠ 0 → exec i s = .next (s.fault 0x07 va)) ∧
      (va < 2 ^ 57 → va % 8 = 0 → w.allDone s.cur = false → exec i s = .next w) ∧
      ∀ s1 tr s2, va < 2 ^ 57 → va % 8 = 0 → w.allDone s.cur = true → (∀ x ∈ s.watched, x < va ∨ va + 8 ≤ x) →
        w.access (w.space s.cur) va .atomic = (s1, .ok tr) → s1.poisonAt (tr.pa va) 8 = none →
        (inGroup s.cur tr.trk = true → s1.l1Open (s1.wgId s.cur) (lineOf (tr.pa va)) = true) →
        ∀ u, s1.ordered (ctxOf s.cur) (.atomic (tr.pa va) (s1.wgId s.cur).w (s1.grpId s.cur).g) = some u →
        let old := u.hostInput (u.grpId s.cur) (tr.pa va) (u.memNat (tr.pa va) 8)
        let bs := toBytes 8 (if add then (old.2 + v) % 2 ^ 64 else v)
        old.1.homeWrite? (old.1.writerOf s.cur) tr.trk (tr.pa va) bs = some s2 →
        exec i s = .next (completes (signalSeen s2 s.cur tr.trk (tr.pa va) bs) s.cur)

/-- R138, R139, R415: GSTATE of a group the workgroup has not writes 0, GSET and RESUME then do nothing; else GSTATE stops the
target, if it runs, and writes the item, a register in error raising POISON, and GSET stops it and writes the item. That
GSTATE clears the NU mark of its destination is the model's
choice (log entry 58), and so is that the lane engine of the target goes on while its stream stops (log entry 30). -/
def Obligations.HandlerReadsAndWritesGroupState : Prop :=
  ∀ (d a b : BitVec 6) (sel : BitVec 14) (s : State) (l : Lvl),
    let g : GrpId := ⟨(s.wgId s.cur).c, (s.wgId s.cur).w, (s.me.readReg l a.toNat).toNat % 16⟩
    let has := g.g < (s.grid g.c).k.groups
    let run := (s.seq g.stream).run
    let s1 := if run = .running ∨ run = .waiting then s.modSeq g.stream Seq.stop else s
    (Legal (.gstate d a sel) s l → exec (.gstate d a sel) s = .next (
      if has ∧ itemBad s g sel.toNat then s.fault 0x18
      else if has then s1.putReg d.toNat (BitVec.ofNat 64 (s1.gread g sel.toNat)) false else s.putReg d.toNat 0 false)) ∧
    (Legal (.gset b a sel) s l → exec (.gset b a sel) s = .next (
      if has then (s1.gwrite g sel.toNat (s.me.readReg l b.toNat)).advance else noEffect s)) ∧
    (Legal (.resumePr a) s l → ¬has → exec (.resumePr a) s = .next (noEffect s)) ∧
    (Legal (.resumeRg a) s l → ¬has → exec (.resumeRg a) s = .next (noEffect s)) ∧
    (∀ p ∈ plainItems s g, s.gread g p.1 = p.2) ∧
    ∀ v : Word, ∀ n, n < 0x3E → n ≠ 0 → (s.gwrite g n v).gread g n = v.toNat

/-- R140, R141, R143, R310, R311: RESUME .pr of the handler's own group ends the handler, of another group restarts it;
RESUME .rg restarts the target at its region entry; ABORT ends the workgroup with the record being handled; FCTL sets
DRND in every group of the workgroup. That the acquire of RESUME .rg is at .sy and that a delivered report keeps its turn are
the model's choices (log entry 68), and how RESUME of another group is read is log entry 30. -/
def Obligations.HandlerEndsByResumeOrAbort : Prop :=
  ∀ (a : BitVec 6) (s : State) (l : Lvl),
    let w := s.wgId s.cur
    let g : GrpId := ⟨w.c, w.w, (s.me.readReg l a.toNat).toNat % 16⟩
    let has := g.g < (s.grid g.c).k.groups
    let s1 := if own s = g then s else noEffect s
    let v := (s.me.readReg l a.toNat).toNat % 8
    (Legal (.resumePr a) s l → has → exec (.resumePr a) s = .next ((s1.resumePr g).retryLogged g)) ∧
    (∀ b, Legal (.resumePr a) s l → has → Handles s g b → own s = g → (s.group g).log = [] →
      exec (.resumePr a) s = .next (s.resumePr g)) ∧
    (∀ b rep, Legal (.resumePr a) s l → has → (s.wg g.wg).hrun = some (b, rep) → own s ≠ g →
      (s.wg g.wg).ownFault g.g = none → (s.group g).log = [] → (s.seq g.stream).run = .stopped →
      ∃ t, exec (.resumePr a) s = .next t ∧ Released s t g) ∧
    (Legal (.resumeRg a) s l → has → exec (.resumeRg a) s = .next (s1.resumeRg g)) ∧
    (∀ b rep, Legal (.resumeRg a) s l → has → (s.wg g.wg).hrun = some (b, rep) → (s.wg g.wg).hwait = [] →
      (s.seq g.stream).run = .stopped → (s.seq g.stream).prior ≠ .idle →
      ∃ t, exec (.resumeRg a) s = .next t ∧ AtRegion s t g ∧
        if own s = g then (t.wg g.wg).hrun = none ∧ t.me = {} else t.me.pc = s.me.pc + 4) ∧
    (Legal .abort s l → exec .abort s = .next (s.abortWg w [(s.wg w).hcause])) ∧
    (Legal (.fctl a) s l → ∃ t, exec (.fctl a) s = .next t ∧ t.seq s.cur = { s.me with pc := s.me.pc + 4 } ∧
      ∀ h, t.group h = if h ∈ s.groupsOf w then { s.group h with fctl := if v ≤ 4 then v else 0 } else s.group h)

/-- R142, R248, R249: RULES of a well-formed image at an address the handler's group reads installs its entries, all or
nothing, after every group's undecided commands are decided; a misaligned address or a bad header raises RULE with X0
0xFFFF, a bad entry RULE with its index, INFO being the address. PROT for an address above 57 bits is the model's choice
(log entry 61). -/
def Obligations.RulesAreInstalledWhole : Prop :=
  ∀ (a : BitVec 6) (s : State) (l : Lvl), Legal (.rules a) s l →
    let va := (s.me.readReg l a.toNat).toNat
    (2 ^ 57 ≤ va → exec (.rules a) s = .next (s.fault 0x0A va)) ∧
    (va < 2 ^ 57 → va % 16 ≠ 0 → exec (.rules a) s = .next (s.fault 0x16 va 0xFFFF)) ∧
    ∀ s1 h, va < 2 ^ 57 → va % 16 = 0 → s.readChunks va 1 = (s1, .ok [h]) →
      (ruleHeadBad h = true → exec (.rules a) s = .next (s1.fault 0x16 va 0xFFFF)) ∧
      ∀ s2 es, ruleHeadBad h = false → s1.readChunks (va + 16) (bits h 23 16) = (s2, .ok es) →
        exec (.rules a) s = .next (match ruleFirstBad es with
          | some i => s2.fault 0x16 va i
          | none => ((s2.cutAll (s2.wgId s2.cur)).modWg (s2.wgId s2.cur) fun x => { x with rules := es }).advance)

/-- R132 to R134, R136, R137: the waits on tile counts and tags, and the tag and rewrite words. -/
def Obligations.WaitTagAndRewriteWords : Prop :=
  WaitsCompleteOnTheirCondition ∧ TagAndRewriteWords

end

namespace Sys2Proof.Claims

open Sys2Proof.Machine

/-- The record of a precise fault of a control word (R44, R100): LEVEL the scope code of the executing level, WADDR the pc,
GRP the group index at S and 0 above it (in the handler, the group of its slot), LANES 0. -/
structure ControlRecord (s : State) (r : FaultRec) (cause info x0 x1 : Nat) : Prop where
  cause_eq : r.cause = cause
  level_eq : r.level = match lvlOf s.cur with | some .G => 4 | some .P => 3 | some .W => 2 | _ => 1
  waddr_eq : r.waddr = s.me.pc
  grp_eq : r.grp = match s.cur with | .group _ _ g => g | .handler _ _ => (own s).g | _ => 0
  lanes_eq : r.lanes = 0
  info_eq : r.info = info
  x0_eq : r.x0 = x0
  x1_eq : r.x1 = x1
  rest_eq : r.tln = 0 ∧ r.saddr = 0

/-- The words of the trap handler (R138). -/
def handlerWords (d a b : BitVec 6) (sel : BitVec 14) : List Instr :=
  [.gstate d a sel, .gset b a sel, .resumePr a, .resumeRg a, .abort, .rules a, .fctl a]

/-- The words that R307 makes ILLENC in the handler. -/
def notInHandler (a d : BitVec 6) (n : BitVec 3) (e : BitVec 2) (la : BitVec 4) (fn : BitVec 3) (off : BitVec 26)
    (imm : BitVec 20) : List Instr :=
  [.run off, .bind n a, .unbind n, .region, .seal, .waitb imm, .waitt e a, .waitany a, .waitall a, .raise e a la fn,
   .await d e la, .bar fn]

end Sys2Proof.Claims

section
open Sys2Proof Sys2Proof.Machine Sys2Proof.Claims

/-- R65: a control word that fails a check at the executing level, and a lane word that fails one in its fragment, takes the
exception of that check, with no effect of its own; INFO quotes the parcel, its number and the check code (R66). -/
def Obligations.IllegalWordsTakeTheirException : Prop :=
  ∀ (i : Instr) (s : State) (b : Bad),
    let taken (word : Nat → Nat) : State := match b with
      | .illenc p c => s.fault 0x01 (word p * 2 ^ 32 + p * 2 ^ 8 + c)
      | .priv => s.fault 0x02 (word 0 * 2 ^ 32)
      | .scopeClass => s.fault 0x04 (word 0 * 2 ^ 32)
    (∀ l, encodeControl i ≠ 0 → laneCode i = none → lvlOf s.cur = some l → ctlCheck l (encodeControl i) = some b →
      exec i s = .next (taken fun _ => encodeControl i)) ∧
    ∀ c o w ci wi gi fi x, laneCode i = some (c, o, w) → s.cur = .lane ci wi gi fi →
      (s.group ⟨ci, wi, gi⟩).frag fi = some x → laneCheck (s.grid ci).k.vregs c o w = some b →
      exec i s = .next (taken fun p => packLane c o w / 2 ^ (32 * p) % 2 ^ 32)

/-- R65, R138, R307: a handler word outside the handler is PRIV, whatever its fields; a word that R307 names is ILLENC with
check code 0x02 in the handler; a RAISE at P and an AWAIT at G are SCOPECLASS (R113); a word of MAJOR 0 or above 0x3A is
ILLENC with check code 0x01 at every level. -/
def Obligations.LevelsAndPrivilegeAreChecked : Prop :=
  ∀ (d a b : BitVec 6) (sel : BitVec 14) (n fn : BitVec 3) (e : BitVec 2) (la : BitVec 4) (off : BitVec 26)
    (imm : BitVec 20) (l : Lvl),
    (∀ i ∈ handlerWords d a b sel, l ≠ .H → ctlCheck l (encodeControl i) = some .priv) ∧
    (∀ i ∈ notInHandler a d n e la fn off imm, ctlCheck .H (encodeControl i) = some (.illenc 0 2)) ∧
    ctlCheck .P (encodeControl (.raise e a la fn)) = some .scopeClass ∧
    ctlCheck .G (encodeControl (.await d e la)) = some .scopeClass ∧
    ∀ w, w < 0x04000000 ∨ 0xEC000000 ≤ w ∧ w < 2 ^ 32 → ctlCheck l w = some (.illenc 0 1)

/-- R121, R100: TRAP takes the exception of cause TRAP with INFO the immediate, at every level; the record of any control
word's fault is that of R100; RESUME .pr of a handled TRAP restarts the stream at the word after it. -/
def Obligations.TrapRaisesItsException : Prop :=
  ∀ (imm : BitVec 20) (s : State) (l : Lvl) (cause info x0 x1 : Nat),
    (Legal (.trap imm) s l → ∃ r, ControlRecord s r 0x17 imm.toNat 0 0 ∧
      exec (.trap imm) s = .next (s.takeFault s.cur r)) ∧
    (lvlOf s.cur = some l → ∃ r, ControlRecord s r cause info x0 x1 ∧ s.fault cause info x0 x1 = s.takeFault s.cur r) ∧
    ∀ g a, Handles s g a → (s.wg g.wg).hcause.cause = 0x17 →
      ((s.resumePr g).seq a).run = .running ∧ ((s.resumePr g).seq a).pc = (s.seq a).pc + 4

/-- R305: the handler for a cause is the control word that entry `cause` of the table names: in the 64 KiB section at the
address of entry 0, on a multiple of 4; any other entry gives no handler. -/
def Sys2Proof.Claims.HandlerTableNamesTheHandler : Prop :=
  ∀ (x : Wg) (cause e : Nat), cause < 0x80 →
    let base := (cget 0 x.htab 0).toNat
    let entry := (cget 0 x.htab cause).toNat
    (x.handlerFor cause = some e ↔ entry = e ∧ e ≠ 0 ∧ e % 4 = 0 ∧ base ≤ e ∧ e < base + 0x10000) ∧
      x.handlerFor (0x80 + cause) = x.handlerFor cause

/-- R300, R302, R305, R306: a precise fault of a pitch, workgroup or group stream, or of a lane fragment, whose workgroup
runs no handler and has one for the cause, enters it: the faulting stream stops (a fragment sleeps), the stream of the
slot stops and keeps its state, FAULT0 to FAULT7 hold the record, and the handler's bank is zero but for s1, the group
index, and s2, FAULT0, with its pc at the table's address. -/
def Sys2Proof.Claims.AFaultEntersTheHandler : Prop :=
  ∀ (s : State) (a : Agent) (r : FaultRec) (e : Nat),
    let w := s.wgId a
    let t := s.takeFault a r
    let g : GrpId := ⟨w.c, w.w, hostGroup a⟩
    let h := t.seq (.handler w.c w.w)
    (∀ c, a ≠ .grid c) → (∀ c v, a ≠ .handler c v) → (s.wg w).hrun = none → (s.wg w).handlerFor r.cause = some e →
      h.pc = e ∧ h.run = .running ∧ h.stack = [] ∧ (∀ n, h.ctr n = 0) ∧ (∀ l n, h.mark l n = false) ∧
      h.readReg .H 1 = BitVec.ofNat 64 r.grp ∧ h.readReg .H 2 = BitVec.ofNat 64 (r.word 0) ∧
      (∀ n, n ≠ 1 → n ≠ 2 → h.readReg .H n = 0) ∧
      (t.wg w).hrun = some (a, false) ∧ (t.wg w).hcause = r ∧ (∀ k, k < 8 → cget 0 (t.wg w).freg k = r.word k) ∧
      (t.seq g.stream).run = .stopped ∧ (t.seq g.stream).pc = (s.seq g.stream).pc ∧
      (∀ l n, (t.seq g.stream).readReg l n = (s.seq g.stream).readReg l n) ∧
      (lvlOf a ≠ none → (t.seq a).run = .stopped) ∧ (∀ v, v ≠ w → t.wg v = s.wg v) ∧ t.mem = s.mem

/-- R299, R305, R308, R345, R346: a fault while another handler runs waits its turn, in the order taken; a fault of the
handler itself, and one without a handler, end the workgroup as ABORT does, with both records or the one; a grid fault
goes to the front end. -/
def Obligations.OtherFaultsWaitOrEndTheWorkgroup : Prop :=
  ∀ (s : State) (a : Agent) (r : FaultRec),
    let w := s.wgId a
    let t := s.takeFault a r
    ((∀ c, a ≠ .grid c) → (∀ c v, a ≠ .handler c v) → (s.wg w).hrun ≠ none →
      (t.wg w).hwait = (s.wg w).hwait ++ [(a, r, none)] ∧ (t.wg w).hrun = (s.wg w).hrun ∧
        (lvlOf a ≠ none → (t.seq a).run = .stopped)) ∧
    ((∀ c, a ≠ .grid c) → (∀ c v, a ≠ .handler c v) → (s.wg w).hrun = none → (s.wg w).handlerFor r.cause = none →
      t = (s.stopStream a).abortWg w [r]) ∧
    (∀ c v, a = .handler c v → t = s.abortWg ⟨c, v⟩ [(s.wg ⟨c, v⟩).hcause, r]) ∧
    ∀ c, a = .grid c → t =
      if r.cause = 0x12 then
        ((s.modSeq a Seq.stop).modGrid c fun g => { g with scriptStop := true }).postEvent (s.grid c).pq 6 0 (s.grid c).nodeid r
      else (s.modSeq a Seq.stop).modGrid c fun g => { g with failing := g.failing ++ [(3, r)] }

/-- R121, R140, R306, R309, R310: RESUME .pr of the handler's own group, when it handles a precise fault of its group's
stream or of the workgroup or pitch sequencer and no other handler waits, ends the handler and restarts the faulting
stream at its word, or, after TRAP, at the next word. -/
def Obligations.ResumeRestartsTheFaultingStream : Prop :=
  ∀ (s : State) (g : GrpId) (a : Agent),
    let t := s.resumePr g
    let q := s.seq a
    Handles s g a →
      (t.wg g.wg).hrun = none ∧ (t.wg g.wg).freg = [] ∧ (t.seq (.handler g.c g.w)) = {} ∧
        (t.seq a).run = .running ∧ (t.seq a).pc = (if (s.wg g.wg).hcause.cause = 0x17 then q.pc + 4 else q.pc) ∧
        ∀ l n, (t.seq a).readReg l n = q.readReg l n

/-- R300, R302, R305, R306: the table names the handler of a cause, and a fault enters it. -/
def Obligations.AFaultEntersTheHandlerOfItsCause : Prop :=
  HandlerTableNamesTheHandler ∧ AFaultEntersTheHandler

end

namespace Sys2Proof.Claims

open Sys2Proof.Machine

/-- The next turn of `s` is `t`, and `s0` is the state in which it runs. -/
def NextTurn (s : State) (t : Turn) (s0 : State) : Prop := s.nextTurn = some (t, s0)

/-- `u` is `t` but for when the values of registers were known (R291). -/
def SameButKnown (t u : State) : Prop :=
  { u with seqs := t.seqs, groups := t.groups } = t ∧ (∀ a, { u.seq a with known := (t.seq a).known } = t.seq a) ∧
    ∀ g, { u.group g with knownV := (t.group g).knownV, knownQ := (t.group g).knownQ } = t.group g

/-- What a lane word of fragment `x` works with in `s`. -/
def laneEnvOf (s : State) (g : GrpId) (x : Frag) (w : LaneW) : LaneEnv :=
  { g := g, f := x.fid, y := s.group g, x := x, act := lanesOf ((s.group g).acting x.lanes w), stream := s.seq g.stream }

/-- Words written out from R46 to R64 (control words) and what they are. -/
def controlSamples : List (Nat × Instr) :=
  [(0x4E000002, .loopi 4 0 2),          -- K11 loop.gd lc0, 2
   (0x14104080, .addi 1 1 128),         -- K13 addi s1, s1, 128
   (0x52003FFE, .next 4 0 0x3FFE),      -- K14 next.gd lc0, -2
   (0x04508300, .add 5 2 3),            -- MAJOR 0x01, d 5, a 2, b 3, FN 0
   (0x0C508308 + 2, .cmpN 5 2 3 2),     -- MAJOR 0x03, FN[3] 1, FN[2:0] lt
   (0x3C200011, .rdsr 2 0x011),         -- rdsr s2, LEAD
   (0xAEA00000, .phase 5 1),            -- SCOPE 101 dv, KIND 01 rel
   (0x80000007, .trap 7)]

/-- Lane words by CLASS and OP (R49, R61 to R64) with every other field zero: the 96 bits and the instruction. -/
def laneSamples : List (Nat × Instr) :=
  [(0x00000001, .laneAdd {}),                                     -- class 00, OP 0x01
   (0x40000001, .ld {}),                                          -- class 01, OP 0x01
   (0x80000001, .sclaim {}),                                      -- class 10, OP 0x01
   (0xC0000003, .lend {}),                                        -- class 11, OP 0x03
   (0x00000020 + 5 * 2 ^ 16 + 3 * 2 ^ 23 + 4 * 2 ^ 32 + 10 * 2 ^ 46,
     .fadd { vd := 5, va := 3, vb := 4, ty := 10 })]

end Sys2Proof.Claims

section
open Sys2Proof Sys2Proof.Machine Sys2Proof.Claims

/-- Decoding the bytes of a well-formed instruction gives the instruction, with every operand at every value, for every
instruction of the table that has an encoding (R46 to R64). -/
def Obligations.DecodeOfEncodeIsTheInstruction : Prop := ∀ i, Sys2Proof.Laws.RoundTrip.Statement i

/-- Bytes that decode are the encoding of what they decode to: no bit of a word is ignored, and no two words decode to one
instruction (R46 to R64). -/
def Obligations.EveryDecodedWordIsAnEncoding : Prop :=
  ∀ (bs : List Byte) (i : Instr), decode bs = .ok i → encode i = bs

/-- Words written out from the encoding tables decode to the instructions they stand for (R46 to R64, R359). -/
def Obligations.SampleWordsDecode : Prop :=
  (∀ p ∈ controlSamples, decode (toBytes 4 p.1) = .ok p.2) ∧ ∀ p ∈ laneSamples, decode (toBytes 12 p.1) = .ok p.2

/-- A step whose turn is the next control word of a ready sequencer fetches the word at the pc, inside the section (R435),
and, when it decodes and its windows let it issue (R56, R57), runs `exec` of the instruction in the state in which the
windows are one word shorter; a word that cannot issue yet leaves the fetched state, its sequencer Waiting at it (R260), and
so does a fault that must wait for earlier words (R67). With no word outstanding the step is `exec` itself, and notes when
the registers that the word wrote were known (R291). A word that fails a check of R65 takes its exception, whatever it might
have waited for. -/
def Sys2Proof.Claims.AStepRunsTheDecodedControlWord : Prop :=
  ∀ (s s0 s1 : State) (a : Agent) (l : Lvl) (n : Nat),
    let q := (s0.seq a)
    let sx : State := { s0.notFresh a with cur := a, stalled := false }
    NextTurn s (.word a) s0 → s0.ready a = true → lvlOf a = some l → s0.inSection a q.pc = true →
    sx.fetch a q.pc 1 = .ok (s1, n) → q.out.any (·.left == 0) = false →
    (∀ b, ctlCheck l n = some b → step s = sx.settle a false (.next (s1.faultBad b fun _ => n))) ∧
    ∀ i, ctlCheck l n = none → decode (toBytes 4 n) = .ok i → s1.violOf a (s1.seq a).pc = none → gateOf (s1.seq a).out (ctlRefs l i).1 (ctlRefs l i).2 (s1.ctlBytes a l i) (s1.seq (s1.ownOf a)).dbg = .go →
    s1.ctlLogFull a i = false → (endsBlock i = true → (s1.seq a).out = []) →
      let sr := (s1.opened a).modSeq a fun q => { q with atEnd := false }
      let learned (t : State) : State := s1.learned t a (ctlRefs l i).1 (ctlRefs l i).2 (scalarShape i).isSome
      step s = s1.settle a (i == .abort) (s1.learn a (ctlRefs l i).1 (ctlRefs l i).2 (scalarShape i).isSome (exec i sr)) ∧
        (∀ t, SameButKnown t (learned t)) ∧
        ∀ t, s1.outs a = [] → exec i sr = .next t →
          step s = .next (if t.stalled then s1.modSeq a fun q => { q with blocked := true } else learned t)

/-- The same for a lane word of a ready fragment: with no word of the fragment outstanding, in its turn at a word that
waits for no other fragment (R174) nor tile word (R215) and finds room in the operand log and the matrix window, the step is
`exec`, past a convergence word no longer of a faulted fragment (R174), after the cut of a flush point (R240), where a re-run does not hold its slot back (R424). -/
def Sys2Proof.Claims.AStepRunsTheDecodedLaneWord : Prop :=
  ∀ (s s0 s1 : State) (c w g f n : Nat) (x : Frag) (i : Instr) (cl op : Nat) (lw : LaneW),
    let a : Agent := .lane c w g f
    let sx : State := { s0 with cur := a, stalled := false }
    NextTurn s (.word a) s0 → s0.ready a = true → (s0.group ⟨c, w, g⟩).frag f = some x → s0.inSection a x.pc = true →
    sx.fetch a x.pc 3 = .ok (s1, n) → decode (toBytes 12 n) = .ok i → laneCode i = some (cl, op, lw) →
    laneCheck (s0.grid c).k.vregs (n / 2 ^ 30 % 4) (n % 256) (unpackLane n) = none →
    s1.group ⟨c, w, g⟩ = s0.group ⟨c, w, g⟩ → x.fid = f → x.out = [] → x.st = .runnable →
    (s1.group ⟨c, w, g⟩).log.length < 4 → (s1.group ⟨c, w, g⟩).unretired.length < 16 →
    (converges cl op = true → (s1.group ⟨c, w, g⟩).partners x = []) → s1.violOf a x.pc = none →
      let gi : GrpId := ⟨c, w, g⟩
      let s2 := if flushWord (s1.wg gi.wg).rules (laneEnvOf s1 gi x lw) i cl op then s1.cut gi else s1
      let learned (t : State) : State := s2.learned t a (laneRefs cl op lw).1 (laneRefs cl op lw).2 (cl == 1)
      s2.releaseWaits gi i = false → ∀ s3, s2.picked gi f = some s3 →
        let s4 := if converges cl op then s3.modGroup gi fun y => y.modFrag f fun z => { z with fault := false } else s3
        (∀ t, SameButKnown t (learned t)) ∧
        ∀ t, exec i (s4.opened a) = .next t → step s = .next (if t.stalled then s2 else learned t)

/-- An event turn runs `exec` of the event; the clock of every step goes on by one, and the turn leaves the plan. -/
def Sys2Proof.Claims.AStepRunsAnEvent : Prop :=
  ∀ (s s0 : State) (e : Instr), NextTurn s (.event e) s0 →
    (isEvent e = true → step s = exec e s0) ∧ s0 = { s with plan := s.plan.tail, clock := s.clock + 1 } ∧
      (s.plan ≠ [] → s.plan.head? = some (.event e))

/-- No instruction is refused and none ends the run: each answers a next state, in every state. -/
def Sys2Proof.Claims.EveryInstructionAnswersANextState : Prop := ∀ (i : Instr) (s : State), ∃ t, exec i s = .next t

/-- R401, R429: a step stops exactly where a boot was stopped and the turn is neither a device reset nor one of the host's
(a snoop or request, which is answered, or a wake, which is not accepted); no step is refused. -/
def Sys2Proof.Claims.OnlyAStoppedBootStops : Prop :=
  ∀ (s : State), ((∃ f, step s = .fault f) ↔
      s.trust.bootStopped = true ∧ (s.plan.headD s.autoTurn).outside = false) ∧ ∀ r, step s ≠ .refused r

/-- R2, R3, R403, R422: after reset nothing is launched, no queue is configured, memory lists nothing, nothing is
poisoned, each of the four dies has all of its 1,600 draw units, no way is reserved, and the boot has not stopped. That
the boot accepted its images is the model's choice (log entry 8), and so is memory that reads zero (log entry 1). -/
def Obligations.ResetLeavesNothingLaunched : Prop :=
  let s := State.reset
  s.seqs = [] ∧ s.grids = [] ∧ s.wgs = [] ∧ s.groups = [] ∧ s.mem = [] ∧ s.poison = [] ∧ s.fe.queues = [] ∧
    s.dies.length = 4 ∧ (∀ d, d < 4 → (s.die d).poolFree = 1600 ∧ (s.die d).rways = 0 ∧ (s.die d).drawQ = []) ∧
    s.trust.bootStopped = false

/-- The canonical form of memory holds at reset. -/
def Obligations.ResetMemoryIsCanonical : Prop := Inv State.reset

/-- Every step keeps the canonical form of memory: addresses strictly rising, and no byte listed that reads as an
unlisted one. -/
def Obligations.EveryStepKeepsMemoryCanonical : Prop := ∀ (s t : State), Inv s → step s = .next t → Inv t

/-- R6, R359: a number written in `k` bytes at an address reads back, lowest byte first; every byte outside is unchanged,
and the canonical form is kept. -/
def Obligations.MemoryReadsBackWhatIsWritten : Prop :=
  ∀ (s : State) (pa k n : Nat),
    let t := s.writeMem pa (toBytes k n)
    t.memNat pa k = n % 256 ^ k ∧ (∀ j, j < k → t.memNat (pa + j) 1 = n / 256 ^ j % 256) ∧
      (∀ x, x < pa ∨ pa + k ≤ x → t.memNat x 1 = s.memNat x 1) ∧ (Inv s → Inv t) ∧
      { t with mem := s.mem, poison := s.poison } = s

/-- R282, R284, R285: a group reads back at once what it stores to a tracked line outside the wake apertures, whatever copies
are kept (in a node that is not re-run). That no reader of another core sees it before it performs at its home is the model's
choice (log entry 14). -/
def Sys2Proof.Claims.AGroupReadsItsOwnStore : Prop :=
  ∀ (s : State) (g : GrpId) (pa n v since : Nat) (lines : List Nat), pa / 128 = (pa + n - 1) / 128 → 0 < n →
    plainRun s g.c → s.aperture? pa = none →
    let t := s.writeAt g (.mem pa true lines) n v
    (t.readAt g (.mem pa true lines) n since).2 = v % 256 ^ n ∧
      (∀ x, t.memNat x 1 = s.memNat x 1) ∧
      ∀ h : WgId, h ≠ g.wg → (s.wg h).core ≠ (s.wg g.wg).core → ∀ x, t.coreByte h x = s.coreByte h x

/-- R285, R287: a group that has read a line in its phase goes on reading what it saw when the line is invalidated and
written at its home. -/
def Sys2Proof.Claims.ASnapshotSurvivesAnotherWrite : Prop :=
  ∀ (s : State) (g : GrpId) (x pa : Nat) (bs : List Byte),
    let c := (s.wg g.wg).core
    s.residentOn c = some g.wg → g.g ∈ (s.dirEnt (lineOf x)).bitsOf c →
      ((s.invalidate c (lineOf x)).writeMem pa bs).grpByte g x = s.grpByte g x

/-- R287, R288: an acquire, at any scope, drops every stale-pending copy of the group and its read bits, and keeps those of every other
group. -/
def Sys2Proof.Claims.AnAcquireEndsTheSnapshot : Prop :=
  ∀ (s : State) (g : GrpId) (scope line : Nat),
    let t := s.acquire g scope
    (t.wg g.wg).staleOf g.g line = none ∧
      (∀ h, h ≠ g.g → ((t.wg g.wg).staleOf h line).map (·.data) = ((s.wg g.wg).staleOf h line).map (·.data)) ∧
      (∀ v, v ≠ g.wg → t.wg v = s.wg v) ∧
      g.g ∉ (t.dirEnt line).bitsOf (s.wg g.wg).core ∧ t.mem = s.mem ∧ t.pend = s.pend

/-- A step runs the instruction of its turn: a control word, a lane word or an event. -/
def Obligations.AStepRunsTheDecodedInstruction : Prop :=
  AStepRunsTheDecodedControlWord ∧ AStepRunsTheDecodedLaneWord ∧ AStepRunsAnEvent

/-- Every instruction answers a next state, in every state; only a step after a stopped boot stops (R429). -/
def Obligations.OnlyAStoppedBootEndsARun : Prop :=
  EveryInstructionAnswersANextState ∧ OnlyAStoppedBootStops

/-- R282, R285, R287, R288: a group sees its own stores at once, keeps what it read in its phase, and an acquire ends that. -/
def Obligations.SnapshotsLastUntilAnAcquire : Prop :=
  AGroupReadsItsOwnStore ∧ ASnapshotSurvivesAnotherWrite ∧ AnAcquireEndsTheSnapshot

end

namespace Sys2Proof.Claims

open Sys2Proof.Machine

/-! ### Lane words -/

/-- Lane `j` acts: it is a lane of the fragment and the guard passes (R16, R144). -/
def LaneActs (e : LaneEnv) (w : LaneW) (j : Nat) : Prop :=
  e.x.lanes.getLsbD j = true ∧ (e.y.mask w.guard.toNat).getLsbD j = !w.gneg

/-- The fragment `e.f` of the group `e.g` executes the lane word `i` with parcels `w`; the word passes the checks of R65
for the registers of the kernel, and no register that it reads is in error (R415). `e` names the group, the fragment, the
scalar stream and the acting lanes, ascending. -/
structure LaneLegal (i : Instr) (w : LaneW) (s : State) (e : LaneEnv) : Prop where
  cur : s.cur = .lane e.g.c e.g.w e.g.g e.f
  group : e.y = s.group e.g
  frag : e.y.frag e.f = some e.x
  stream : e.stream = s.seq e.g.stream
  acts : e.act.Pairwise (· < ·) ∧ ∀ j, j ∈ e.act ↔ LaneActs e w j
  checks : ∀ c o v, laneCode i = some (c, o, v) → v = w ∧ laneCheck (s.grid e.g.c).k.vregs c o w = none
  clean : ∀ c o v, laneCode i = some (c, o, v) → ∀ r ∈ (laneRefs c o w).1,
    match r with
    | .s n => n ∉ e.stream.badRegs
    | .q n => n ∉ e.y.badQ
    | .v n => n ∉ e.y.badV
    | _ => True

/-- The width of a lane type (R52). -/
def typeWidth (t : Nat) : Nat := [8, 16, 32, 64, 8, 16, 32, 64, 16, 16, 32, 32, 32, 32, 32].getD t 32

/-- How a value of a type stands in a 32-bit register (R146, R73). -/
def regOf (t v : Nat) : W32 :=
  match t with
  | 0 => (BitVec.ofNat 8 v).signExtend 32
  | 1 => (BitVec.ofNat 16 v).signExtend 32
  | 4 => (BitVec.ofNat 8 v).zeroExtend 32
  | 5 | 8 | 9 => (BitVec.ofNat 16 v).zeroExtend 32
  | 13 => BitVec.ofNat 32 v &&& 0xFFFFE000
  | _ => BitVec.ofNat 32 v

/-- The vector registers after the acting lanes wrote register `d`, or the pair of `d`, with value `val j` of type
`ty j`. -/
def writtenV (e : LaneEnv) (d : Nat) (ty val : Nat → Nat) (r j : Nat) : W32 :=
  if j ∈ e.act then
    if ty j = 3 ∨ ty j = 7 then
      if r = d then BitVec.ofNat 32 (val j) else if r = d + 1 then BitVec.ofNat 32 (val j / 2 ^ 32) else e.y.vreg r j
    else if r = d then regOf (ty j) (val j) else e.y.vreg r j
  else e.y.vreg r j

/-- The frame of a lane word that writes registers or masks: the registers are `v`, the masks `q`, the flags of FFLAGS
gain those of `fl` in the acting lanes, the fragment goes to the next word, and everything else is unchanged, in the
group and in the machine. A register in error loses its error only by a write of all of it. -/
structure LaneWrote (s t : State) (e : LaneEnv) (v : Nat → Nat → W32) (q : Nat → W32) (fl : Nat → Nat) : Prop where
  next : ∃ u : State, t = u.goTo e.g e.f (e.x.pc + 12) ∧ { u with groups := s.groups } = s ∧
    (∀ h, h ≠ e.g → u.group h = s.group h) ∧
    (let y := u.group e.g
     { y with v := e.y.v, q := e.y.q, badV := e.y.badV, badQ := e.y.badQ, fflags := e.y.fflags } = e.y ∧
     (∀ r ∈ y.badV, r ∈ e.y.badV) ∧ ∀ r ∈ y.badQ, r ∈ e.y.badQ)
  vregs : ∀ r j, j < 32 → (t.group e.g).vreg r j = v r j
  masks : ∀ n, n < 8 → (t.group e.g).mask n = q n
  flags : ∀ k, (t.group e.g).fflags.testBit k = true ↔
    e.y.fflags.testBit k = true ∨ ∃ j ∈ e.act, (fl j).testBit k = true

/-- A word that writes register `d` (or its pair), with `val j` of type `ty` and flags `fl j` in each acting lane. -/
def LaneWroteReg (s t : State) (e : LaneEnv) (d ty : Nat) (val fl : Nat → Nat) : Prop :=
  LaneWrote s t e (writtenV e d (fun _ => ty) val) e.y.mask fl

/-- A word that writes bit `j` of mask `d` in each acting lane; q0 is never written (R30). -/
def LaneWroteMask (s t : State) (e : LaneEnv) (d : Nat) (bit : Nat → Bool) (fl : Nat → Nat) : Prop :=
  ∃ m : W32, LaneWrote s t e e.y.vreg (fun n => if n = d ∧ d ≠ 0 then m else e.y.mask n) fl ∧
    ∀ j, j < 32 → m.getLsbD j = if j ∈ e.act then bit j else (e.y.mask d).getLsbD j

/-- The low `n` bits of an integer. -/
def lowBits (n : Nat) (x : Int) : Nat := (x % 2 ^ n).toNat

/-- `x` held within the range of an integer type. -/
def clampTo (sg : Bool) (n : Nat) (x : Int) : Nat :=
  let lo : Int := if sg then -2 ^ (n - 1) else 0
  let hi : Int := if sg then 2 ^ (n - 1) - 1 else 2 ^ n - 1
  lowBits n (if x < lo then lo else if hi < x then hi else x)

/-- The integer and bit words of R149 and R150: the word, and its result from the width, the signedness, and the sources
in VA, VB and VC at that width. -/
def integerWords (w : LaneW) : List (Instr × (Nat → Bool → Nat → Nat → Nat → Nat)) :=
  let two (n : Nat) (x : Int) := lowBits n x
  [(.laneAdd w, fun n _ a b _ => two n (a + b)),
   (.laneSub w, fun n _ a b _ => two n ((a : Int) - b)),
   (.laneMul w, fun n _ a b _ => two n (a * b)),
   (.mulh w, fun n sg a b _ => two n (asInt sg n a * asInt sg n b / 2 ^ n)),
   (.mad w, fun n _ a b c => two n (a * c + b)),
   (.adds w, fun n sg a b _ => clampTo sg n (asInt sg n a + asInt sg n b)),
   (.subs w, fun n sg a b _ => clampTo sg n (asInt sg n a - asInt sg n b)),
   (.div w, fun n sg a b _ => if b = 0 then 2 ^ n - 1 else two n ((asInt sg n a).tdiv (asInt sg n b))),
   (.rem w, fun n sg a b _ => if b = 0 then a else two n ((asInt sg n a).tmod (asInt sg n b))),
   (.laneAnd w, fun n _ a b _ => ofBits n fun i => a.testBit i && b.testBit i),
   (.laneOr w, fun n _ a b _ => ofBits n fun i => a.testBit i || b.testBit i),
   (.laneXor w, fun n _ a b _ => ofBits n fun i => a.testBit i ^^ b.testBit i),
   (.not w, fun n _ _ b _ => ofBits n fun i => !b.testBit i),
   (.lop3 w, fun n _ a b c => ofBits n fun i =>
     w.p2.getLsbD (4 * (a.testBit i).toNat + 2 * (c.testBit i).toNat + (b.testBit i).toNat)),
   (.laneShl w, fun n _ a b _ => two n (a * 2 ^ (b % n) : Nat)),
   (.laneShr w, fun n _ a b _ => a / 2 ^ (b % n)),
   (.laneSar w, fun n _ a b _ => two n (asInt true n a / 2 ^ (b % n))),
   (.rot w, fun n _ a b _ => ofBits n fun i => a.testBit ((i + n - b % n) % n)),
   (.laneMin w, fun n sg a b _ => if asInt sg n b < asInt sg n a then b else a),
   (.laneMax w, fun n sg a b _ => if asInt sg n a < asInt sg n b then b else a),
   (.abs w, fun n sg _ b _ => two n ((asInt sg n b).natAbs : Nat)),
   (.neg w, fun n _ _ b _ => two n (-(b : Int))),
   (.clz w, fun n _ _ b _ => ((List.range n).takeWhile fun i => !b.testBit (n - 1 - i)).length),
   (.popc w, fun n _ _ b _ => ((List.range n).filter b.testBit).length),
   (.brev w, fun n _ _ b _ => ofBits n fun i => b.testBit (n - 1 - i)),
   (.bext w, fun n sg a b _ =>
     let f := b % 256
     let l := min (b / 256 % 256) n
     let bit (i : Nat) : Bool := if f + i < n then a.testBit (f + i) else sg && a.testBit (n - 1)
     if l = 0 then 0 else ofBits n fun i => if i < l then bit i else sg && bit (l - 1)),
   (.bins w, fun n _ a b c =>
     let f := b % 256
     let l := min (b / 256 % 256) n
     ofBits n fun i => if f ≤ i ∧ i < f + l then c.testBit (i - f) else a.testBit i)]

/-- The floating-point words of R153 to R156: the word and the operation on codes of one element, from the format, the
rounding, and the sources in VA, VB and VC. -/
def floatWords (w : LaneW) : List (Instr × (FF → Rnd → Nat → Nat → Nat → Nat × Nat)) :=
  let fn (h : Machine.Num → Machine.Num × Nat) : FF → Rnd → Nat → Nat → Nat → Nat × Nat :=
    fun f r _ b _ => fin1 f r (h (f.decode b)).1 (h (f.decode b)).2
  [(.fadd w, fun f r a b _ => fin1 f r (addNum r (f.decode a) (f.decode b))),
   (.fsub w, fun f r a b _ => fin1 f r (addNum r (f.decode a) (f.decode b).neg)),
   (.fmul w, fun f r a b _ => fin1 f r (mulNum (f.decode a) (f.decode b))),
   (.fma w, fun f r a b c => fin1 f r
     (fmaNum r (w.mod.getLsbD 0) (w.mod.getLsbD 1) (f.decode a) (f.decode c) (f.decode b))),
   (.fdiv w, fun f r a b _ => fin1 f r (divNum (f.decode a) (f.decode b)).1 (divNum (f.decode a) (f.decode b)).2),
   (.fmin w, fun f _ a b _ => fminCode f false a b),
   (.fmax w, fun f _ a b _ => fminCode f true a b),
   (.fabs w, fun f _ _ b _ => (signCode f 0 b b, 0)),
   (.fneg w, fun f _ _ b _ => (signCode f 1 b b, 0)),
   (.fsgn w, fun f _ a b _ => (signCode f 2 a b, 0)),
   (.frcp w, fn fun x => divNum (.fin { m := 1 }) x),
   (.frsq w, fn rsqrtNum),
   (.fsqrt w, fn fun x => (sqrtNum x, 0)),
   (.fexp2 w, fn fun x => (exp2Num x, 0)),
   (.flog2 w, fn log2Num),
   (.fsinp w, fn fun x => (sinpNum x, 0)),
   (.fcosp w, fn fun x => (cospNum x, 0)),
   (.ftanh w, fn fun x => (tanhNum x, 0)),
   (.frnd w, fun f r _ b _ => fin1 f r (rndNum r (f.decode b)).1 (rndNum r (f.decode b)).2)]

/-- An operation applied to the value, or to both halves of a packed pair (R91). -/
def halves (t : Nat) (f : Nat → Nat → Nat → Nat × Nat) (a b c : Nat) : Nat × Nat :=
  if t = 11 ∨ t = 12 then
    let lo := f (a % 65536) (b % 65536) (c % 65536)
    let hi := f (a / 65536) (b / 65536) (c / 65536)
    (lo.1 + 65536 * hi.1, lo.2 ||| hi.2)
  else f a b c

/-- Lane `i` of the fragment. -/
def inFrag (e : LaneEnv) (i : Nat) : Bool := e.x.lanes.getLsbD i

/-- A register operand, whole: the pair of a 64-bit type or the 32 bits. -/
def whole (e : LaneEnv) (t f j : Nat) : Nat :=
  if t = 3 ∨ t = 7 then (e.y.vreg f j).toNat + 2 ^ 32 * (e.y.vreg (f + 1) j).toNat else (e.y.vreg f j).toNat

/-- The steps of REDC and SCAN over a list of values, left to right: value and flags after the last (R165). -/
def chain (t op : Nat) (r : Rnd) : List Nat → Nat × Nat
  | [] => (identityT t op, 0)
  | b :: bs => bs.foldl (fun (a : Nat × Nat) x => ((redcStep t op r a.1 x).1, a.2 ||| (redcStep t op r a.1 x).2)) (b, 0)

/-- Element `k` of width `n` of a register. -/
def elemOf (x n k : Nat) : Nat := x / 2 ^ (n * k) % 2 ^ n

/-- A number with its bits `[lo + n - 1 : lo]` replaced. -/
def withField (x lo n v : Nat) : Nat :=
  ofBits 32 fun i => if lo ≤ i ∧ i < lo + n then v.testBit (i - lo) else x.testBit i

/-- The moves, permutations, reductions and counts of R158 and R162 to R169 that write a vector register: the word, its
destination type, and value and flags in a lane. -/
def moveWords (w : LaneW) (e : LaneEnv) : List (Instr × Nat × (Nat → Nat × Nat)) :=
  let t := w.ty.toNat
  let op := w.mod.toNat % 8
  let q := e.y.mask w.vb.toNat
  let lead := e.act.headD 0
  [(.fclass w, 6, fun j => halves t (fun _ b _ => (classCode (tyFF t) b, 0)) 0 (e.b w j) 0),
   (.laneMov w, t, fun j => (whole e t w.vb.toNat j, 0)),
   (.laneMovi w, t, fun _ => (if t = 3 then (w.p2.signExtend 64).toNat else w.p2.toNat, 0)),
   (.movs w, t, fun j => (e.b w j, 0)),
   (.laneid w, 6, fun j => (j, 0)),
   (.shfl w, t, fun j =>
     let i := if w.mod.getLsbD 0 then j ^^^ (e.b w j % 32) else e.b w j % 32
     (whole e t w.va.toNat (if inFrag e i then i else j), 0)),
   (.bcast w, t, fun _ =>
     let i := e.b w lead % 32
     (whole e t w.va.toNat (if inFrag e i then i else lead), 0)),
   (.redc w, t, fun _ => chain t op (e.y.rnd w) (e.act.map (e.b w))),
   (.scan w, t, fun j =>
     let below := e.act.filter fun k => k < j ∨ (k = j ∧ w.mod.getLsbD 3 = false)
     chain t op (e.y.rnd w) (below.map (e.b w))),
   (.qpop w, 6, fun _ => (((List.range 32).filter fun i => q.getLsbD i).length, 0)),
   (.qff w, 6, fun _ => (((List.range 32).takeWhile fun i => !q.getLsbD i).length, 0))]

/-- Conversion, packing and unpacking (R159 to R161): the word, its destination type, and value and flags in a lane. -/
def packWords (w : LaneW) (e : LaneEnv) (ct : CodeTab) : List (Instr × Nat × (Nat → Nat × Nat)) :=
  let t := w.ty.toNat
  let f := w.fmt.toNat
  let k := w.p2.toNat % 32
  let mode := w.mod.toNat % 4
  let r := e.y.rnd w
  let b32 (j : Nat) := e.y.operandB e.stream 14 w j
  let old (j : Nat) := (e.y.vreg w.vd.toNat j).toNat
  let sg := decide (t < 4)
  let nar (n x : Nat) : Nat := if w.sat then clampTo sg n (asInt sg 32 x) else x % 2 ^ n
  [(.cvt w, if mode = 2 then 14 else if mode = 1 then t else f % 16, fun j =>
     if mode = 1 then
       tyEncode t r w.sat (fmtIsInt f)
         (fmtDecode (fun i => (cget 0 ct.ent (256 * ct.cur + i)).toNat) f (elemOf (b32 j) (fmtBits f) k))
     else if mode = 2 then
       let p := fmtEncode f r w.sat (tyIsInt t) (tyDecode t (e.b w j))
       (withField (old j) (fmtBits f * k) (fmtBits f) p.1, p.2)
     else tyEncode (f % 16) r w.sat (tyIsInt t) (tyDecode t (e.b w j))),
   (.pack w, 14, fun j =>
     let a := (e.y.vreg w.va.toNat j).toNat
     if t = 11 ∨ t = 12 then (a % 65536 + 65536 * (b32 j % 65536), 0)
     else if t = 1 ∨ t = 5 then (nar 16 a + 65536 * nar 16 (b32 j), 0)
     else (withField (old j) (if w.mod.getLsbD 0 then 16 else 0) 16 (nar 8 a + 256 * nar 8 (b32 j)), 0)),
   (.unpack w, 14, fun j =>
     if t = 11 ∨ t = 12 then fin1 ffF32 .rne ((tyFF t).decode (elemOf (b32 j) 16 mode))
     else
       let n := if t = 1 ∨ t = 5 then 16 else 8
       (lowBits 32 (asInt sg n (elemOf (b32 j) n mode)), 0))]

/-- The words that write a mask (R152, R157, R167, R169): the word, the bit of a lane, and its flags. -/
def maskWords (w : LaneW) (e : LaneEnv) : List (Instr × (Nat → Bool) × (Nat → Nat)) :=
  let t := w.ty.toNat
  let n := typeWidth t
  let cc := w.mod.toNat % 8
  let u := w.mod.getLsbD 3
  let holds (x y : Int) : Bool :=
    match cc with
    | 0 => x = y
    | 1 => x ≠ y
    | 2 => x < y
    | 3 => x ≤ y
    | 4 => y < x
    | _ => y ≤ x
  let fc := fcmpCode (tyFF t) cc u
  let a (j : Nat) := (e.y.mask w.va.toNat).getLsbD j
  let b (j : Nat) := (e.y.mask w.vb.toNat).getLsbD j
  let none (_ : Nat) := 0
  [(.laneCmp w, fun j => holds (asInt (decide (t < 4)) n (e.a w j)) (asInt (decide (t < 4)) n (e.b w j)), none),
   (.fcmp w,
     fun j => if t = 11 ∨ t = 12 then (fc (e.a w j % 65536) (e.b w j % 65536)).1 && (fc (e.a w j / 65536) (e.b w j / 65536)).1
       else (fc (e.a w j) (e.b w j)).1,
     fun j => if t = 11 ∨ t = 12 then (fc (e.a w j % 65536) (e.b w j % 65536)).2 ||| (fc (e.a w j / 65536) (e.b w j / 65536)).2
       else (fc (e.a w j) (e.b w j)).2),
   (.qand w, fun j => a j && b j, none), (.qor w, fun j => a j || b j, none), (.qxor w, fun j => a j ^^ b j, none),
   (.qnot w, fun j => !b j, none), (.qmov w, b, none)]

end Sys2Proof.Claims

section
open Sys2Proof Sys2Proof.Machine Sys2Proof.Claims

/-- R145, R50, R29: what the sources of a lane word read, at the width of its type: a register or a pair in VA and VC; in
VB a register, or with BSC the same scalar register or immediate in every lane. -/
def Sys2Proof.Claims.LaneOperandsAreReadByType : Prop :=
  ∀ (e : LaneEnv) (w : LaneW) (j : Nat), w.ty.toNat ≤ 14 →
    let n := typeWidth w.ty.toNat
    let t := w.ty.toNat
    e.a w j = whole e t w.va.toNat j % 2 ^ n ∧ e.c w j = whole e t w.vc.toNat j % 2 ^ n ∧
      (w.bsc = false → e.b w j = whole e t w.vb.toNat j % 2 ^ n) ∧
      (w.bsc = true → w.vb.toNat ≠ 0x7F → e.b w j = (e.stream.readReg .S w.vb.toNat).toNat % 2 ^ n) ∧
      (w.bsc = true → w.vb.toNat = 0x7F →
        e.b w j = (if t = 3 then (w.p2.signExtend 64).toNat else w.p2.toNat) % 2 ^ n)

/-- R149, R150 with R144 and R146: each integer and bit word writes its result to VD in the acting lanes, raises no flag,
and changes nothing else. -/
def Sys2Proof.Claims.IntegerLaneWordsWriteTheTableValue : Prop :=
  ∀ (w : LaneW) (s : State) (e : LaneEnv), ∀ p ∈ integerWords w, LaneLegal p.1 w s e →
    let n := typeWidth w.ty.toNat
    ∃ t, exec p.1 s = .next t ∧
      LaneWroteReg s t e w.vd.toNat w.ty.toNat
        (fun j => p.2 n (decide (w.ty.toNat < 4)) (e.a w j) (e.b w j) (e.c w j)) (fun _ => 0)

/-- R153 to R156 with R91, R92, R144 and R146: each floating-point word writes the encoded exact result of its operation,
element by element for a packed type, ORs its flags into FFLAGS, and changes nothing else. For fexp2, flog2, fsinp, fcosp and
ftanh that result is the model's own function, within the bound of the rule, not the mathematical one (log entry 10). -/
def Obligations.FloatLaneWordsWriteTheirResult : Prop :=
  ∀ (w : LaneW) (s : State) (e : LaneEnv), ∀ p ∈ floatWords w, LaneLegal p.1 w s e →
    let t0 := w.ty.toNat
    let r (j : Nat) := halves t0 (p.2 (tyFF t0) (e.y.rnd w)) (e.a w j) (e.b w j) (e.c w j)
    ∃ t, exec p.1 s = .next t ∧ LaneWroteReg s t e w.vd.toNat t0 (fun j => (r j).1) (fun j => (r j).2)

/-- R158 to R167 and R169: classes, conversions, packing, moves, shuffles, reductions, scans, ballots and mask counts
write their value in the acting lanes with their flags; SEL copies a register operand whole and reads any other at TYPE
(R151). Nothing else changes. NX beside the NV of a value outside an integer range is the model's reading (log entry 49),
and a reduction of one lane that leaves a NaN as it stands its choice (log entry 50). -/
def Obligations.MovesConversionsAndReductionsWriteTheirResult : Prop :=
  ∀ (w : LaneW) (s : State) (e : LaneEnv),
    (∀ p ∈ moveWords w e ++ packWords w e (agetD {} (s.wg e.g.wg).cts (w.p2.toNat / 32 % 8)), LaneLegal p.1 w s e →
      ∃ t, exec p.1 s = .next t ∧ LaneWroteReg s t e w.vd.toNat p.2.1 (fun j => (p.2.2 j).1) (fun j => (p.2.2 j).2)) ∧
    (LaneLegal (.vote w) w s e → w.mod.toNat % 4 = 2 →
      ∃ t, exec (.vote w) s = .next t ∧ LaneWroteReg s t e w.vd.toNat 6
        (fun _ => ofBits 32 fun i => decide (i ∈ e.act) && (e.y.mask w.vb.toNat).getLsbD i) (fun _ => 0)) ∧
    (LaneLegal (.laneSel w) w s e →
      let t0 := w.ty.toNat
      let copy := if t0 = 3 ∨ t0 = 7 then t0 else 14
      let c (j : Nat) := (e.y.mask w.vc.toNat).getLsbD j
      ∃ t, exec (.laneSel w) s = .next t ∧ LaneWrote s t e
        (writtenV e w.vd.toNat (fun j => if c j = true ∨ w.bsc = false then copy else t0)
          (fun j => if c j then whole e t0 w.va.toNat j else if w.bsc then e.b w j else whole e t0 w.vb.toNat j))
        e.y.mask (fun _ => 0))

/-- R152, R157, R167 and R169 with R30: comparisons, votes and mask words write the bits of the acting lanes in their mask,
OR their flags into FFLAGS, and change nothing else. -/
def Obligations.ComparisonsVotesAndMaskWordsWriteTheirMask : Prop :=
  ∀ (w : LaneW) (s : State) (e : LaneEnv),
    (∀ p ∈ maskWords w e, LaneLegal p.1 w s e →
      ∃ t, exec p.1 s = .next t ∧ LaneWroteMask s t e w.vd.toNat p.2.1 p.2.2) ∧
    (LaneLegal (.vote w) w s e → w.mod.toNat % 4 < 2 →
      let q := e.y.mask w.vb.toNat
      ∃ t, exec (.vote w) s = .next t ∧ LaneWroteMask s t e w.vd.toNat
        (fun _ => if w.mod.toNat % 4 = 0 then e.act.any fun j => q.getLsbD j else e.act.all fun j => q.getLsbD j)
        (fun _ => 0))

/-- R29, R50, R145 to R151: how lane operands are read, and what the integer and bit words write. -/
def Obligations.IntegerLaneWordsReadAndWriteByTheTable : Prop :=
  LaneOperandsAreReadByType ∧ IntegerLaneWordsWriteTheTableValue

end

namespace Sys2Proof.Claims

open Sys2Proof.Machine

/-- The word address a signed number of lane words away (R171). -/
def laneAway (pc : Nat) (d : BitVec 16) : Int := pc + 12 * d.toInt

/-- The join address of the fragment's innermost level, if it has one. -/
def innerJoin (e : LaneEnv) : Option Level := e.x.level.bind e.y.level

/-- The group after BR.ln with join address `j`: a new level, unless the innermost one has that address; and the level
(R171). -/
def withLevel (e : LaneEnv) (j : Nat) : Group × Nat :=
  match innerJoin e with
  | some L => if L.join = j then (e.y, L.lid) else opened
  | none => opened
where
  opened : Group × Nat :=
    ({ e.y with
        nextId := e.y.nextId + 1
        levels := e.y.levels ++ [{ lid := e.y.nextId, join := j, lanes := e.x.lanes, parent := e.x.level }]
        frags := e.y.frags.map fun z => if z.fid = e.x.fid then { z with level := some e.y.nextId } else z },
     e.y.nextId)

/-- The lane memory words that access memory: word, and OP (R180, R186). -/
def memoryWords (w : LaneW) : List (Instr × Nat) :=
  [(.ld w, 1), (.st w, 2), (.lds w, 3), (.sts w, 4), (.atom w, 5), (.atoms w, 6)]

/-- Bytes of an access by TYPE (R182, R186). -/
def accessBytes (t : Nat) : Nat := [1, 2, 4, 8, 1, 2, 4, 8, 4, 4, 4, 4, 4, 4, 4].getD t 4

/-- The accesses of the lanes, in ascending order, in lane `j` to `t`: the state after, and what each lane read (R184,
R187), each after the outstanding accesses of the group that share a byte with it (R57); none while a home cannot perform
one. `data` is the value stored or the operand, `va` the address, `new` what an atomic stores over an old value, `granules`
the granules that the lanes store whole (R416); the addresses were known at `since` (R291). -/
def laneAccesses (g : GrpId) (k : LKind) (n since waddr : Nat) (granules : List Nat) (data va : Nat → Nat)
    (new : Nat → Nat → Nat) : List (Nat × Target) → State → Option (State × List (Nat × Nat))
  | [], s => some (s, [])
  | (j, t) :: l, s =>
    (s.inOrder? g t n).bind fun u =>
      let p : Option (State × Nat) := match k with
        | .load => some (u.readAt g t n since)
        | .store => some (u.writeAt g t n (data j) (va j) waddr (2 ^ j) granules, 0)
        | .atomic => u.atomicAt g t n (new j)
      p.bind fun p => (laneAccesses g k n since waddr granules data va new l p.1).map fun r => (r.1, (j, p.2) :: r.2)

/-- The scope of a lane word's boundary by SC: one to another core's reservation is .pt whatever SC says (R185). -/
def laneBoundary (s : State) (e : LaneEnv) (w : LaneW) : Nat :=
  let sc := [2, 3, 5, 6].getD (w.p2.toNat / 64 % 4) 6
  if w.mod.toNat % 4 = 2 ∧ sc = 2 ∧ e.act.any (fun j =>
      match s.spTarget e.g.wg (e.y.vreg w.va.toNat j).toNat 1 with
      | some t => decide (t.1 ≠ e.g.wg)
      | none => false) then 3 else sc

/-- When the addresses of a lane word were known: as late as a register that it reads, or as its window (R291). -/
def laneSince (e : LaneEnv) (o : Nat) (w : LaneW) : Nat :=
  max (knownAt e.stream e.y (laneRefs 1 o w).1) (if w.mod.toNat % 4 = 0 then (e.y.window (w.p2.toNat % 8)).since else 0)

/-- The kind of a memory word by OP. -/
def memKind (o : Nat) : LKind := if o = 1 ∨ o = 3 then .load else if o = 2 ∨ o = 4 then .store else .atomic

/-- The address of lane `j`: form 10 an offset of the scratchpad space, form 01 a scalar base plus an offset, else the
window plus an offset; PROT where bits [63:57] are set or the window is unbound (R181). -/
def laneAt (e : LaneEnv) (w : LaneW) (j : Nat) : Addr :=
  let off := (e.y.vreg w.va.toNat j).toNat
  let win := e.y.window (w.p2.toNat % 8)
  let base := (e.stream.readReg .S w.vb.toNat).toNat
  if w.mod.toNat % 4 = 2 then .sp off
  else if w.mod.toNat % 4 = 1 then
    if 2 ^ 57 ≤ base ∨ 2 ^ 57 ≤ base + off then .bad 0x0A ((base + off) % 2 ^ 64) else .glob (base + off) none
  else if win.st = .unbound ∨ 2 ^ 57 ≤ win.vbase.toNat + off then .bad 0x0A (win.vbase.toNat + off)
  else .glob (win.vbase.toNat + off) (some win)

/-- A log entry of handle `h` holds the word `i` of address `e.x.pc` for the lanes `js` of fragment `f`: the values read
from VA, VB or the compare value, and VC, each lane's byte address, the scalar base of form 01, the lanes that wait for
service (R192). -/
structure HoldsOperands (e : LaneEnv) (i : Instr) (o : Nat) (w : LaneW) (h f : Nat) (js pages : List Nat) (z : LogEntry) :
    Prop where
  handle : z.handle = h
  word : z.word = i
  waddr : z.waddr = e.x.pc
  frag : z.frag = some f
  fresh : z.declined = false ∧ z.cancelled = false
  base : z.base = if w.mod.toNat % 4 = 1 then (e.stream.readReg .S w.vb.toNat).toNat else 0
  mask : ∀ j, j < 32 → (z.mask.testBit j = true ↔ j ∈ js)
  pages : ∀ j, j < 32 → (z.pageLanes.testBit j = true ↔ j ∈ pages)
  va : ∀ j ∈ js, cget 0 z.ops j = (e.y.vreg w.va.toNat j).toNat
  vb : ∀ j ∈ js,
    (5 ≤ o → w.p2.toNat / 256 % 16 = 9 → cget 0 z.ops (32 + j) = whole e w.ty.toNat w.vd.toNat j) ∧
    (w.p2.toNat / 256 % 16 ≠ 9 → cget 0 z.ops (32 + j) = z.base)
  vc : ∀ j ∈ js, cget 0 z.ops (64 + j) = if o = 1 ∨ o = 3 then 0 else whole e w.ty.toNat w.vc.toNat j
  addr : ∀ j ∈ js, cget 0 z.ops (96 + j) = (laneAt e w j).info

/-- What a lane memory word does, after the checks, in the lanes `ok` that passed: with lookahead 0 they perform, the word
acquires, and its registers are written by type; else what they share bytes with performs, and the word stays outstanding
with their accesses, held with their operands in `z` (R182 to R187, R280). The bytes that acting lanes store are noted for
item 4 of R243. `s0` is the state before the checks. None while a home cannot perform an access. -/
def lanesDone (s0 s : State) (e : LaneEnv) (o : Nat) (w : LaneW) (z : LogEntry) (ok : List (Nat × Target)) : Option State :=
  let n := accessBytes w.ty.toNat
  let k := memKind o
  let op := w.p2.toNat / 256 % 16
  let ord := w.mod.toNat / 4
  let data (j : Nat) := whole e w.ty.toNat w.vc.toNat j % 2 ^ (8 * n)
  let cmp (j : Nat) := if op = 9 then whole e w.ty.toNat w.vd.toNat j % 2 ^ (8 * n) else 0
  let new (j old : Nat) := atomicTable op (8 * n) w.ty.toNat old (data j) (cmp j)
  let ty := if k = .atomic then (if n = 8 then 7 else 14) else w.ty.toNat
  let touched := e.act.flatMap fun j => touchOf (s0.wg e.g.wg).pos (laneAt e w j) n
  let ran : Option (State × List (Nat × W32) × List Outst) :=
    if w.la = 0 then
      (laneAccesses e.g k n (laneSince e o w) e.x.pc (wholeMem n ok) data (fun j => (laneAt e w j).info) new ok s).map fun p =>
        let s1 := if k = .store then p.1.spWhole n ok else p.1
        (if ok ≠ [] ∧ (ord = 1 ∨ ord = 3) then s1.acquire e.g (laneBoundary s1 e w) else s1,
         if k = .store then [] else p.2.flatMap fun q => resultV ty w.vd.toNat q.1 q.2, [])
    else (s.lanesInOrder e.g n ok).map fun u => (u, [],
      [{ pc := e.x.pc, left := w.la.toNat, kind := .deferred k.acc z n (laneSince e o w) ok []
         rd := (laneRefs 1 o w).1, wr := (laneRefs 1 o w).2, bytes := touched }])
  ran.map fun r => r.1.modGroup e.g fun y =>
    ((y.setV r.2.1).noteStore (if k = .load then [] else touched)).modFrag e.f fun x => { x with out := x.out ++ r.2.2 }

end Sys2Proof.Claims

section
open Sys2Proof Sys2Proof.Machine Sys2Proof.Claims

/-- R170, R172: a fragment that goes to an address goes on there, unless it is the join of its innermost level; there it
waits, and merges with a fragment that waits at the level. While a lane of the level has not arrived, the fragment that
holds them waits; when every lane has, the level is freed and the fragment is runnable with the parent level, unless it
stands at the parent's join too, where it waits, with no other fragment there and lanes still to arrive. Only the
fragments, levels, slots and log of its group change; what R176 and R177 say of slots may set when a fragment took one. -/
def Obligations.FragmentsArriveAtTheirJoin : Prop :=
  ∀ (s : State) (g : GrpId) (f pc : Nat) (x : Frag), (s.group g).frag f = some x →
    let t := s.goTo g f pc
    let y := t.group g
    { t with groups := s.groups } = s ∧ (∀ h, h ≠ g → t.group h = s.group h) ∧
    { y with frags := (s.group g).frags, levels := (s.group g).levels, slots := (s.group g).slots
             spilled := (s.group g).spilled, log := (s.group g).log } = s.group g ∧
    ((∀ l L, x.level = some l → (s.group g).level l = some L → pc ≠ L.join) →
      ∃ n, y.frag f = some { x with pc := pc, since := n } ∧ y.levels = (s.group g).levels ∧ y.log = (s.group g).log) ∧
    ∀ l L, x.level = some l → (s.group g).level l = some L → pc = L.join →
      let arr := L.arrived ||| x.lanes
      let others (m : Nat) (v : Frag) : Prop := v ∈ (s.group g).frags ∧ v.fid ≠ f ∧ v.level = some m ∧ v.st = .waiting
      -- what the lanes that have arrived are, once merged: fragment `k`, which is `m` but for its slot
      let comesTo (k : Nat) (m : Frag) : Prop :=
        (arr ≠ L.lanes → (∃ n, y.frag k = some { m with since := n }) ∧ (y.level l).map (·.arrived) = some arr) ∧
        (arr = L.lanes → (∀ p P, L.parent = some p → (s.group g).level p = some P → m.pc ≠ P.join) →
          (∃ n, y.frag k = some { m with st := .runnable, level := L.parent, split := none, since := n }) ∧ y.level l = none) ∧
        ∀ p P, arr = L.lanes → L.parent = some p → p ≠ l → (s.group g).level p = some P → m.pc = P.join →
          (∀ v, ¬others p v) → P.arrived ||| m.lanes ≠ P.lanes →
          (∃ n, y.frag k = some { m with level := some p, split := none, since := n }) ∧ y.level l = none ∧
            (y.level p).map (·.arrived) = some (P.arrived ||| m.lanes)
      ((∀ v, ¬others l v) → comesTo f { x with pc := pc, st := .waiting, fault := false }) ∧
      ∀ z, (s.group g).frag z.fid = some z → others l z → (∀ v, others l v → v = z) →
        y.frag f = none ∧
        comesTo z.fid { z with
          lanes := z.lanes ||| x.lanes, out := joinOuts z.out x.out, fault := false
          split := if z.split = some f then x.split else z.split }

/-- R171, R173, R175, R312: BR.ln raises PROT beyond the lane section and STACK at a 65th level; else the lanes of its mask
go to the target and the others to the next word, under the level of its join. JOIN goes to the join of the innermost
level. LEND in a partial fragment or under a level raises ILLCONV; else it delivers the oldest held report, and with none
ends the block at a cut of the rewrite stage (R242). That it waits while the handler of a report of the group runs or waits
its turn is the model's choice (log entry 34). -/
def Obligations.LaneBranchesSplitAndJoinFragments : Prop :=
  ∀ (w : LaneW) (s : State) (e : LaneEnv),
    (LaneLegal (.brLn w) w s e →
      let jt := laneAway e.x.pc (w.p2.extractLsb' 0 16)
      let j0 := laneAway e.x.pc (w.p2.extractLsb' 16 16)
      let inside (j : Int) : Prop := 0 ≤ j ∧ s.inSection s.cur j.toNat = true
      let taken := e.x.lanes &&& e.y.mask w.va.toNat
      let other := e.x.lanes &&& ~~~(e.y.mask w.va.toNat)
      let y := (withLevel e j0.toNat).1
      let u := s.setGroup e.g y
      (¬inside jt → exec (.brLn w) s = .next (s.fault 0x0A (jt % 2 ^ 64).toNat)) ∧
      (inside jt → ¬inside j0 → exec (.brLn w) s = .next (s.fault 0x0A (j0 % 2 ^ 64).toNat)) ∧
      (inside jt → inside j0 → (innerJoin e).map (·.join) ≠ some j0.toNat → 64 ≤ e.y.levels.length →
        exec (.brLn w) s = .next (s.fault 0x11)) ∧
      (inside jt → inside j0 → (innerJoin e).map (·.join) = some j0.toNat ∨ e.y.levels.length < 64 →
        (taken = 0 → exec (.brLn w) s = .next (u.goTo e.g e.f (e.x.pc + 12))) ∧
        (taken ≠ 0 → other = 0 → exec (.brLn w) s = .next (u.goTo e.g e.f jt.toNat)) ∧
        (taken ≠ 0 → other ≠ 0 →
          let z : Frag := { fid := y.nextId, lanes := taken, pc := jt.toNat, level := some (withLevel e j0.toNat).2,
                            since := s.clock }
          exec (.brLn w) s = .next (((u.setGroup e.g { y with
              nextId := y.nextId + 1
              frags := (y.frags.map fun v => if v.fid = e.f then { v with lanes := other } else v) ++ [z] }).goTo e.g e.f
            (e.x.pc + 12)).goTo e.g z.fid jt.toNat)))) ∧
    (LaneLegal (.join w) w s e → exec (.join w) s = .next (match innerJoin e with
      | some L => s.goTo e.g e.f L.join
      | none => s.goTo e.g e.f (e.x.pc + 12))) ∧
    (LaneLegal (.lend w) w s e →
      (e.x.lanes ≠ BitVec.allOnes 32 ∨ e.x.level.isSome → exec (.lend w) s = .next (s.fault 0x05 (~~~e.x.lanes).toNat)) ∧
      (e.x.lanes = BitVec.allOnes 32 → e.x.level = none → s.reportOpen e.g = false →
        exec (.lend w) s = .next (match e.y.reports with
          | r :: _ => s.deliver e.g r
          | [] => (s.cut e.g).modGroup e.g fun y =>
              { y with blk := none, frags := [], levels := [], slots := [], spilled := [] })) ∧
      (e.x.lanes = BitVec.allOnes 32 → e.x.level = none → s.reportOpen e.g = true →
        exec (.lend w) s = .next { s with stalled := true }))

/-- R168 with R113 and R116: the lane RAISE waits while a contribution of the engine is pending in its register of the
group's stream; else the rewrite stage is flushed, the register holds the values of the acting lanes, sign-extended for
min.i, max.i and add, or the identity when no lane acts, and the word stays outstanding until the AWAIT. That it waits,
whatever the operation, and never raises the NONUNIFORM that R168 and R300 list, is the model's choice (log entry 19). -/
def Obligations.LaneRaiseContributesForItsEngine : Prop :=
  ∀ (w : LaneW) (s : State) (e : LaneEnv), LaneLegal (.laneRaise w) w s e →
    let op := w.mod.toNat % 8
    let n := w.vd.toNat
    let a := e.g.stream
    let b (j : Nat) : W32 := BitVec.ofNat 32 (e.y.operandB e.stream 14 w j)
    let x (j : Nat) : Word := if op = 2 ∨ op = 4 ∨ op = 6 then (b j).signExtend 64 else (b j).zeroExtend 64
    ((agetD {} e.stream.e n).mask ≠ [] → exec (.laneRaise w) s = .next { s with stalled := true }) ∧
    let held : EReg := {
      op := op, lanes := true, mask := if e.act = [] then [0] else e.act, known := knownAt e.stream e.y (laneRefs 0 0x4B w).1
      vals := if e.act = [] then [(0, raiseIdentity op, false)] else e.act.map fun j => (j, x j, false) }
    ((agetD {} e.stream.e n).mask = [] →
      ∃ u : State, exec (.laneRaise w) s = .next (u.goTo e.g e.f (e.x.pc + 12)) ∧
        u.seq a = { (s.cut e.g).seq a with e := aput ((s.cut e.g).seq a).e n held } ∧
        (∀ c, c ≠ a → u.seq c = (s.cut e.g).seq c) ∧
        { u with seqs := s.seqs, groups := (s.cut e.g).groups } = { s.cut e.g with seqs := s.seqs } ∧
        (∀ h, h ≠ e.g → u.group h = (s.cut e.g).group h) ∧
        u.group e.g = ((s.cut e.g).group e.g).modFrag e.f fun z => { z with out := z.out ++
          [{ pc := e.x.pc, left := w.la.toNat, kind := .raise a n, rd := (laneRefs 0 0x4B w).1, wr := [.e n] }] })

/-- R180 to R190: a lane memory word whose acting lanes are all reached performs its accesses in ascending order: a load
writes what it read by its type, a store its low bytes, an atomic the old value, having stored the new one in one access.
An acquire at the word's scope follows. With lookahead 0 this happens at the issue; else the word stays outstanding with
its accesses, which perform by the time it completes (R280; CompletionsWriteTheirResults). A word with no acting lane only
goes on, and so does PRF, which changes no register, no memory and no store (R189); a release waits for what it releases, and
for lanes of earlier words of the fragment that wait (R314). -/
def Obligations.LaneMemoryWordsAccessMemory : Prop :=
  ∀ (w : LaneW) (s : State) (e : LaneEnv),
    (LaneLegal (.prf w) w s e → ∃ u : State, exec (.prf w) s = .next (u.goTo e.g e.f (e.x.pc + 12)) ∧
      { u with dir := s.dir, tlb := s.tlb, fe := s.fe, choices := s.choices, wgs := s.wgs, dies := s.dies } = s ∧
      { u.fe with foot := s.fe.foot } = s.fe ∧ (∀ v, { u.wg v with stale := (s.wg v).stale } = s.wg v) ∧
      (let plain (d : Die) : Die := { d with l2 := [], shadow := [], hits := [] }
       u.dies.map plain = s.dies.map plain) ∧
      (e.act = [] → u = s)) ∧
    ∀ p ∈ memoryWords w, LaneLegal p.1 w s e →
      (∀ z ∈ e.y.log, z.frag = some e.f → z.declined = true → z.waddr ≠ e.x.pc) →
      let n := accessBytes w.ty.toNat
      let k := memKind p.2
      let ord := w.mod.toNat / 4
      let scope := laneBoundary s e w
      let checked := s.laneChecks s.cur w (e.y.window (w.p2.toNat % 8)) n k.acc (e.act.map fun j => (j, e.lops p.2 w j))
      let r := checked.2
      (∀ j, (e.lops p.2 w j).address w (e.y.window (w.p2.toNat % 8)) = laneAt e w j) ∧
      (e.act = [] → exec p.1 s = .next (s.goTo e.g e.f (e.x.pc + 12))) ∧
      (e.act ≠ [] → 2 ≤ ord → s.released e.g.wg scope = false ∨ e.y.lanesWait e.f = true →
        exec p.1 s = .next { s with stalled := true }) ∧
      (e.act ≠ [] → r.wait = true → exec p.1 s = .next { s with stalled := true }) ∧
      (e.act ≠ [] → (2 ≤ ord → s.released e.g.wg scope = true ∧ e.y.lanesWait e.f = false) →
        r.bad = [] → r.page = [] → r.wait = false → (k = .load ∨ ∀ x ∈ r.ok, s.notifyHit x.2 n = false) →
        r.ok.map Prod.fst = e.act ∧
        ∃ z, HoldsOperands e p.1 p.2 w 0 e.f e.act [] z ∧
          exec p.1 s = .next (match lanesDone s checked.1 e p.2 w z r.ok with
            | none => { s with stalled := true }
            | some u => u.goTo e.g e.f (e.x.pc + 12)))

/-- R191 to R193, R302: when lanes of a memory word fault, the lanes that passed perform and the faulted ones sleep: the
whole fragment, when no lane passed, else a new fragment of them at the same word, that split from it, under the same
level, with its part of what is outstanding. A log entry holds their operands, a PAGE is held for service, and any other
cause is taken precisely for its lanes: the cause of the lowest of them, where they differ, by the model's choice (log entry
62). -/
def Obligations.FaultedLanesSleepAsAFragment : Prop :=
  (∀ (s : State) (g : GrpId) (f : Nat) (k : Acc4) (z : LogEntry) (r : LRes) (x : Frag),
    (s.group g).frag f = some x →
    let t := s.splitFault g f k z r
    ∃ u0 u : State,
      (u0.group g).frag f = some { x with st := .asleep } ∧
      { u0.group g with frags := (s.group g).frags } = { s.group g with log := (s.group g).log ++ [z] } ∧
      (∀ v, v ≠ f → (u0.group g).frag v = (s.group g).frag v) ∧
      (∀ h, h ≠ g → u0.group h = s.group h) ∧ { u0 with groups := s.groups } = s ∧
      (r.page = [] → u = u0) ∧
      (∀ j va l, r.page = (j, va) :: l → ∃ v : Held,
        v.who = .lane g z.handle ∧ v.va = va ∧ v.kind = k ∧ v.ctx = g.c ∧ v.posted = false ∧
        u = ({ u0 with holds := aput u0.holds z.handle v }).postHeld z.handle) ∧
      (r.bad = [] → t = u.refill g) ∧
      ∀ j c i l, r.bad = (j, c, i) :: l →
        ∃ rec : FaultRec, rec.cause = c ∧ rec.info = i ∧ rec.level = 0 ∧ rec.grp = g.g ∧ rec.waddr = z.waddr ∧
          (∀ m, m < 32 → (rec.lanes.testBit m = true ↔ m ∈ r.bad.map Prod.fst)) ∧
          t = (u.takeFault (g.lane f) rec).refill g) ∧
  ∀ (w : LaneW) (s : State) (e : LaneEnv), ∀ p ∈ memoryWords w, LaneLegal p.1 w s e →
    (∀ z ∈ e.y.log, z.frag = some e.f → z.declined = true → z.waddr ≠ e.x.pc) → e.act ≠ [] →
    let n := accessBytes w.ty.toNat
    let k := memKind p.2
    let ord := w.mod.toNat / 4
    let checked := s.laneChecks s.cur w (e.y.window (w.p2.toNat % 8)) n k.acc (e.act.map fun j => (j, e.lops p.2 w j))
    let r := checked.2
    let faulted := r.bad.map Prod.fst ++ r.page.map Prod.fst
    let fm := BitVec.ofNat 32 (ofBits 32 fun j => decide (j ∈ faulted))
    (2 ≤ ord → s.released e.g.wg (laneBoundary s e w) = true ∧ e.y.lanesWait e.f = false) →
    faulted ≠ [] → r.wait = false → (k = .load ∨ ∀ x ∈ r.ok, s.notifyHit x.2 n = false) →
    (∀ j, j ∈ e.act ↔ j ∈ r.ok.map Prod.fst ∨ j ∈ faulted) ∧
    ∃ z0, HoldsOperands e p.1 p.2 w 0 e.f (r.ok.map Prod.fst) [] z0 ∧
      (lanesDone s checked.1 e p.2 w z0 r.ok = none → exec p.1 s = .next { s with stalled := true }) ∧
      ∀ u, lanesDone s checked.1 e p.2 w z0 r.ok = some u →
        let u1 : State := { u with nextHandle := u.nextHandle + 1 }
        (r.ok = [] → ∃ z, HoldsOperands e p.1 p.2 w u.nextHandle e.f faulted (r.page.map Prod.fst) z ∧
          exec p.1 s = .next ((u1.modGroup e.g fun y => y.modFrag e.f fun x =>
            { x with fault := x.split.isNone, out := e.x.out }).splitFault e.g e.f k.acc z r)) ∧
        (r.ok ≠ [] → ∃ z, HoldsOperands e p.1 p.2 w u.nextHandle e.y.nextId faulted (r.page.map Prod.fst) z ∧
          exec p.1 s = .next (((u1.modGroup e.g fun y => { y with
              nextId := e.y.nextId + 1
              frags := (y.modFrag e.f fun x => { x with lanes := x.lanes &&& ~~~fm, out := x.out.map (·.part (~~~fm)) }).frags ++
                [{ e.x with fid := e.y.nextId, lanes := fm, out := e.x.out.map (·.part fm), split := some e.f, fault := false }]
              }).splitFault e.g e.y.nextId k.acc z r).goTo e.g e.f (e.x.pc + 12)))

end

namespace Sys2Proof.Claims

open Sys2Proof.Machine

/-! ### Tile words and the matrix window -/

/-- A tile word passes its checks and its fragment holds every lane of the group (R63). -/
def TileLegal (i : Instr) (w : LaneW) (s : State) (e : LaneEnv) : Prop :=
  LaneLegal i w s e ∧ e.x.lanes = BitVec.allOnes 32

/-- The claim words and the release words: word, and whether it is of tiles (R215). -/
def claimWords (w : LaneW) : List (Instr × Bool) := [(.sclaim w, false), (.aclaim w, true)]
def releaseWords (w : LaneW) : List (Instr × Bool) := [(.srel w, false), (.arel w, true)]

/-- The run that a claim or release word names: first, and how many (R215). -/
def runFirst (acc : Bool) (w : LaneW) : Nat := if acc then w.p2.toNat / 2 ^ 16 % 16 else w.p2.toNat / 2 ^ 12 % 16
def runLength (w : LaneW) : Nat := w.p2.toNat / 2 ^ 8 % 16 + 1

/-- Who holds slot, or tile, `m`. -/
def holder (x : Wg) (acc : Bool) (m : Nat) : Option Nat := if acc then (x.acc m).holder else (x.slot m).holder

/-- A scalar operand that a field of a tile word names, none for code 0 (R217). -/
def scalarOpt (e : LaneEnv) (f : BitVec 7) : Option Nat :=
  if f.toNat % 64 = 0 then none else some (e.stream.readReg .S (f.toNat % 64)).toNat

/-- The numbered words (R216, R217): the word, its OP, the operation that enters the window, and the scalar address that
travels with it. -/
def windowWords (w : LaneW) (e : LaneEnv) : List (Instr × Nat × TileOp × Nat) :=
  let p := w.p2.toNat
  let slot := p / 2 ^ 12 % 16
  let tile := p / 2 ^ 16 % 16
  let bank := p / 2 ^ 7 % 2
  let ct := p / 2 ^ 4 % 8
  let off := (scalarOpt e w.vc).getD 0 % 2 ^ 32
  let count := (e.stream.readReg .S w.vb.toNat).toNat
  let vec := scalarOpt e w.va
  let rnd := if w.rnd = 5 then e.y.fctl else w.rnd.toNat
  [(.ldslot w, 3, .ldslot slot w.vd.toNat off count, 0),
   (.stslot w, 4, .stslot slot w.vd.toNat off, 0),
   (.trans w, 5, .trans slot, 0),
   (.scale w, 6, .scale slot (w.mod.getLsbD 0) (vec.getD 0), vec.getD 0),
   (.ldw w, 7, .ldw bank slot ct (w.mod.getLsbD 0) vec, vec.getD 0),
   (.mma w, 8, .mma tile slot bank ct count (w.mod.getLsbD 0) (w.mod.getLsbD 1) (w.mod.getLsbD 2) vec, vec.getD 0),
   (.aload w, 11, .aload tile w.vd.toNat off rnd, 0),
   (.adrainSp w, 12, .adrainSp tile w.vd.toNat off count w.fmt.toNat rnd w.sat, 0),
   (.adrainReg w, 12, .adrainReg tile w.vc.toNat w.vd.toNat w.fmt.toNat rnd w.sat, 0),
   (.tblw w, 13, .tblw ct w.vd.toNat off, 0)]

/-- The rewrite stage of group `g` has followed a claim or release (R241); no other part of a group has changed. -/
def StageFollows (s u : State) (g : GrpId) : Prop :=
  (∀ h, h ≠ g → u.group h = s.group h) ∧
    { u.group g with hist := (s.group g).hist, base := (s.group g).base, laneWr := (s.group g).laneWr } = s.group g

/-- Command `k` of a group may issue as written: its predecessors have retired, nothing blocks it and no page holds it
(R222, R229, R231, R236). -/
structure CommandReady (s : State) (g : GrpId) (k : TileCmd) (op : TileOp) : Prop where
  found : (s.group g).cmd k.num = some k
  resident : (s.wg g.wg).place = .resident
  preds : (s.group g).predsDone k = true
  decided : k.st = .decided ∨ k.st = .issued
  first : (s.group g).behindOrigin k = false
  plain : k.move = 0 ∧ k.ops = [op] ∧ k.hold = none
  free : s.issueBlocked g k = false

/-- The command as it issues: it takes the generations of its code tables, unless it went on after a page (R35, R228,
R230). -/
def issuedCmd (s : State) (g : GrpId) (k : TileCmd) : TileCmd :=
  if k.st = .issued then k else { k with st := .issued, gens := (s.wg g.wg).latch k }

/-- The bit of a reservation at which an element of `w` bits of the form-10 space stands (R213, R219). -/
def bitPlace (s : State) (g : GrpId) (w e : Nat) : Option (WgId × Nat) :=
  (s.elemPlace g.wg w e).map fun p => (p.1, 8 * p.2 + w * e % 8)

/-- Two places of `w` bits share no bit. -/
def apart (w : Nat) (p q : Option (WgId × Nat)) : Prop :=
  ∀ x b y c, p = some (x, b) → q = some (y, c) → x ≠ y ∨ b + w ≤ c ∨ c + w ≤ b

/-- The elements `xs`, by position and value, are written in this order: each whose place exists, is the program's (R195)
and is not written again reads as its value, each place that shares no bit with one of them reads as before, and only
reservations and their marks change. -/
structure WroteElems (s u : State) (g : GrpId) (w : Nat) (xs : List (Nat × Nat)) : Prop where
  frame : { u with wgs := s.wgs } = s
  held : ∀ v, { u.wg v with sp := (s.wg v).sp, spPoison := (s.wg v).spPoison } = s.wg v
  others : ∀ e, (∀ p ∈ xs, apart w (bitPlace s g w e) (bitPlace s g w p.1)) → u.spElem g w e = s.spElem g w e
  written : ∀ (i p v : Nat), xs[i]? = some (p, v) →
    (∃ x b, bitPlace s g w p = some (x, b) ∧
      ((s.grid g.c).k.ring = 0 ∨ b + w ≤ 8 * ((s.grid g.c).k.scratch + 8) ∨ 8 * ((s.grid g.c).k.scratch + 128) ≤ b)) →
    (∀ (j : Nat) (q : Nat × Nat), i < j → xs[j]? = some q → apart w (bitPlace s g w p) (bitPlace s g w q.1)) → u.spElem g w p = v % 2 ^ w

/-- The positions of a shape's first `rows` rows and `cols` columns at offset `o`, row by row, with a value each (R218). -/
def placed (r : Shape) (o rows cols : Nat) (v : Nat → Nat → Nat) : List (Nat × Nat) :=
  (List.range rows).flatMap fun i => (List.range cols).map fun j => (r.off + o + i * r.rstr + j * r.cstr, v i j)

/-- Flags `fl` are those of the elements of `rows` rows and `cols` columns together. -/
def flagsOf (fl rows cols : Nat) (f : Nat → Nat → Nat) : Prop :=
  ∀ b, fl.testBit b = true ↔ ∃ i j, i < rows ∧ j < cols ∧ (f i j).testBit b = true

/-- The command has done its work and waits to retire, with its flags and register values (R223). -/
def workDone (s : State) (g : GrpId) (k : TileCmd) (fl : Nat) (vals : List (Nat × W32)) : State :=
  s.setCmd g { k with st := .done, flags := fl, vals := vals }

end Sys2Proof.Claims

section
open Sys2Proof Sys2Proof.Machine Sys2Proof.Claims

/-- R63, R215, R214: a claim of a run that the group holds in part raises SLOTSTATE or ACCSTATE; of a free run that no
earlier waiter wants, and for slots with physical room, it is granted: every one of the run is the group's, slots are
tagged none, each bit of a tile is the one left there or 0; else it waits, and CLAIM_GRANT grants it. In a re-run a claim
keeps its captured place (R424). A release of a run that the group does not hold raises; while a word of the window names the
run, or a running chit writes it, it waits; then the run is free. -/
def Obligations.SlotsAndTilesAreClaimedAndReleased : Prop :=
  ∀ (w : LaneW) (s : State) (e : LaneEnv),
    let x := s.wg e.g.wg
    (∀ p ∈ claimWords w, TileLegal p.1 w s e →
      let m := runFirst p.2 w
      let n := runLength w
      (∀ i, i < n → m + i < 16 → holder x p.2 (m + i) ≠ some e.g.g) → (∀ c ∈ x.claims, c.grp ≠ e.g.g) →
        s.ordered e.g.c (.claim e.g.w e.g.g p.2 m n) = none → exec p.1 s = .next { s with stalled := true }) ∧
    (∀ p ∈ claimWords w, TileLegal p.1 w s e → plainRun s e.g.c →
      let m := runFirst p.2 w
      let n := runLength w
      let cl : Claim := { grp := e.g.g, acc := p.2, m := m, n := n }
      (∀ i, i < n → m + i < 16 → holder x p.2 (m + i) = some e.g.g →
        (∀ j, j < i → holder x p.2 (m + j) ≠ some e.g.g) →
        exec p.1 s = .next (s.fault (if p.2 then 0x0C else 0x0B) (m + i))) ∧
      (m + n ≤ 16 → (∀ i, i < n → holder x p.2 (m + i) = none) → (∀ c ∈ x.claims, c.grp ≠ e.g.g) →
        (∀ c ∈ x.claims, c.acc = p.2 → m + n ≤ c.m ∨ c.m + c.n ≤ m) → (p.2 = false → x.heldSlots.length + n ≤ x.phys) →
        ∃ (x' : Wg) (c : Nat) (u : State), exec p.1 s = .next (u.goTo e.g e.f (e.x.pc + 12)) ∧
          { u with groups := s.groups } = { s.setWg e.g.wg x' with freeCtr := c } ∧ StageFollows s u e.g ∧
          { x' with slots := x.slots, accs := x.accs } = x ∧
          (∀ i, i < n → holder x' p.2 (m + i) = some e.g.g) ∧
          (∀ k j, ∃ b, cget 0 (x'.acc k).el j = cget 0 (x.acc k).el j &&& b) ∧ (∀ k, (x'.acc k).flags = (x.acc k).flags) ∧
          (p.2 = true → x'.slots = x.slots) ∧ (p.2 = false → x'.accs = x.accs) ∧
          (p.2 = false → ∀ i, i < n → (x'.slot (m + i)).tag = none) ∧
          ∀ k, k < m ∨ m + n ≤ k → (p.2 = true → x'.acc k = x.acc k) ∧ (p.2 = false → x'.slot k = x.slot k)) ∧
      (∀ i v, i < n → m + n ≤ 16 → holder x p.2 (m + i) = some v → (∀ j, j < n → holder x p.2 (m + j) ≠ some e.g.g) →
        (∀ c ∈ x.claims, c.grp ≠ e.g.g) →
        exec p.1 s = .next (s.setWg e.g.wg { x with claims := x.claims ++ [cl] }))) ∧
    (∀ p ∈ releaseWords w, TileLegal p.1 w s e →
      let m := runFirst p.2 w
      let n := runLength w
      (∀ i, i < n → (m + i < 16 → holder x p.2 (m + i) ≠ some e.g.g) →
        (∀ j, j < i → m + j < 16 ∧ holder x p.2 (m + j) = some e.g.g) →
        exec p.1 s = .next (s.fault (if p.2 then 0x0C else 0x0B) (m + i))) ∧
      let named := namesRun (s.grid e.g.c).k p.2 ((List.range n).map (m + ·)) x.pred (e.y.cmds.flatMap TileCmd.allOps)
      (m + n ≤ 16 → (∀ i, i < n → holder x p.2 (m + i) = some e.g.g) → named = true →
        exec p.1 s = .next { s with stalled := true }) ∧
      (m + n ≤ 16 → (∀ i, i < n → holder x p.2 (m + i) = some e.g.g) → named = false →
        (p.2 = true ∨ ∀ c ∈ x.chitSlots, c < m ∨ m + n ≤ c) →
        ∃ (x' : Wg) (u : State), exec p.1 s = .next (u.goTo e.g e.f (e.x.pc + 12)) ∧
          { u with groups := s.groups } = s.setWg e.g.wg x' ∧ StageFollows s u e.g ∧
          { x' with slots := x.slots, accs := x.accs, banks := x.banks } = x ∧
          (∀ b, { x'.bank b with src := (x.bank b).src } = x.bank b) ∧ (∀ i, i < n → holder x' p.2 (m + i) = none) ∧
          ∀ k, k < m ∨ m + n ≤ k → (p.2 = true → x'.acc k = x.acc k) ∧ (p.2 = false → x'.slot k = x.slot k))) ∧
    (∀ p ∈ claimWords w ++ releaseWords w, LaneLegal p.1 w s e → e.x.lanes ≠ BitVec.allOnes 32 →
      exec p.1 s = .next (s.fault 0x05 (~~~e.x.lanes).toNat)) ∧
    ∀ (c v k : Nat) (cl : Claim) (z : Frag), (s.wg ⟨c, v⟩).claims[k]? = some cl → (s.wg ⟨c, v⟩).place = .resident →
      (s.wg ⟨c, v⟩).grantable ((s.wg ⟨c, v⟩).claims.take k) cl = true →
      (s.group ⟨c, v, cl.grp⟩).frags.find? (fun f => f.lanes == 0xFFFFFFFF) = some z →
      exec (.claimGrant c v k) s = .next ((s.grant ⟨c, v⟩ cl (ldel (s.wg ⟨c, v⟩).claims k)).goTo ⟨c, v, cl.grp⟩ z.fid (z.pc + 12))

/-- R216 to R221: a numbered tile word whose slot, tile, shape and bounds pass the checks of entry takes the next TLM
number, and, when it is no flush point and no undecided word is pushed out, joins the window as written with its
operands, stays outstanding until it retires, and the fragment goes on. A word that fails them takes its exception, SCALE
one more, ALIGN; in a partial fragment each raises ILLCONV. -/
def Obligations.NumberedTileWordsEnterTheWindow : Prop :=
  ∀ (w : LaneW) (s : State) (e : LaneEnv), ∀ p ∈ windowWords w e, LaneLegal p.1 w s e →
    let op := p.2.2.1
    let n := e.y.lastNum + 1
    let aligned := p.1 = .scale w → scalarOpt e w.va ≠ none ∧ p.2.2.2 % 4 = 0
    let back (d : Nat) : List Nat := if d ≠ 0 ∧ d < n then [n - d] else []
    let og : Origin :=
      { num := n, waddr := e.x.pc, op := op, pd := back (w.p2.toNat / 2 ^ 26) ++ back (w.p2.toNat / 2 ^ 20 % 64)
        perm := (e.y.blk.map (·.perm)).getD false, rgn := e.y.rgn.toNat, saddr := (e.y.blk.map (·.saddr)).getD 0
        sva := p.2.2.2, sval := op.count.getD 0
        soff := match op with
          | .adrainReg .. => 0
          | _ => (scalarOpt e w.vc).getD 0 % 2 ^ 32 }
    let x := s.wg e.g.wg
    let k := (s.grid e.g.c).k
    let y1 : Group := { e.y with
      lastNum := n, cmds := e.y.cmds ++ [{ origins := [og], ops := [op] }]
      base := some (e.y.base.getD (standing k x e.y)), hist := e.y.hist ++ [og] }
    let out : Outst :=
      { pc := e.x.pc, left := w.la.toNat, kind := .tile n, rd := (laneRefs 2 p.2.1 w).1, wr := (laneRefs 2 p.2.1 w).2
        bytes := tileBytes x.pos (extent k op).1 (extent k op).2 }
    (e.x.lanes ≠ BitVec.allOnes 32 → exec p.1 s = .next (s.fault 0x05 (~~~e.x.lanes).toNat)) ∧
    (e.x.lanes = BitVec.allOnes 32 → ∀ c i, s.entryFault e.g op = some (c, i) → exec p.1 s = .next (s.fault c i)) ∧
    (e.x.lanes = BitVec.allOnes 32 → s.entryFault e.g op = none → ¬aligned →
      exec p.1 s = .next (s.fault 0x07 p.2.2.2)) ∧
    (e.x.lanes = BitVec.allOnes 32 → s.entryFault e.g op = none → aligned →
      (∃ t, exec p.1 s = .next t ∧ (t.group e.g).lastNum = n) ∧
      (plainRun s e.g.c → op.flushes x.rules = false → y1.crowded = false →
        exec p.1 s = .next ((s.setGroup e.g (y1.modFrag e.f fun z => { z with out := z.out ++ [out] })).goTo e.g e.f
          (e.x.pc + 12))))

/-- R222, R223, R230, R235 of a command as written, once it may issue: an operation that is no MMA acts whole, as
TileOperationsWriteTheirResults says of each; TBLW waits until its generation is free. An MMA whose scales are read and whose
draw is covered enters the array; its rows are then computed as they enter, and one that meets a mark fails, with its
tiles as they were (R417). A command that has done its work retires: registers and flags are written, a drained tile
gives up its flags, and it leaves the window. -/
def Obligations.TileCommandsIssueActAndRetire : Prop :=
  ∀ (s : State) (g : GrpId) (k : TileCmd) (op : TileOp),
    let x := s.wg g.wg
    let issue := exec (.matrixIssue g.c g.w g.g k.num) s
    let k1 := issuedCmd s g k
    let s1 := s.setCmd g k1
    -- the tiles that rows of an MMA add to, as they were
    let saved (x : Wg) (a b : Nat) (undo : Assoc Nat Acc) : Prop :=
      ∀ t, t < max 1 ((x.bank b).n / 64) → aget? undo (a + t) = some (x.acc (a + t))
    (CommandReady s g k op → op.isMma = false → (∀ ct sh o, op ≠ .tblw ct sh o) →
      ∀ u fl vals, s1.runOp g k1.gens [] false 0 128 op = .ok u fl vals → issue = .next (workDone u g k1 fl vals)) ∧
    (∀ ct sh o, CommandReady s g k (.tblw ct sh o) → s1.genBusy g.wg ct = false →
      ∀ u fl vals, s1.runOp g k1.gens [] false 0 128 (.tblw ct sh o) = .ok u fl vals →
        issue = .next (workDone u g k1 fl vals)) ∧
    (∀ ct sh o, CommandReady s g k (.tblw ct sh o) → s1.genBusy g.wg ct = true →
      issue = .next (s1.setCmd g { k1 with st := .genWait })) ∧
    (∀ n ct sh o, (s.group g).cmd n = some k → k.st = .genWait → k.ops = [.tblw ct sh o] → k.move = 0 →
      x.place = .resident → s.genBusy g.wg ct = false → ∀ u fl vals,
      s.runOp g k.gens [] false 0 128 (.tblw ct sh o) = .ok u fl vals →
        exec (.tblwGenerationFree g.c g.w g.g n) s = .next (workDone u g k fl vals)) ∧
    (∀ a m b ct v na nb ow rs u xs, op = .mma a m b ct v na nb ow rs → CommandReady s g k op → plainRun s g.c →
      x.mmaFault g.g a m b = none →
      (match rs with
        | none => u = s1 ∧ xs = []
        | some addr => s1.readVec g addr (min v 128) = (u, .ok xs)) →
      let y := u.wg g.wg
      plainRun u g.c → y.drawWait = [] → y.mmaCost op ≤ (u.grid g.c).dgrant → u.drawCovers g.wg (y.mmaCost op) = true →
        ∃ undo, saved y a b undo ∧
          issue = .next (u.setCmd g { k1 with st := .inArray, bank := [b], cost := y.mmaCost op, rs := [xs], undo := undo })) ∧
    (∀ n rows a m b ct v na nb ow rs, (s.group g).cmd n = some k → x.place = .resident → k.move = 0 →
      k.ops = [.mma a m b ct v na nb ow rs] →
      let enter := exec (.mmaRowEntry g.c g.w g.g n rows)
      (k.st = .drawWait → x.drawWait.head? = some (some (g.g, n)) → s.drawCovers g.wg k.cost = true →
        s.issueBlocked g k = false →
        ∃ undo, saved x a b undo ∧
          enter s = enter ((s.modWg g.wg fun x => { x with drawWait := x.drawWait.tail }).setCmd g
            { k with st := .inArray, bank := [b], undo := undo })) ∧
      ∀ xs, k.st = .inArray → k.rs = [xs] → x.mmaFault g.g a m b = none →
        let c1 : TileCmd := { k with cursor := min 128 (k.cursor + rows) }
        let hi := min c1.cursor (min v 128)
        let gen := agetD (agetD {} x.cts ct).cur k.gens ct
        let args : MmaArgs := { m := m, b := b, ct := ct, gen := gen, pair := true, na := na, nb := nb, rs := xs }
        (∀ f, x.mmaPoison a m b hi ow k.cursor = some f →
          enter s = .next ((s.modWg g.wg fun x =>
            { x with accs := k.undo.foldl (fun m u => aput m u.1 u.2) x.accs }).failCmd g c1 f)) ∧
        (x.mmaPoison a m b hi ow k.cursor = none →
          ∃ x' : Wg, enter s = .next ((s.setWg g.wg x').setCmd g c1) ∧ { x' with accs := x.accs } = x ∧
            ∀ t i c, t < (x.bank b).n / 64 → i < 128 → c < 64 →
              let old := cget 0 (x.acc (a + t)).el (64 * i + c)
              cget 0 (x'.acc (a + t)).el (64 * i + c) =
                if k.cursor ≤ i ∧ i < hi then
                  BitVec.ofNat 32 (x.mmaElem args (if ow then none else some old.toNat) i (64 * t + c)).1
                else old)) ∧
    ∀ n, (s.group g).cmd n = some k → x.place = .resident → (k.st = .done ∨ k.st = .inArray ∧ 128 ≤ k.cursor) →
      k.report = none → k.hold = none → k.ops = [op] →
      let drained : Option Nat := match op with
        | .adrainSp a .. | .adrainReg a .. => some a
        | _ => none
      let s1 := match drained with
        | some a => s.modWg g.wg fun x => { x with accs := aput x.accs a { x.acc a with flags := 0 } }
        | none => s
      let tf := match drained with
        | some a => (x.acc a).flags
        | none => 0
      exec (.commandRetire g.c g.w g.g n) s =
        .next (s1.modGroup g fun y => ((y.setV k.vals).orFlags (k.flags ||| tf)).dropCmd k)

/-- R224 to R228 and R232 to R235: what the operations of tile words write. LDSLOT fills the valid elements of its slot and
tags it, STSLOT writes them to its shape, TRANS transposes, SCALE multiplies by the vector and encodes in the slot's
format, LDW fills its bank with the elements, the scales and the table's generation, ALOAD fills its tile, the two forms of
ADRAIN encode a tile's elements, and TBLW fills the generation that is not current and makes it so. What a sparse record
outside the extents contributes is the model's choice (log entry 51). -/
def Obligations.TileOperationsWriteTheirResults : Prop :=
  ∀ (s : State) (g : GrpId) (gens : Assoc Nat Nat),
    let x := s.wg g.wg
    let run := s.runOp g gens [] false 0 128
    let conv (f rnd : Nat) (sat : Bool) (a i j : Nat) : Nat × Nat :=
      fmtEncode f (Rnd.ofCode 0 rnd) sat false (ffF32.decode (cget 0 (x.acc a).el (64 * i + j)).toNat)
    (∀ m sh o v r, (s.grid g.c).k.shape sh = some r →
      let wd := recBits r.fmt
      let rows := min v r.rows
      s.spBadElem g wd (r.elems o rows r.cols) = none →
      ∃ u, run (.ldslot m sh o v) = .ok u 0 [] ∧ ((u.wg g.wg).slot m).tag = some (r.fmt, rows, r.cols) ∧
        (∀ i j, i < rows → j < r.cols →
          elemAt ((u.wg g.wg).slot m).rows wd i j = s.spElem g wd (r.off + o + i * r.rstr + j * r.cstr)) ∧
        ∀ n, n ≠ m → (u.wg g.wg).slot n = x.slot n) ∧
    (∀ m sh o r f rv cv, (s.grid g.c).k.shape sh = some r → (x.slot m).tag = some (f, rv, cv) →
      let rows := min rv r.rows
      let cols := min cv r.cols
      (f ≠ r.fmt → run (.stslot m sh o) = .fail (formatFault m f)) ∧
      (f = r.fmt → (x.slot m).badIn (rowPitch f) rows (recBits f * cols) = none →
        ∃ u, run (.stslot m sh o) = .ok u 0 [] ∧
          WroteElems s u g (recBits f) (placed r o rows cols fun i j => elemAt (x.slot m).rows (recBits f) i j))) ∧
    (∀ m f rv cv, (x.slot m).tag = some (f, rv, cv) → transposable f = true →
      (x.slot m).badIn (rowPitch f) rv (recBits f * cv) = none →
      ∃ u, run (.trans m) = .ok u 0 [] ∧ ((u.wg g.wg).slot m).tag = some (f, cv, rv) ∧
        ∀ i j, i < rv → j < cv →
          elemAt ((u.wg g.wg).slot m).rows (fmtBits f) j i = elemAt (x.slot m).rows (fmtBits f) i j) ∧
    (∀ m col addr f rv cv s1 vs, (x.slot m).tag = some (f, rv, cv) → f ≤ 0x0F →
      (x.slot m).badIn (rowPitch f) rv (recBits f * cv) = none →
      s.readVec g addr (if col then cv else rv) = (s1, .ok vs) →
      let w := fmtBits f
      let scaled (i j : Nat) : Nat × Nat := fmtEncode f .rne false false
        (mulNum (fmtDecode (fun _ => 0) f (elemAt (x.slot m).rows w i j))
          (ffF32.decode (vs.getD (if col then j else i) 0x3F800000).toNat))
      ∃ u fl, run (.scale m col addr) = .ok u fl [] ∧ { u with wgs := s1.wgs } = s1 ∧ (∀ v, v ≠ g.wg → u.wg v = s1.wg v) ∧
        flagsOf fl rv cv (fun i j => (scaled i j).2) ∧ ((u.wg g.wg).slot m).tag = some (f, rv, cv) ∧
        (∀ i j, i < rv → j < cv → elemAt ((u.wg g.wg).slot m).rows w i j = (scaled i j).1 % 2 ^ w) ∧
        ∀ n, n ≠ m → (u.wg g.wg).slot n = (s1.wg g.wg).slot n) ∧
    (∀ b m ct t cs f rv cv s1 vs, (x.slot m).tag = some (f, rv, cv) → (t = true → transposable f = true) →
      (x.slot m).badIn (rowPitch f) rv (recBits f * cv) = none → (fmtClass f = 4 → (x.slot m).badRecord f rv cv = false) →
      (match cs with
        | none => s1 = s ∧ vs = []
        | some a => s.readVec g a (min (if t then rv else cv) (bankN f)) = (s1, .ok vs)) →
      let w := recBits f
      ∃ u, run (.ldw b m ct t cs) = .ok u 0 [] ∧ { u with wgs := s1.wgs } = s1 ∧
        let y := u.wg g.wg
        let k := y.bank b
        { y with banks := (s1.wg g.wg).banks } = s1.wg g.wg ∧ (∀ n, n ≠ b → y.bank n = (s1.wg g.wg).bank n) ∧
          k.loaded = true ∧ k.fmt = f ∧ k.n = bankN f ∧ k.ct = ct ∧ k.gen = agetD (agetD {} x.cts ct).cur gens ct ∧
          (k.rv, k.cv) = (if t then (cv, rv) else (rv, cv)) ∧
          (∀ i j, i < k.rv → j < k.cv →
            elemAt k.rows w i j = if t then elemAt (x.slot m).rows w j i else elemAt (x.slot m).rows w i j) ∧
          ∀ j, cget 0x3F800000 k.cs j = vs.getD j 0x3F800000) ∧
    (∀ a sh o rnd r, (s.grid g.c).k.shape sh = some r → r.cols ≤ 64 →
      let wd := recBits r.fmt
      s.spBadElem g wd (r.elems o r.rows r.cols) = none →
      let enc (i j : Nat) : Nat × Nat := ffF32.encode (Rnd.ofCode 0 rnd) false
        (fmtDecode (fun _ => 0) r.fmt (s.spElem g wd (r.off + o + i * r.rstr + j * r.cstr)))
      ∃ u fl, run (.aload a sh o rnd) = .ok u 0 [] ∧ { u with wgs := s.wgs } = s ∧ flagsOf fl r.rows r.cols (fun i j => (enc i j).2) ∧
        let y := u.wg g.wg
        { y with accs := x.accs } = x ∧ (∀ n, n ≠ a → y.acc n = x.acc n) ∧
          (y.acc a).holder = (x.acc a).holder ∧ (y.acc a).flags = (x.acc a).flags ||| fl ∧ (y.acc a).bad = [] ∧
          ∀ i j, j < 64 → cget 0 (y.acc a).el (64 * i + j) =
            if i < r.rows ∧ j < r.cols then BitVec.ofNat 32 (enc i j).1 else 0) ∧
    (∀ a sh o v f rnd sat r, (s.grid g.c).k.shape sh = some r →
      let rows := min v r.rows
      (∀ p ∈ (x.acc a).bad, ¬(32 * p / 256 < rows ∧ 32 * p % 256 < 4 * r.cols)) →
      ∃ u fl, run (.adrainSp a sh o v f rnd sat) = .ok u fl [] ∧ flagsOf fl rows r.cols (fun i j => (conv f rnd sat a i j).2) ∧
        WroteElems s u g (recBits f) (placed r o rows r.cols fun i j => (conv f rnd sat a i j).1)) ∧
    (∀ a row vd f rnd sat, (∀ p ∈ (x.acc a).bad, 32 * p / 256 ≠ row) →
      ∃ fl, run (.adrainReg a row vd f rnd sat) =
          .ok s fl ((List.range 64).map fun j => (32 * vd + j, BitVec.ofNat 32 (conv f rnd sat a row j).1)) ∧
        flagsOf fl 1 64 fun _ j => (conv f rnd sat a row j).2) ∧
    ∀ ct sh o r, (s.grid g.c).k.shape sh = some r → s.spBadElem g 16 (r.elems o 1 r.cols) = none →
      ∃ u, run (.tblw ct sh o) = .ok u 0 [] ∧ { u with wgs := s.wgs } = s ∧
        let y := u.wg g.wg
        let t := agetD {} x.cts ct
        let t' := agetD {} y.cts ct
        { y with cts := x.cts } = x ∧ (∀ n, n ≠ ct → agetD {} y.cts n = agetD {} x.cts n) ∧ t'.cur = 1 - t.cur ∧
          (∀ i, i < 256 → cget 0 t'.ent (256 * t'.cur + i) =
            if i < r.cols then BitVec.ofNat 16 (s.spElem g 16 (r.off + o + i * r.cstr)) else 0) ∧
          ∀ i, i < 256 * t'.cur ∨ 256 * t'.cur + 256 ≤ i → cget 0 t'.ent i = cget 0 t.ent i

end

namespace Sys2Proof.Claims

open Sys2Proof.Machine

/-! ### Events of the sequencers and the lane engine -/

/-- Stream `a`, of a context on its core, waits at `i` (R99). -/
structure WaitsWith (s : State) (a : Agent) (i : Instr) (l : Lvl) : Prop where
  core : s.onCore a = true
  run : (s.seq a).run = .waiting
  held : (s.seq a).held = some i
  level : lvlOf a = some l

/-- The state as an event of stream `a` sees it. -/
def seenBy (s : State) (a : Agent) : State := { s with cur := a }

/-- The word that stream `a` waits at runs again, for its effect. -/
def woken (s : State) (a : Agent) : State :=
  (seenBy s a).modSeq a fun q => { q with run := .running, held := none, vals := [] }

/-- Register `d` of stream `a` holds a value known at `t` (R291). -/
def knownFrom (s : State) (a : Agent) (d t : Nat) : State := s.modSeq a fun q => { q with known := cset 0 q.known d t }

/-- An outstanding scalar access performs at its target, with the operands that it issued with: the value it reads (R126 to
R128, R280). None while its home cannot perform it. -/
def lateScalar (s : State) (g : GrpId) (e : LogEntry) (n since : Nat) (t : Target) : SKind → Option (State × Nat)
  | .load _ => some (s.readAt g t n since)
  | .store => some ((s.writeAt g t n e.sops.data e.sops.addr e.waddr).spWhole n [(0, t)], 0)
  | .atomic op _ => s.atomicAt g t n (satomTable op (8 * n) e.sops)
  | .waitv _ _ => none

/-- Outstanding lane accesses perform, in ascending order, with the operands held in `e` (R182, R184, R187, R280): the values
that a load or atomic reads. None while a home cannot perform one. -/
def lateLanes (g : GrpId) (k : LKind) (e : LogEntry) (w : LaneW) (n since : Nat) (granules : List Nat) :
    List (Nat × Target) → State → Option (State × List (Nat × Nat))
  | [], s => some (s, [])
  | (j, t) :: l, s =>
    let b := cget 0 e.ops (64 + j) % 2 ^ (8 * n)
    let c := cget 0 e.ops (32 + j) % 2 ^ (8 * n)
    let p : Option (State × List (Nat × Nat)) := match k with
      | .load => let (u, v) := s.readAt g t n since; some (u, [(j, v)])
      | .store => some (s.writeAt g t n b (cget 0 e.ops (96 + j)) e.waddr (2 ^ j) granules, [])
      | .atomic => (s.atomicAt g t n fun old => atomicTable (w.p2.toNat / 256 % 16) (8 * n) w.ty.toNat old b c).map fun r =>
          (r.1, [(j, r.2)])
    p.bind fun p => (lateLanes g k e w n since granules l p.1).map fun r => (r.1, p.2 ++ r.2)

/-- The scope at which an outstanding lane word acquires (R185): that of SC, or .pt where it reached another core's
reservation. -/
def lateBoundary (s : State) (g : GrpId) (w : LaneW) (e : LogEntry) : Nat :=
  let sc := [2, 3, 5, 6].getD (w.p2.toNat / 64 % 4) 6
  if w.mod.toNat % 4 = 2 ∧ sc = 2 ∧ (List.range 32).any (fun j => e.mask.testBit j &&
      match s.spTarget g.wg (cget 0 e.ops (96 + j)) 1 with
        | some t => decide (t.1 ≠ g.wg)
        | none => false) then 3 else sc

/-- The receivers that take receipts. -/
def takes : Agent → Prop
  | .pitch _ _ | .wg _ _ | .group _ _ _ => True
  | _ => False

end Sys2Proof.Claims

section
open Sys2Proof Sys2Proof.Machine Sys2Proof.Claims

/-- R98, R126 to R129, R114, R280, R288: what an outstanding word does when it completes: an access that has not performed
does so, the value that it read is written, and it acquires at its scope; AWAIT writes the combination once every member has
contributed, and SWAITA rereads its location, with the operands that it issued with, and completes when its condition
holds. -/
def Sys2Proof.Claims.OutstandingWordsComplete : Prop :=
  ∀ (s : State) (a : Agent) (l : Lvl), s.onCore a = true → lvlOf a = some l →
    let q := s.seq a
    let g := s.grpId a
    (∀ k o, q.out[k]? = some o → o.kind = .done →
      exec (.longLatencyComplete a k) s = .next (s.modSeq a fun q => { q with out := ldel q.out k })) ∧
    (∀ k o acc e n since ts vals kd, q.out[k]? = some o → o.kind = .deferred acc e n since ts vals → e.cancelled = false →
      scalarShape e.word = some (n, kd) → kd.acc = acc → kd.deferred = true →
      let finish (u : State) (v : Nat) : State :=
        let u1 := acquired (u.modSeq a fun q => { q with out := ldel q.out k }) g e.word
        match kd with
        | .load d | .atomic _ d =>
          knownFrom (u1.modSeq a fun q => q.writeReg d (BitVec.ofNat 64 v) false) a d s.clock
        | _ => u1
      (ts = [] → exec (.longLatencyComplete a k) s = .next (finish s (vals.headD (0, 0)).2)) ∧
      ∀ t, ts = [(0, t)] → vals = [] →
        (lateScalar s g e n since t kd = none → exec (.longLatencyComplete a k) s = .next s) ∧
        ∀ u v, lateScalar s g e n since t kd = some (u, v) → k < (u.seq a).out.length →
          exec (.longLatencyComplete a k) s = .next (finish u v)) ∧
    (∀ o d n, o ∈ q.out → o.kind = .await d n → s.raiseFull a (agetD {} q.e n) = true →
      (∀ z ∈ q.out, z.kind.await? ≠ none → z = o) →
      exec (.awaitComplete a) s = .next ((s.modSeq a fun q => { q with out := q.out.filter (· != o) }).awaitNow a d n)) ∧
    ∀ o e n cc sg, q.out.find? (fun o => o.kind.swaita?.isSome) = some o → o.kind = .swaita e →
      scalarShape e.word = some (n, .waitv cc sg) →
      ∀ s1 t, s.reach a (scalarAddr e.sops.addr) n .read e.sops.addr = (s1, .ok t) →
        exec (.swaitaComplete a) s = .next (
          match (s1.inOrder? g t n).map fun u => watchedValue u g n t with
          | none => s
          | some (u, v) =>
            if holdsAt (8 * n) sg cc v e.sops.data then u.modSeq a fun q => { q with out := q.out.filter (· != o) } else s)

/-- R184, R280, R288: a lane word completes as its window says: its accesses that have not performed do so, the registers
receive the values read, by its type, and it acquires at its scope. -/
def Sys2Proof.Claims.OutstandingLaneWordsComplete : Prop :=
  ∀ (s : State) (c w n f k : Nat) (x : Frag) (o : Outst),
    let a : Agent := .lane c w n f
    let g : GrpId := ⟨c, w, n⟩
    s.onCore a = true → (s.group g).frag f = some x → x.out[k]? = some o →
      ∀ acc e m since ts vals cl op lw, o.kind = .deferred acc e m since ts vals → laneCode e.word = some (cl, op, lw) →
        (memKind op).acc = acc →
        let ty := if memKind op = .atomic then (if accessBytes lw.ty.toNat = 8 then 7 else 14) else lw.ty.toNat
        let finish (u : State) (vs : List (Nat × Nat)) : State :=
          let u1 := (u.modGroup g fun y => y.modFrag f fun x => { x with out := ldel x.out k }).modGroup g fun y =>
            y.setV (vs.flatMap fun v => resultV ty lw.vd.toNat v.1 v.2)
          let u2 := if e.mask ≠ 0 ∧ (lw.mod.toNat / 4 = 1 ∨ lw.mod.toNat / 4 = 3) then u1.acquire g (lateBoundary u1 g lw e)
            else u1
          u2.know a o.wr s.clock
        (ts = [] → exec (.longLatencyComplete a k) s = .next (finish s vals)) ∧
        ∀ u vs, lateLanes g (memKind op) e lw m since (wholeMem m ts) ts s = some (u, vs) →
          (∃ z, (u.group g).frag f = some z ∧ k < z.out.length) →
            exec (.longLatencyComplete a k) s = .next (finish (if acc = .write then u.spWhole m ts else u) (vals ++ vs))

/-- R40, R117, R118, R132, R133, R434: a word that waits goes on when its event finds its condition met: a wait, once its
condition has held at one instant, delivers the oldest report that it covers, and with none flushes, acquires and goes on; a
barrier whose members have all come is passed; SIGNAL writes the value that it read. That a wait acquires at device scope, and
only once the stream's earlier reads have returned, is the model's choice (log entry 68). -/
def Sys2Proof.Claims.WaitsBarriersAndSignalsGoOn : Prop :=
  ∀ (s : State) (a : Agent) (l : Lvl),
    let q := s.seq a
    let g := s.grpId a
    let v := seenBy s a
    (∀ imm tl r, ∀ i ∈ waitWords imm tl r, WaitsWith s a i l → (∃ o ∈ q.out, o.reading = true) →
      exec (.waitComplete a) s = .next s) ∧
    (∀ imm tl r, ∀ i ∈ waitWords imm tl r, WaitsWith s a i l → (∀ o ∈ q.out, o.reading = false) →
      q.decided = true ∨ waitMet v (fun _ => q.latched 0) i →
      let x := if q.decided then s else s.modSeq a fun q => { q with decided := true, vals := [q.latched 0, (s.wg g.wg).tags] }
      exec (.waitComplete a) s = .next (match (s.group g).reports.find? (x.covers a i) with
        | some r => x.deliver g r
        | none => waited x a i)) ∧
    (∀ i sc, WaitsWith s a i l → q.barAt = some sc →
      (∀ m ∈ s.barMembers a sc, (s.seq m).reached sc (agetD 0 q.barCount sc) = true) →
      exec (.barComplete a) s = .next (completes (s.modSeq a fun q =>
        { q with barCount := aput q.barCount sc (agetD 0 q.barCount sc + 1) }) a)) ∧
    ∀ (x y : BitVec 6) sc (add : Bool), WaitsWith s a (if add then .signalAdd x y sc else .signalSet x y sc) l →
      s.waitHeld a .atomic = false → s.allDone a = true →
      let va := (q.latched 0).toNat
      let b := (q.latched 1).toNat
      (∀ z ∈ s.watched, z < va ∨ va + 8 ≤ z) →
      ∀ s1 tr u s2, v.access (v.space a) va .atomic = (s1, .ok tr) → s1.poisonAt (tr.pa va) 8 = none →
        (inGroup a tr.trk = true → s1.l1Open (s1.wgId a) (lineOf (tr.pa va)) = true) →
        s1.ordered (ctxOf a) (.atomic (tr.pa va) (s1.wgId a).w (s1.grpId a).g) = some u →
        let old := u.hostInput (u.grpId a) (tr.pa va) (u.memNat (tr.pa va) 8)
        let bs := toBytes 8 (if add then (old.2 + b) % 2 ^ 64 else b)
        old.1.homeWrite? (old.1.writerOf a) tr.trk (tr.pa va) bs = some s2 →
        exec (.signalWrite a) s = .next (completes (signalSeen s2 a tr.trk (tr.pa va) bs) a)

/-- R119, R122 to R124, R130, R131, R272: REGION, PHASE and SEAL act once what they wait for is done; DOWN and RUN send once
there is room, with the operands that they read, a DOWN that decides releasing the held RAISEs as it does; the waiting DRAW that arrived first, of those whose context is on its core,
receives its units, and BIND its window. -/
def Sys2Proof.Claims.QueuedWordsGoOn : Prop :=
  ∀ (s : State) (a : Agent) (l : Lvl),
    let q := s.seq a
    let g := s.grpId a
    let v := seenBy s a
    (s.stalled = false → s.drainedFor a = true →
      (WaitsWith s a .region l → (s.group g).reports = [] → exec (.queuedBlocksDrained a) s =
        .next (completes ((flushed v g).modGroup g fun y =>
          { y with rgn := y.rgn + 1, regionPc := q.pc + 4, regionRc := q.rc }) a)) ∧
      (∀ sc k, WaitsWith s a (.phase sc k) l → k ≠ 0 → (k = 1 ∨ k = 3 → s.released g.wg sc.toNat = true) →
        exec (.queuedBlocksDrained a) s =
          .next (completes (flushed (if k = 1 then v else v.acquire g sc.toNat) g) a)) ∧
      (WaitsWith s a .seal l → exec (.queuedBlocksDrained a) s = .next (completes ((flushed v g).modGroup g fun y =>
        { y with sealed := y.sealed + 1, bounds := y.bounds ++ [cget 0 (s.wg g.wg).ends g.g] }) a))) ∧
    (∀ x y r off, ∀ p ∈ downWords x y r off, WaitsWith s a p.1 l → s.room a = .room →
      let o := (q.latched 0).toNat
      let u := if p.2.1 = none then woken s a else (woken s a).releaseHeld a
      o < v.lowerWords l → exec (.linkRoom a) s =
        .next ((u.send a (q.receipt o (q.latched 1) (q.latched 2) (q.latched 3).toNat)).modSeq a Seq.adv)) ∧
    (∀ off, WaitsWith s a (.run off) l → s.lead a < 16 → ∃ t, exec (.linkRoom a) s = .next t ∧
      (t.seq a).run = .running ∧ (t.seq a).pc = q.pc + 4 ∧
      (t.group g).laneQ.map (fun b => (b.off, b.saddr)) =
        (s.group g).laneQ.map (fun b => (b.off, b.saddr)) ++ [(off.toNat, q.pc)]) ∧
    (∀ die w u, (s.die die).drawQ.find? (fun w => (s.wg w).place == .resident) = some w → a = .wg w.c w.w →
      WaitsWith s a (.draw u) l → (u.toNat : Int) - (s.wg w).drawn ≤ (s.die die).poolFree →
      exec (.drawGrant die) s = .next (completes (s.grantDraw w u.toNat) a)) ∧
    ∀ n r, WaitsWith s a (.bind n r) l → s.waitHeld a .bindOnly = false → s.stalled = false →
      let va := (q.latched 0).toNat
      ∀ s1 tr, v.access (v.space a) va .bindOnly = (s1, .ok tr) → s1.stalled = false →
        exec (.bindComplete a) s = .next (completes (s1.modGroup (s1.grpId a) fun y => { y with
          win := aput y.win n.toNat (boundTo tr va (q.latched 1).toNat) }) a)

/-- R39, R98, R104, R128: RDSR and WRSR of FCTL or FFLAGS that waited act once no lane block of the group is queued or runs
and no ADRAIN is incomplete; an ordered SATOM that waited performs its access once the group's work has drained and, where it
releases, once what it releases has performed, and then acquires, or with lookahead stays outstanding until it completes
(R128, R280). -/
def Sys2Proof.Claims.RegisterWordsAndOrderedAtomicsGoOn : Prop :=
  ∀ (s : State) (a : Agent) (l : Lvl),
    let q := s.seq a
    let v := woken s a
    (∀ d n, WaitsWith s a (.rdsr d n) l → ¬flagsWait v n →
      exec (.queuedBlocksDrained a) s = .next (v.putReg d.toNat (BitVec.ofNat 64 (v.srRead n.toNat)) false)) ∧
    (∀ d n, WaitsWith s a (.wrsr d n) l → ¬flagsWait v n →
      exec (.queuedBlocksDrained a) s = .next (noEffect (v.srWrite n.toNat (q.latched 0)))) ∧
    ∀ d r la op ord sc w, let i : Instr := .satom d r la op ord sc w
      WaitsWith s a i l → s.stalled = false → s.drainedFor a = true → (2 ≤ ord.toNat → s.released (s.grpId a).wg (scScope sc.toNat) = true) →
      (v.group (own v)).scalarLog q.pc = none → ord ≠ 0 →
      let n := if w = 1 then 8 else 4
      let o := q.heldOps
      ∀ s1 t u, v.reach a (scalarAddr o.addr) n .atomic o.addr = (s1, .ok t) → s1.notifyHit t n = false →
        s1.inOrder? (own v) t n = some u →
        (la = 0 → ∀ s2 x, u.atomicAt (own v) t n (satomTable op.toNat (8 * n) o) = some (s2, x) →
          let s3 := acquired s2 (own v) i
          s3.stalled = false → s3.cur = a →
          exec (.queuedBlocksDrained a) s = .next (s3.modSeq a fun q => (q.writeReg d.toNat (BitVec.ofNat 64 x) false).adv)) ∧
        (la ≠ 0 → u.stalled = false →
          exec (.queuedBlocksDrained a) s = .next (u.issueLong la.toNat
            (.deferred .atomic (o.entry 0 q.pc i) n (knownAt v.me (v.group (own v)) (ctlRefs l i).1) [(0, t)] [])
            (ctlRefs l i).1 (ctlRefs l i).2 (touchOf (v.wg (own v).wg).pos (scalarAddr o.addr) n)))

/-- R98, R99, R113 to R118, R122 to R124, R126 to R133: what a waiting word, or an outstanding one, does when its event
finds its condition met. -/
def Obligations.WaitingWordsCompleteByTheirEvents : Prop :=
  OutstandingWordsComplete ∧ OutstandingLaneWordsComplete ∧ WaitsBarriersAndSignalsGoOn ∧ QueuedWordsGoOn ∧
    RegisterWordsAndOrderedAtomicsGoOn

/-- R110, R170, R178, R261, R265 to R267: an idle receiver takes the next receipt and starts its block, a group noting its
region entry and what it hands down being known as its sender knew it (R291), a receipt in error raising POISON; an idle lane engine takes the next block, after a flush
point of the stream with its rewrite stage flushed, with all lanes in one fragment; when more fragments can run than there
are slots, the one that has held a slot longest gives it up; an idle workgroup that holds a report has it delivered (R135);
and a pitch whose subtree is idle, with its grid halted and its script ended, finishes, its workgroups giving up what they
hold. That the block that a stream has just queued waits for the stream's next word is the model's choice (log entry 12). -/
def Obligations.BlocksStartRotateAndFinish : Prop :=
  ∀ (s : State),
    (∀ a rc, takes a → s.nextReceipt a = some rc → (s.grid (ctxOf a)).failing = [] →
      (s.wg (s.wgId a)).place = .resident → (s.seq a).run = .idle →
      let pc := (s.section a).1 + 4 * rc.off.toNat
      let h := match lvlOf a with
        | some l => h0Code l
        | none => 0
      (rc.bad = true → exec (.receiptTake a) s = .next (s.takeFault a (s.record a 0x18))) ∧
      (rc.bad = false → ∃ t, exec (.receiptTake a) s = .next t ∧
        t.seq a = { s.seq a with
          rc := rc, pc := pc, run := .running, inq := (s.seq a).inq.tail, slipped := false
          known := cset 0 (cset 0 (s.seq a).known h rc.since) (h + 1) rc.since } ∧
        (∀ b, b ≠ a → t.seq b = s.seq b) ∧ (∀ c w, a = .wg c w → (t.wg ⟨c, w⟩).started = true) ∧
        ∀ c w g, a = .group c w g → t.group ⟨c, w, g⟩ = { s.group ⟨c, w, g⟩ with regionPc := pc, regionRc := rc })) ∧
    (∀ c w g b bs, (s.group ⟨c, w, g⟩).laneQ = b :: bs → (s.group ⟨c, w, g⟩).blk = none → (s.wg ⟨c, w⟩).place = .resident →
      (s.grid c).failing = [] → b.bad = false →
      ((s.group ⟨c, w, g⟩).fresh = false ∨ bs ≠ [] ∨ (s.seq (.group c w g)).run ≠ .running) →
      let u := if b.flush then s.cut ⟨c, w, g⟩ else s
      let y := u.group ⟨c, w, g⟩
      exec (.laneBlockStart c w g) s = .next (u.setGroup ⟨c, w, g⟩ { y with
        laneQ := bs, blk := some b, levels := [], slots := [y.nextId], spilled := [], nextId := y.nextId + 1, rotAt := s.clock
        frags := [{ fid := y.nextId, lanes := BitVec.allOnes 32, since := s.clock
                    pc := (s.section (.lane c w g y.nextId)).1 + 12 * b.off }] })) ∧
    (∀ c w g x z v, let y := s.group ⟨c, w, g⟩
      (s.wg ⟨c, w⟩).place = .resident → y.frags = [x, z, v] → x.st = .runnable → z.st = .runnable → v.st = .runnable →
      x.fid ≠ z.fid → x.fid ≠ v.fid → z.fid ≠ v.fid → y.slots = [x.fid, z.fid] →
      (y.spilled = [] ∨ y.spilled = [v.fid]) → x.since ≤ z.since →
      exec (.fragmentRotation c w g) s = .next (s.setGroup ⟨c, w, g⟩ { y with
        slots := [z.fid, v.fid], spilled := [x.fid], rotAt := s.clock, frags := [x, z, { v with since := s.clock }] })) ∧
    (∀ c p x w l g r, aget? s.pitches (c, p) = some x → x.finished = false → (s.grid c).failing = [] →
      ((s.wgsOf c p).filter fun w => s.wgIdle w && (s.firstReport w).isSome) = w :: l → s.firstReport w = some (g, r) →
      exec (.pitchFinish c p) s = .next (s.deliver g r)) ∧
    ∀ c p x, aget? s.pitches (c, p) = some x → x.finished = false → (s.seq (.pitch c p)).run = .idle →
      (s.seq (.grid c)).run = .halted → (s.seq (.pitch c p)).ended = (s.seq (.grid c)).sent → (s.grid c).failing = [] →
      (∀ w ∈ s.wgsOf c p, s.wgIdle w = true ∧ s.firstReport w = none) → (s.seq (.pitch c p)).noRaise = true →
      ∃ t, exec (.pitchFinish c p) s = .next t ∧ (t.pitch c p).finished = true ∧ (t.seq (.pitch c p)).run = .finished ∧
        ∀ w ∈ s.wgsOf c p, (t.wg w).place = .killed ∧ (t.wg w).slots = [] ∧ (t.wg w).accs = [] ∧ (t.wg w).drawn = 0

end

namespace Sys2Proof.Claims

open Sys2Proof.Machine

/-! ### The copy engine, page service and coherence -/

/-- Nothing stands ready to go on when a write performs: no replay, walk of a host request or entry of the front end (R370). -/
def nothingWaits (s : State) : Prop :=
  (∀ x ∈ s.holds, x.2.ready = false) ∧ (∀ x ∈ s.hostWait, x.1 ≠ 0) ∧ ∀ e ∈ s.fe.evWait, e.1 ≠ 0

/-- The bytes `bs` stand at `pa`, and every other byte of memory is as before. -/
def Written (s t : State) (pa : Nat) (bs : List Byte) : Prop :=
  (∀ i, i < bs.length → cget 0 t.mem (pa + i) = bs.getD i 0) ∧
    ∀ a, a < pa ∨ pa + bs.length ≤ a → cget 0 t.mem a = cget 0 s.mem a

/-- A write of `n` bytes at `pa` may perform at once: every L1 may acknowledge, no translation derives from its lines, and no
wake aperture holds them (R284, R287, R329, R368). -/
def unshared (s : State) (pa n : Nat) : Prop :=
  quiet s pa n ∧ (∀ l ∈ linesOf pa n, (s.dirEnt l).tsh = []) ∧ ∀ v ∈ s.fe.vfs, v.2.wakeBase = 0

/-- The greatest END that the groups of a workgroup have published (R199). -/
def published (s : State) (w : WgId) : Nat :=
  (List.range (s.grid w.c).k.groups).foldl (fun m g => max m (cget 0 (s.wg w).ends g)) 0

end Sys2Proof.Claims

section
open Sys2Proof Sys2Proof.Machine Sys2Proof.Claims

/-- R199, R200, R207, R210, R270, R437: the engine records a well-formed store to NOTIFY, which completes: E of its group
is raised to the value; one that is malformed leaves a report and no other effect. The entry at CONS with this lap is
consumed as a chit; one not written yet stays. A chit starts, failing with a report or with its layout records read, and
waits as a draw stall while DRAWN does not cover the engine. A step takes elements of a row that have not performed, any of
them, within 4 KiB of the transfer between two draw checks (R293), reads them and writes them where DEST says. A finished
chit whose remote transfers are acknowledged completes: DONE counts it, its tag is set, a slot it filled is tagged, and its
failure is queued. That an engine which comes to its check covered passes a waiting MMA, and that a VALID above 256 fails only
against TH, are the model's choices (log entry 68); what one step moves is its reading (log entry 39). -/
def Obligations.TheCopyEngineRecordsConsumesAndCopies : Prop :=
  ∀ (s : State) (c w : Nat),
    let wi : WgId := ⟨c, w⟩
    let x := s.wg wi
    let kk := (s.grid c).k
    let resident := x.place = .resident
    (∀ n l, x.notifyQ = n :: l → resident → n.size = 8 → n.off = 0 → n.aop = none → n.opnd < 2 ^ 52 →
      let e := n.opnd % 2 ^ 48
      let g := n.opnd / 2 ^ 48
      g < kk.groups → e ≤ ofBytes (s.spBytes wi kk.scratch 8) →
      max (published s wi) e - x.cons + (x.chits.filter fun q => q.idx < max (published s wi) e).length ≤ kk.copyq →
      ∃ t, exec (.notifyRecord c w) s = .next t ∧ (t.wg wi).notify = n.opnd ∧ (t.wg wi).notifyQ = l ∧
        (∀ h, cget 0 (t.wg wi).ends h = if h = g then max (cget 0 x.ends g) e else cget 0 x.ends h) ∧
        (t.wg wi).cons = x.cons ∧ (t.wg wi).chits = x.chits ∧ t.mem = s.mem) ∧
    (∀ n l, x.notifyQ = n :: l → resident → n.size = 8 → n.off = 0 → n.aop = none → n.opnd < 2 ^ 52 →
      kk.groups ≤ n.opnd / 2 ^ 48 → ((s.group (s.grpId n.who)).reports.length < 8) → s.grpId n.who ∈ s.groupsOf wi →
      ∃ t, exec (.notifyRecord c w) s = .next t ∧ (t.wg wi).notifyQ = l ∧ (t.wg wi).ends = x.ends ∧
        (t.wg wi).notify = x.notify ∧
        ∃ r, (t.group (s.grpId n.who)).reports = (s.group (s.grpId n.who)).reports ++ [r] ∧ r.fr.cause = 0x95 ∧ r.fr.info = 8) ∧
    (resident → kk.ring ≠ 0 → x.cons < published s wi →
      let off := kk.scratch + 128 + 32 * (x.cons % kk.ring)
      let b := ofBytes (s.spBytes wi off 32)
      let lap := (x.cons / kk.ring + 1) % 256
      (b % 256 = lap → s.spPoisonAt wi off 32 = none →
        ∃ t q, exec (.entryConsume c w) s = .next t ∧ (t.wg wi).cons = x.cons + 1 ∧ (t.wg wi).chits = x.chits ++ [q] ∧
          q.idx = x.cons ∧ q.bits = b ∧ q.started = false ∧ q.finished = false ∧ q.report = none ∧
          (∀ v, v ≠ wi → t.wg v = s.wg v) ∧ t.mem = s.mem) ∧
      (b % 256 ≠ lap → b % 256 ≠ (lap + 1) % 256 → exec (.entryConsume c w) s = .next s)) ∧
    ∀ k q, x.chits[k]? = some q → resident →
      let b := q.bits
      let free := x.engineRuns = true ∨ (s.engineCovered wi = true ∧ plainRun s c)
      let s1 := if x.engineRuns then s else s.engineGo wi
      (q.started = false → q.opc ≠ 2 → x.engineRuns = false → s.engineCovered wi = false → plainRun s c →
        exec (.chitStart c w k) s = .next (s.engineStall wi)) ∧
      (q.started = false → q.opc ≠ 2 → free →
        (∀ cause info, s.chitCheck wi q = some (cause, info) →
          exec (.chitStart c w k) s = .next (s1.setChit wi k
            { q with started := true, finished := true, report := some (s.chitFail wi q cause info) })) ∧
        (s.chitCheck wi q = none → s.spPoisonAt wi (kk.layAt (b / 2 ^ 24 % 256)) 64 = none → q.opc < 2 →
          exec (.chitStart c w k) s = .next (s1.setChit wi k
            { q with started := true, lay := s.layRec wi (b / 2 ^ 24 % 256), lay2 := 0 }))) ∧
      (q.started = true → q.finished = false → q.hold = none →
        let tw := layTw q.lay
        let wd := layW q.lay
        let step := (q.pos + q.part.length) * wd / 32768
        let edge : Bool := decide (q.checked ≤ step)
        let q1 : Chit := { q with drawHeld := false, checked := step + 1 }
        let (s0, e, n) := (if edge then (s.setChit wi k q1).engineGo wi else s).chitPick q1
        let r := e / tw
        let c0 := e % tw
        let q2 := q1.did e n
        (tw * q.rows ≤ q.pos →
          exec (.chitStep c w k) s = .next ((s.setChit wi k { q with finished := true, drawHeld := false }).engineGo wi)) ∧
        (q.pos < tw * q.rows → edge = true → q.opc ≠ 4 → plainRun s c → s.engineCovered wi = false → q.drawHeld = false →
          exec (.chitStep c w k) s = .next ((s.engineStall wi).setChit wi k { q with drawHeld := true })) ∧
        (q.pos < tw * q.rows → q.opc ≠ 4 → (edge = true → s.engineCovered wi = true ∧ plainRun s c) →
          (q.opc = 5 →
            let d := s0.putSp wi q1.cover (8 * (b / 2 ^ 192 % 2 ^ 32) + (8 * (r * layRb q.lay) + wd * c0)) wd
              ((List.range n).map fun _ => (layFill q.lay, false))
            exec (.chitStep c w k) s = .next (d.1.setChit wi k { q2 with
              cover := d.2, finished := decide (tw * q.rows ≤ q2.pos) })) ∧
          ∀ s1 vs p s2 s3 cov,
            s0.chitSource wi q1 r c0 (c0 + n) = (s1, .ok (vs, p)) → s1.chitDest wi q1 r c0 vs = (s2, .ok (s3, cov)) →
            exec (.chitStep c w k) s = .next (s3.setChit wi k { q2 with
              cover := cov, finished := decide (tw * q.rows ≤ q2.pos)
              report := match q.report with
                | some r => some r
                | none => p.map fun i => s.chitFail wi q1 0x18 i }))) ∧
      -- the elements that a step takes, and those that have performed after it
      (∀ u e n, 0 < layW q.lay → q.pos < layTw q.lay * q.rows → q.pos ∉ q.part → s.chitPick q = (u, e, n) →
        { u with choices := s.choices } = s ∧ q.pos ≤ e ∧ e < layTw q.lay * q.rows ∧ 0 < n ∧
          e % layTw q.lay + n ≤ layTw q.lay ∧ (∀ i, i < n → e + i ∉ q.part) ∧
          (q.pos + q.part.length + n - 1) * layW q.lay / 32768 = (q.pos + q.part.length) * layW q.lay / 32768) ∧
      (∀ e n i, (i < (q.did e n).pos ∨ i ∈ (q.did e n).part) ↔ (i < q.pos ∨ i ∈ q.part ∨ e ≤ i ∧ i < e + n)) ∧
      let acked := ∀ p ∈ s.peerOut, ¬(p.src = wi ∧ p.idx = q.idx)
      (q.finished = true → ¬acked → exec (.chitComplete c w k) s = .next s) ∧
      (q.finished = true → acked → q.report = none →
        ∃ t, exec (.chitComplete c w k) s = .next t ∧ (t.wg wi).chits = ldel x.chits k ∧
          (t.wg wi).doneCnt = x.doneCnt + 1 ∧
          (t.wg wi).tags = (if b.testBit 22 ∧ q.untagged = false then x.tags ||| BitVec.ofNat 64 (2 ^ (b / 2 ^ 16 % 64))
            else x.tags) ∧
          (q.opc = 2 → ((t.wg wi).slot (b / 2 ^ 192 % 16)).tag = some (layFmt q.lay, q.rows, layTw q.lay)) ∧
          ∀ v, v ≠ wi → t.wg v = s.wg v) ∧
      (q.finished = true → acked → ∀ rep s1, q.report = some rep → s.queueReport ⟨c, w, q.grp⟩ rep = some s1 →
        ∃ t, exec (.chitComplete c w k) s = .next t ∧ (t.wg wi).doneCnt = (s1.wg wi).doneCnt + 1 ∧ t.groups = s1.groups)

/-- R128, R303, R375: REPLAY with CODE 00 of an access whose context is on its core: a scalar load performs from its log entry and
completes as if it had never faulted, a held fetch tries again, and a tile command or chit is held no more; a grid whose
frame was found may be placed again (R376). An access whose context is away keeps the answer for its return (R314). -/
def Sys2Proof.Claims.ReplayServedGoesOn : Prop :=
  ∀ (s : State) (h : Nat) (x : Held) (b : Bool), aget? s.holds h = some x → x.declined = false →
    let gone : State := { s with holds := adel s.holds h }
    let kept (u : State) : State := { u with holds := aput u.holds h { x with ready := true, trickle := b, noframe := false } }
    (x.noframe = false → s.holderHere x = true →
      (∀ g n, x.who = .tile g n → exec (.replayServiced h b) s = .next (gone.modGroup g fun y => { y with
        cmds := y.cmds.map fun c => if c.num = n ∧ c.hold = some h then { c with hold := none } else c })) ∧
      (∀ w i, x.who = .chit w i → exec (.replayServiced h b) s = .next (gone.modWg w fun y => { y with
        chits := y.chits.map fun c => if c.idx = i ∧ c.hold = some h then { c with hold := none } else c })) ∧
      (∀ a, x.who = .fetch a → exec (.replayServiced h b) s = .next gone) ∧
      ∀ a l e n d s1 t, x.who = .scalar a → lvlOf a = some l →
        (s.group (s.grpId a)).log.find? (fun e => decide (e.handle = h ∧ e.frag = none)) = some e →
        scalarShape e.word = some (n, .load d) → Reaches s a n .read e.sops.addr s1 t →
          let g := s.grpId a
          ∀ u, (s1.dropLog g h).inOrder? g t n = some u →
            let (s2, v) := u.readAt g t n s.clock
            exec (.replayServiced h b) s = .next (knownFrom (s2.modSeq a fun q =>
              ({ q with out := q.out.filter fun o => decide (o.kind ≠ .paged h) } : Seq).writeReg d (BitVec.ofNat 64 v) false)
              a d s.clock)) ∧
    (x.noframe = false → s.holderHere x = false → exec (.replayServiced h b) s = .next (kept s)) ∧
    (x.noframe = true → let u := s.frameFound x.ctx
      u.holderHere { x with noframe := false } = false → exec (.replayServiced h b) s = .next (kept u))

/-- R303, R333, R376: REPLAY with CODE 01: a scalar or lane access takes a precise PAGE at its address and at the word that
made it, a fetch at the fetching stream, each once the earlier words of the stream have completed (R67, R299); a tile command
or chit reports PAGE to its group, a host agent's request is not performed and an access of the front end is marked. Its hold
is gone. -/
def Sys2Proof.Claims.ReplayDeclinedFaults : Prop :=
  ∀ (s : State) (h : Nat) (x : Held), aget? s.holds h = some x →
    let gone : State := { s with holds := adel s.holds h }
    let later : State := { s with holds := aput s.holds h { x with ready := true, declined := true } }
    let page (r : FaultRec) := r.cause = 0x09 ∧ r.info = x.va
    (s.holderHere x = false → exec (.replayDeclined h) s = .next later) ∧
    (s.holderHere x = true →
      (∀ a, x.who = .fetch a → (s.outs a ≠ [] → exec (.replayDeclined h) s = .next later) ∧
        (s.outs a = [] → ∃ r, page r ∧ exec (.replayDeclined h) s = .next (gone.takeFault a r))) ∧
      (∀ a e, x.who = .scalar a → (s.group (s.grpId a)).log.find? (fun e => e.handle == h && e.frag.isNone) = some e →
        let first := ∃ o l, (s.seq a).out = o :: l ∧ o.kind = .paged h
        ((s.seq a).out ≠ [] → ¬first → exec (.replayDeclined h) s = .next later) ∧
        ((s.seq a).out = [] ∨ first →
          ∃ r, page r ∧ r.waddr = e.waddr ∧ exec (.replayDeclined h) s = .next (gone.takeFault a r))) ∧
      (∀ g k e, x.who = .lane g k → (s.group g).log.find? (fun e => e.handle == k) = some e →
        let a := g.lane (e.frag.getD 0)
        (s.outs a ≠ [] → exec (.replayDeclined h) s = .next later) ∧
        (s.outs a = [] → ∃ r, page r ∧ r.waddr = e.waddr ∧
          exec (.replayDeclined h) s = .next ((gone.modGroup g fun y => { y with
            log := y.log.map fun z => if z.handle = k then { z with pageLanes := 0 } else z }).takeFault a r))) ∧
      (∀ g n c, x.who = .tile g n → (s.group g).cmd n = some c →
        ∃ rep : Report, page rep.fr ∧ rep.fr.grp = g.g ∧ exec (.replayDeclined h) s = .next (gone.deliver g rep)) ∧
      (∀ w i c, x.who = .chit w i → (s.wg w).chits.find? (fun c => c.idx == i) = some c → ∃ rep : Report, page rep.fr ∧
        rep.fr.grp = c.grp ∧ exec (.replayDeclined h) s = .next (gone.deliver ⟨w.c, w.w, c.grp⟩ rep)) ∧
      (∀ n, x.who = .host n → exec (.replayDeclined h) s =
        .next { gone with hostWait := s.hostWait.filter fun z => z.1 != n }) ∧
      ∀ k n, x.who = .front k n → (∀ e ∈ s.fe.evWait, e.1 ≠ h) → exec (.replayDeclined h) s =
        .next { s with holds := aput s.holds h { x with declined := true } })

/-- R376: REPLAY with CODE 10 marks the access and stops its context, once what its resident workgroups had started has
performed: no workgroup of it stays on a core, staged or resident, nor does its grid sequencer go on; for the front end it is
a declined service (R344). -/
def Sys2Proof.Claims.ReplayNoframeStops : Prop :=
  ∀ (s : State) (h : Nat) (x : Held), aget? s.holds h = some x →
    (x.ctx < 64 → s.stopCtx x.ctx = none → exec (.replayNoframe h) s = .next s) ∧
    (x.ctx < 64 → s.stopCtx x.ctx ≠ none ∨ (∀ w, w.c = x.ctx → (s.wg w).place ≠ .resident) → ∃ t, exec (.replayNoframe h) s = .next t ∧
      (aget? t.holds h).map (·.noframe) = some true ∧ (t.grid x.ctx).noframe = true ∧
      ∀ w, w.c = x.ctx → aget? s.wgs w ≠ none → (t.wg w).place ≠ .resident ∧ (t.wg w).place ≠ .staged) ∧
    (64 ≤ x.ctx → ∀ k n, x.who = .front k n → (∀ e ∈ s.fe.evWait, e.1 ≠ h) → exec (.replayNoframe h) s =
      .next { s with holds := aput s.holds h { x with declined := true } })

/-- R302, R303, R314, R333, R374 to R376: a request is served, declined, or stops its context. -/
def Obligations.ReplayServesDeclinesOrStops : Prop := ReplayServedGoesOn ∧ ReplayDeclinedFaults ∧ ReplayNoframeStops

/-- R282, R284, R287, R367, R369, R400: an accepted store that may perform writes its bytes at the home and is pending no more,
whether or not its line was that of a page table; so does a write that waits at its home, in its turn: behind the earlier
ones to its lines, and, where it is marked rel, behind those of its agent. No other byte changes. -/
def Sys2Proof.Claims.WritesPerformAtTheirHome : Prop :=
  ∀ (s : State), nothingWaits s →
    (∀ k p, s.pend[k]? = some p → s.mayPerform k = true → s.aperture? p.pa = none →
      let i := if (s.dirEnt (lineOf p.pa)).want then Instr.pageTableStorePerform k else .writePerform k
      ∃ t, exec i s = .next t ∧ t.pend = s.pend.filter (fun x => x.sid != p.sid) ∧ Written s t p.pa p.data ∧
        (t.dirEnt (lineOf p.pa)).want = false) ∧
    ∀ j x, s.hostPend[j]? = some x →
      let first := ∀ y ∈ s.hostPend.take j, (x.rel = true → y.agent ≠ x.agent) ∧
        ∀ l ∈ linesOf y.pa y.data.length, l ∉ linesOf x.pa x.data.length
      (first → unshared s x.pa x.data.length → ∃ t, exec (.writePerform (s.pend.length + j)) s = .next t ∧
        t.hostPend = ldel s.hostPend j ∧ t.pend = s.pend ∧ Written s t x.pa x.data) ∧
      (¬first → exec (.writePerform (s.pend.length + j)) s = .next s)

/-- How the host takes part in a line that it reads (R396): it shares the line, and the device's owner keeps it shared. -/
def Sys2Proof.Claims.hostReads (s : State) (pa n : Nat) : State :=
  (linesOf pa n).foldl (fun s l => s.modDir l fun e => { e with
    host := if e.host = .i then .s else e.host
    st := if e.st = .i then .s else if e.st = .m ∨ e.st = .e then .o else e.st }) s

/-- R400: request `r` of a host agent for bytes of physical memory follows request `y` of one, which came before it, when `y`
is a read of its agent marked acq, when both are writes of one agent and `r` is marked rel, and when they share a line. -/
def Sys2Proof.Claims.RequestsFollowInOrder : Prop :=
  ∀ (a b d e pa pb n m u v : Nat) (t t' : HostAttr),
    let shares := ∃ l ∈ linesOf pa n, l ∈ linesOf pb m
    (reqFollows (.read a d pa n t) (.read b e pb m t') = true ↔ (a = b ∧ t' = .acq) ∨ shares) ∧
    (reqFollows (.read a d pa n t) (.write b e pb m u t') = true ↔ shares) ∧
    (reqFollows (.write a d pa n v t) (.read b e pb m t') = true ↔ (a = b ∧ t' = .acq) ∨ shares) ∧
    (reqFollows (.write a d pa n v t) (.write b e pb m u t') = true ↔ (a = b ∧ t = .rel) ∨ shares)

/-- R1, R279, R396, R399, R400, R429, R430: a host request waits behind one that it follows; a write joins the writes that wait at
their home, and a read waits behind those of them to its lines, else it shares its lines. The host takes a line of the device
alone or shared, and gives it back; a peer acknowledges a transfer. The policy core writes physical memory, a runner its own
tightly coupled memory and what a window of its table covers; before the monitor has set the PMP no firmware core runs. -/
def Sys2Proof.Claims.RequestsComeIn : Prop :=
  ∀ (s : State), nothingWaits s →
    let alone (r : HostReq) := ∀ y ∈ s.hostWait, reqFollows r y.2 = false
    let waits (r : HostReq) : State := { s with hostWait := s.hostWait ++ [(0, r)] }
    let behind (pa n : Nat) := ∃ x ∈ s.hostPend, ∃ l ∈ linesOf x.pa x.data.length, l ∈ linesOf pa n
    (∀ r, ¬alone r → exec (.hostRequest r) s = .next (waits r)) ∧
    (∀ a d pa n v at', alone (.write a d pa n v at') → exec (.hostRequest (.write a d pa n v at')) s = .next { s with
      hostPend := s.hostPend ++ [{ agent := a + 1, rel := at' == .rel, pa := pa, data := toBytes n v }] }) ∧
    (∀ a d pa n at', alone (.read a d pa n at') →
      (behind pa n → exec (.hostRequest (.read a d pa n at')) s = .next (waits (.read a d pa n at'))) ∧
      (¬behind pa n → exec (.hostRequest (.read a d pa n at')) s = .next (hostReads s pa n))) ∧
    (∀ line, line / 2 ^ 44 % 2 = 0 →
      exec (.hostRequest (.own line false)) s = .next (hostReads s (128 * line) 1) ∧
      (s.storeWaits line = false → (s.dirEnt line).tsh = [] → (∀ x ∈ (s.dirEnt line).l1, s.mayInvalidate x.1 line = true) →
        ∃ t, exec (.hostRequest (.own line true)) s = .next t ∧ t.mem = s.mem ∧ (t.dirEnt line).host = .m ∧
          (t.dirEnt line).st = .i ∧ (t.dirEnt line).l1 = [] ∧ (t.dirEnt line).dies = [])) ∧
    (∀ line, exec (.hostRequest (.drop line)) s = .next (s.modDir line fun e => { e with host := .i })) ∧
    (∀ k, exec (.hostRequest (.peerAck k)) s = .next { s with peerOut := ldel s.peerOut k }) ∧
    (∀ core addr n, exec (.hostRequest (.firmRead core addr n)) s = .next s) ∧
    ∀ core addr n v,
      (s.trust.pmp = false → exec (.hostRequest (.firmWrite core addr n v)) s = .next s) ∧
      (s.trust.pmp = true → core ≠ 0 → core ≤ 6 → addr + n ≤ 65536 → exec (.hostRequest (.firmWrite core addr n v)) s =
        .next { s with fe := { s.fe with tcm := csetList none s.fe.tcm (65536 * core + addr) ((toBytes n v).map some) } }) ∧
      (s.trust.pmp = true → ∀ pa, (core = 0 ∧ addr = pa) ∨ (core ≠ 0 ∧ core ≤ 6 ∧ addr = 65536 + pa ∧ 0 < n ∧
          ∃ w ∈ s.fe.windows, w.2.1 ≤ pa ∧ pa + n ≤ w.2.1 + w.2.2) →
        ¬behind pa n → unshared s pa n →
        ∃ t, exec (.hostRequest (.firmWrite core addr n v)) s = .next t ∧ Written s t pa (toBytes n v))

/-- No outstanding access of a group that has yet to perform, accepted store or write that waits at its home, where `p`
selects the group, used a translation from page-table line `line` (R368). -/
def Sys2Proof.Claims.unusedBy (s : State) (p : GrpId → Prop) (line : Nat) : Prop :=
  (∀ g ∈ s.groups, p g.1 → s.owes g.1 (Target.uses line) = false) ∧ (∀ x ∈ s.pend, line ∉ x.lines) ∧
    ∀ x ∈ s.hostPend, line ∉ x.lines

/-- R367, R368, R370, R373: TINVAL for a line that a write waits to change makes its sharer drop every translation and window
derived from the line, and marks the line as wanted; ASIDKILL leaves no translation of the address space and no Bound
window of its contexts, and notes that it completed. Here no access that has yet to perform used such a translation. -/
def Sys2Proof.Claims.TranslationsAreInvalidated : Prop :=
  ∀ (s : State),
    (∀ a line, a ∈ (s.dirEnt line).tsh → s.storeWaits line = true → unusedBy s (fun g => s.wgAgent g.wg = a) line →
      ∃ t, exec (.tinval a line) s = .next t ∧ (∀ tr ∈ agetD [] t.tlb a, line ∉ tr.lines) ∧ a ∉ (t.dirEnt line).tsh ∧
        (t.dirEnt line).want = true ∧ t.mem = s.mem ∧ ∀ g, s.wgAgent g.wg = a → ∀ n,
          let w := agetD {} (t.group g).win n
          w.st = .bound → line ∉ w.lines) ∧
    (∀ a line, a ∉ (s.dirEnt line).tsh ∨ s.storeWaits line = false → exec (.tinval a line) s = .next s) ∧
    ∀ asid, let own (c : Nat) := (agetD (0, 0) s.fe.troots c).1 = asid
      (∀ g ∈ s.groups, own g.1.c → s.owes g.1 = false) → (∀ p ∈ s.pend, ¬own p.src.c) → (∀ x ∈ s.hostPend, x.asid ≠ some asid) →
      ∃ t, exec (.asidkill asid) s = .next t ∧ t.mem = s.mem ∧ asid ∈ t.fe.killedAsids ∧
        (∀ a, ∀ tr ∈ agetD [] t.tlb a, tr.asid ≠ asid) ∧ ∀ g, own g.c → ∀ n, (agetD {} (t.group g).win n).st ≠ .bound

/-- R284, R287, R396, R399 to R401: an invalidation that another agent's write waits for, and an eviction, take the line out of
a core's L1, and no group of the core that has read the line in its phase sees another value for it, nor any group one for
another line; an evicted directory entry is gone, but for when each writer last changed its line (log entry 52), with every
translation derived from its line; a host snoop takes every copy of a line of its own, or leaves it shared; what the host
reclaims of a line that the device held modified is poisoned. -/
def Sys2Proof.Claims.CopiesAreInvalidated : Prop :=
  ∀ (s : State) (core : CoreId) (line : Nat),
    let gone (t : State) := (∀ b, (core, b) ∉ (t.dirEnt line).l1) ∧ t.mem = s.mem ∧ t.pend = s.pend ∧
      ∀ g x, lineOf x ≠ line ∨ (s.wg g.wg).core ≠ core ∨ (s.residentOn core = some g.wg ∧ s.touched g line = true) →
        t.grpByte g x = s.grpByte g x
    let freed := s.lineFree none line = true ∧ unusedBy s (fun _ => True) line
    let wanted := (∃ p ∈ s.pend, lineOf p.pa = line ∧ (s.wg p.src).core ≠ core) ∨
      ∃ x ∈ s.hostPend, line ∈ linesOf x.pa x.data.length
    (nothingWaits s → wanted → (∃ b, (core, b) ∈ (s.dirEnt line).l1) → s.mayInvalidate core line = true →
      ∃ t, exec (.l1Invalidation core line) s = .next t ∧ gone t) ∧
    (s.residentOn core = none → exec (.l1Eviction core line) s = .next (s.modDir line fun e => e.drop core)) ∧
    (∀ w, s.residentOn core = some w → (∀ p ∈ s.pend, p.src = w → lineOf p.pa ≠ line) →
      (s.wg w).areaUsed + ((s.wg w).stale.filter fun z => z.line == line && !z.inArea).length +
        (if s.inPhase w line = [] then 0 else 1) ≤ Config.staleEvict →
      ∃ t, exec (.l1Eviction core line) s = .next t ∧ gone t) ∧
    (freed → s.storeWaits line = false → ∃ t, exec (.directoryEviction line) s = .next t ∧
      t.dirEnt line = { pts := (s.dirEnt line).pts } ∧ t.mem = s.mem ∧
      ∀ a ∈ (s.dirEnt line).tsh, ∀ tr ∈ agetD [] t.tlb a, line ∉ tr.lines) ∧
    (line / 2 ^ 44 % 2 = 0 → ∀ b, exec (.hostSnoop line b) s = .next s) ∧
    (line / 2 ^ 44 % 2 = 1 → freed → ∃ t, exec (.hostSnoop line true) s = .next t ∧ (t.dirEnt line).st = .i ∧
      (t.dirEnt line).dies = [] ∧ t.mem = s.mem ∧ ((s.dirEnt line).tsh = [] → (t.dirEnt line).l1 = [])) ∧
    (line / 2 ^ 44 % 2 = 1 → (s.dirEnt line).st ≠ .i →
      exec (.hostSnoop line false) s = .next (s.modDir line fun e => { e with st := .s })) ∧
    (nothingWaits s → line / 2 ^ 44 % 2 = 1 → (∀ x ∈ s.groups, s.groupOuts x.1 = []) →
      ∃ t, exec (.hostRequest (.orphan line)) s = .next t ∧
        (t.dirEnt line).st = .i ∧ (t.dirEnt line).l1 = [] ∧ (t.dirEnt line).dies = [] ∧
        ∀ g, g ∈ t.poison ↔ g ∈ s.poison ∨ ((s.dirEnt line).st = .m ∨ (s.dirEnt line).st = .o) ∧ g / 4 = line)

/-- R206, R365, R374, R400: an element of 32 bits that arrives from a peer, at an address that the front end's cache translates
in the job's space, is written there, or added, to nearest even; a host agent's request for a virtual address acts at the
address that the cache of its port's die gives. -/
def Sys2Proof.Claims.ArrivalsAndHostAgentsTranslate : Prop :=
  ∀ (s : State) (c va : Nat) (tr : Trans),
    let r := agetD (0, 0) s.fe.troots c
    (s.lookup (.front 0) r.1 va = some tr → ∀ f x red, f ≤ 1 → x < 2 ^ 32 → va % 4 = 0 → permits tr.perm .write = true →
      plainRun s c → unshared s (tr.pa va) 4 →
      let num (b : Nat) := fmtDecode (fun _ => 0) f b
      let new := if red then (fmtEncode f .rne false false (addNum .rne (num (s.memNat (tr.pa va) 4)) (num x))).1 else x
      ∃ t, exec (.remoteTransferArrival c (8 * va) f red [(x, false)]) s = .next t ∧ Written s t (tr.pa va) (toBytes 4 new)) ∧
    ∀ d, s.lookup (.front d) r.1 va = some tr → nothingWaits s →
      let sp : Space := { t := .front d, asid := r.1, root := r.2, vf := (s.grid c).vf, host := true }
      let u := s.touch sp tr (tr.pa va)
      (∀ a n v at', permits tr.perm .write = true → (∀ y ∈ s.hostWait, reqFollows (.vwrite a d c va n v at') y.2 = false) →
        exec (.hostRequest (.vwrite a d c va n v at')) s = .next { u with
          hostPend := u.hostPend ++ [{ agent := a + 1, rel := at' == .rel, trk := tr.trk, pa := tr.pa va, data := toBytes n v
                                       lines := tr.lines, asid := some r.1 }] }) ∧
      (∀ a n at', permits tr.perm .read = true → (∀ y ∈ s.hostWait, reqFollows (.vread a d c va n at') y.2 = false) →
        (∀ x ∈ s.hostPend, ∀ l ∈ linesOf x.pa x.data.length, l ∉ linesOf (tr.pa va) n) →
        exec (.hostRequest (.vread a d c va n at')) s = .next (if tr.trk then hostReads u (tr.pa va) n else u))

/-- R371: a footfall counter at the threshold posts an event with its count, who made the last access and the region, and is
halved; below it nothing happens. -/
def Sys2Proof.Claims.FootfallIsReported : Prop :=
  ∀ (s : State) (unit region : Nat),
    let k := 2 ^ 40 * unit + region
    let n := cget 0 s.fe.foot k % 65536
    let note := cget 0 s.fe.foot k / 65536
    let asid := note % 2 ^ 16
    let die := note / 2 ^ 16 % 4
    let miss := note / 2 ^ 18 % 2
    let host := if 16 ≤ unit then 1 else 0
    let ev := toBytes 16 (region % 2 ^ 36 + asid * 2 ^ 80 + miss * 2 ^ 108 + host * 2 ^ 109 + die * 2 ^ 110 + n * 2 ^ 112)
    let (u, ring) := s.ringPost s.fe.fevq ev
    (s.fe.fthr ≠ 0 → s.fe.fthr ≤ n → exec (.footfallThreshold unit region) s = .next
      { u with fe := { u.fe with fevq := ring, foot := cset 0 u.fe.foot k (n / 2 + 65536 * note) } }) ∧
    (s.fe.fthr = 0 ∨ n < s.fe.fthr → exec (.footfallThreshold unit region) s = .next s)

/-- R206, R282, R284, R287, R365, R367 to R373, R396, R399 to R401: the events of coherence have their effect. -/
def Obligations.CoherenceEventsHaveTheirEffect : Prop :=
  WritesPerformAtTheirHome ∧ RequestsFollowInOrder ∧ RequestsComeIn ∧ TranslationsAreInvalidated ∧ CopiesAreInvalidated ∧
    ArrivalsAndHostAgentsTranslate ∧ FootfallIsReported

end

namespace Sys2Proof.Claims

open Sys2Proof.Machine

/-! ### The front end and the porter -/

/-- The porter of a die takes the command of its two stores, whose OP is `op`: a core rectangle of the die whose cores are
in service, no reserved bit set, no command before it, and no completion that waits for room in the ring (R331, R381). -/
structure PorterTakes (s : State) (die hi op : Nat) (p : PCmd) : Prop where
  command : p = ⟨(s.die die).porterLow % 2 ^ 64 + hi % 2 ^ 64 * 2 ^ 64⟩
  present : die < s.dies.length
  idle : (s.die die).porterPost = none ∧ (s.die die).porterQ = []
  opcode : p.op = op
  reserved : p.bad = false
  shape : p.lead.die = die ∧ p.pw * p.ph ≠ 0 ∧ p.pw * p.ph ≤ 24 ∧ ∀ c ∈ p.cores, s.inService c = true

/-- The completion signal of a node: address, value and whether it is added (R337, R344). -/
def signalOf (x : Node) : Nat × Nat × Bool :=
  (x.bits / 2 ^ 512 % 2 ^ 57, x.bits / 2 ^ 576 % 2 ^ 64, x.bits.testBit 475)

/-- The runners have nothing else to write or to go on with: no logged miss, no entry that waits to be written, no queue that
waits for room; and no choice is given (log entry 3). -/
def runnersFree (s : State) : Prop := s.fe.missIn = [] ∧ (∀ e ∈ s.fe.evWait, e.1 ≠ 0) ∧ s.fe.full = [] ∧ s.choices = []

/-- An access of the front end to `n` bytes at `va`, for holder `w` and function `vf`, finds the leaf `tr` in the front end's
cache; it is permitted and not declined, and reads no poison (R333). -/
structure FeFinds (s : State) (w : Holder) (vf va n : Nat) (k : Acc4) (tr : Trans) : Prop where
  cached : s.lookup (.front 0) (s.feSpace vf).asid va = some tr
  allowed : permits tr.perm k = true
  clean : s.poisonAt (tr.pa va) n = none
  free : s.heldFor w = false ∧ s.declinedAt w va n = none

/-- Context `c` is free again and node `n` has left the graph (R344, R345). -/
def Left (t : State) (n c : Nat) : Prop := aget? t.grids c = none ∧ t.nodeOf n = none

end Sys2Proof.Claims

section
open Sys2Proof Sys2Proof.Machine Sys2Proof.Claims

/-- R327 to R330, R337, R341, R342: an aligned 8-byte write of the wake aperture that both stages resolve to an enabled
queue of its function queues a wake; one that stage 1 does not resolve goes to the function's miss log, and one that stage 2
does not, or whose queue is disabled or another function's, to the host's. A write of another size, or misaligned, or past the
aperture, and any write where a boot has stopped (R429), has no effect. A wake whose T is the last record consumed ends; a
misaligned T posts event 7; else the runner reads NEXT, ends at 0, and accepts the record it names, unless 6,144 nodes wait
already. A node that has stayed in its class moves up one. That a poisoned stage-1 entry, or one outside the function's frames,
does not resolve is the model's choice (log entry 68). -/
def Obligations.WakesAndNodesAreQueued : Prop :=
  ∀ (s : State) (vf off size value : Nat),
    let posted := off % 8 = 0 ∧ off < 32768 ∧ size = 8 ∧ s.trust.bootStopped = false
    (s.fe.missIn = [] →
      (¬posted → exec (.wakeWrite vf off size value) s = .next s) ∧
      (posted → s.stageOne vf (off / 8) = none →
        exec (.wakeWrite vf off size value) s = .next (s.postEntry (4096 + vf) (missEntry 0 vf (off / 8) value))) ∧
      (∀ iq, posted → s.stageOne vf (off / 8) = some iq →
        let miss := let (u, r) := s.ringPost s.fe.hostMiss (toBytes 16 (missEntry 1 vf (off / 8) value))
          { u with fe := { u.fe with hostMiss := r } }
        exec (.wakeWrite vf off size value) s = .next (match stageEntry (agetD 0 s.fe.stage2 (vf, iq)) with
          | none => miss
          | some pq => if (s.queue pq).vf = vf ∧ (s.queue pq).en = true then
              { s with fe := { s.fe with wakes := s.fe.wakes ++ [(pq, value % 2 ^ 64)] } }
            else miss))) ∧
    (∀ pq t l, s.fe.wakes = (pq, t) :: l → s.heldFor (.front true pq) = false → runnersFree s →
      let w : Holder := .front true pq
      let d := s.queue pq
      let gone := ({ s with fe := { s.fe with wakes := l } } : State).feDone w
      (t % 128 ≠ 0 ∨ 2 ^ 57 ≤ t → exec .wake s = .next (gone.postEvent pq 7 0 0 {})) ∧
      (t % 128 = 0 → t < 2 ^ 57 → d.last = t → exec .wake s = .next gone) ∧
      (t % 128 = 0 → t < 2 ^ 57 → d.last ≠ t → Config.waitingNodes ≤ s.waitingNodes →
        exec .wake s = .next { s with fe := { s.fe with full := [pq] } }) ∧
      (t % 128 = 0 → t < 2 ^ 57 → d.last ≠ t → s.waitingNodes < Config.waitingNodes → d.last % 128 = 0 →
        (∀ x ∈ s.fe.kept, x.1 ≠ w) → ∀ tr, FeFinds s w d.vf d.last 8 .read tr →
        let u := s.touch (s.feSpace d.vf) tr (tr.pa d.last)
        let next := s.memNat (tr.pa d.last) 8
        (next = 0 → exec .wake s = .next (({ u with fe := { u.fe with wakes := l } } : State).feDone w)) ∧
        (next ≠ 0 → exec .wake s = .next (u.acceptAt pq next t)) ∧
        ∀ tr2, next % 128 = 0 → next < 2 ^ 57 → next ≠ 0 → FeFinds u w d.vf next 128 .read tr2 → d.record = false →
          d.rerun = none →
          let r := s.memNat (tr2.pa next) 128
          recordBad r = false → r / 2 ^ 392 % 16 = 0 → r / 2 ^ 396 % 16 = 0 →
          ∃ v, exec .wake s = .next v ∧ (v.queue pq).last = next ∧ v.fe.wakes = s.fe.wakes ∧
            ∃ x ∈ v.fe.nodes, x.nid = s.fe.nextNode ∧ x.pq = pq ∧ x.vf = d.vf ∧ x.bits = r ∧ x.bad = false)) ∧
    ∀ n x, s.nodeOf n = some x → x.st = .pooled → x.cls < 3 → (s.fe.nodes.map (·.nid)).Nodup →
      ∃ t, exec (.poolAging n) s = .next t ∧ t.nodeOf n = some { x with cls := x.cls + 1, since := s.clock } ∧
        ∀ m, m ≠ n → t.nodeOf m = s.nodeOf m

/-- The workgroups of the next pitch of context `c` on the rectangle from `lead`, each with an image that the firmware has
allocated; none where it cannot (R355, R377). -/
def Sys2Proof.Claims.pitchPut (s : State) (c : Nat) (g : Grid) (lead : CoreId) : Option State :=
  (List.range (g.pw * g.ph)).foldl (fun a i => a.bind fun s =>
    (s.addWg c g.placed i (g.placed * (g.pw * g.ph) + i) ⟨lead.die, lead.x + i % g.pw, lead.y + i / g.pw⟩).giveImage
      ⟨c, g.placed * (g.pw * g.ph) + i⟩) (some s)

/-- R260, R265, R343 to R346, R350, R354 to R356, R377, R422: the first node of the pool takes the lowest free context: its
arguments are copied, its object is loaded, or refused with a code, and its grid sequencer starts at its section. A pitch
that fits, whose images are allocated and for which L1 gives up its ways, is placed with its workgroups on the rectangle,
idle; else it waits. An image stands in frames of its function and apart from every other. A request that waited is marked; a
grid stopped by SCRIPT goes on once every pitch is placed; a grid that is done writes its completion signal and leaves; a
failing one is killed, then, once what it issued has performed, its node fails and leaves; the pool of draw units changes
within its limits; a device reset leaves memory as performed and nothing launched. -/
def Obligations.NodesRunFromDispatchToCompletion : Prop :=
  ∀ (s : State),
    (∀ c x, s.freeCtx = some c → s.poolHead = some x → s.heldFor (.front false x.nid) = false →
      let w : Holder := .front false x.nid
      let got := s.feGet w x.vf ((List.range (x.bits / 2 ^ 469 % 64)).map fun i => (x.bits / 2 ^ 128 % 2 ^ 57 + 128 * i, 128)) true
        (s.given x.rerun)
      (∀ s1 f va, got = .fault s1 f va → exec .dispatch s = .next ((s1.spoil x).feDone w)) ∧
      ∀ s1 args s2, got = .ok s1 args →
        s1.fePut w (s1.feSpace x.vf) .write (linesFrom ((s1.queue x.pq).argwin + 4096 * c) args) = .ok s2 () →
        let signed := ((agetD {} s2.fe.vfs x.vf).key).isSome
        (∀ s3 f va, s2.readObject w x.vf (x.bits / 2 ^ 64 % 2 ^ 57) signed = .fault s3 f va →
          exec .dispatch s = .next ((s3.refuse c x 1).feDone w)) ∧
        ∀ s3 f ss, s2.readObject w x.vf (x.bits / 2 ^ 64 % 2 ^ 57) signed = .ok s3 (f, ss) →
          (∀ code, loadObject f ss (s3.launchOf x) (codeArea c) = .error code →
            exec .dispatch s = .next ((s3.refuse c x code).feDone w)) ∧
          ∀ k laid, loadObject f ss (s3.launchOf x) (codeArea c) = .ok (k, laid) →
            (s3.rerunBad x = true → exec .dispatch s = .next ((s3.refuse c x 0x0C).feDone w)) ∧
            ∀ s4, s3.rerunBad x = false →
              s3.fePut w (s3.jobSpace c x.vf) .bindOnly (laid.flatMap fun y => linesFrom y.2.1 y.2.2) = .ok s4 () →
              ∃ t, exec .dispatch s = .next t ∧ t.seq (.grid c) =
                  { pc := k.base.headD 0, run := .running, dbg := x.bits.testBit 403 } ∧
                (t.grid c).k = k ∧ (t.grid c).node = x.nid ∧ (t.grid c).placed = 0 ∧
                (t.grid c).args = (s4.queue x.pq).argwin + 4096 * c ∧
                (t.nodeOf x.nid).map (fun y => (y.st, y.ctx)) = some (.running, some c)) ∧
    (∀ c g lead, aget? s.grids c = some g → g.asks = true → s.earlierFirst g = false → s.findPlace c g = some lead →
      let cores := (List.range (g.pw * g.ph)).map fun i => (⟨lead.die, lead.x + i % g.pw, lead.y + i / g.pw⟩ : CoreId)
      let ready := (pitchPut s c g lead).bind fun u => s.splitBack u cores
      (ready = none → exec (.pitchPlace c) s = .next s) ∧
      (ready ≠ none → ∃ t, exec (.pitchPlace c) s = .next t ∧ (t.grid c).placed = g.placed + 1 ∧
        (t.pitch c g.placed).lead = lead ∧ (t.seq (.pitch c g.placed)).run = .idle ∧
        ∀ i, i < g.pw * g.ph → let w : WgId := ⟨c, g.placed * (g.pw * g.ph) + i⟩
          (t.wg w).core = ⟨lead.die, lead.x + i % g.pw, lead.y + i / g.pw⟩ ∧ (t.wg w).pos = i ∧ (t.wg w).pitch = g.placed ∧
          (t.wg w).place = .resident ∧ (t.wg w).drawn = 0 ∧ (t.wg w).started = false ∧ (t.seq (.wg c w.w)).run = .idle ∧
          ∀ n, n < g.k.groups → (t.seq (.group c w.w n)).run = .idle ∧ (t.group ⟨c, w.w, n⟩).v = [])) ∧
    (∀ w t, s.giveImage w = some t → let a := (t.wg w).image
      a ≠ 0 ∧ s.frameOk (s.grid w.c).vf a (s.imageBytes w) = true ∧ ∀ x ∈ s.wgs, x.1 ≠ w → x.2.image ≠ 0 →
        x.2.image + s.imageBytes x.1 ≤ a ∨ a + s.imageBytes w ≤ x.2.image) ∧
    (∀ c g, aget? s.grids c = some g → g.asks = true →
      exec (.placeWaitExpiry c) s = .next (s.setGrid c { g with reqOld := true })) ∧
    (∀ c g, aget? s.grids c = some g → g.scriptStop = true → g.placed = g.npitch → g.failing = [] →
      exec (.scriptResume c) s = .next ((s.setGrid c { g with scriptStop := false }).modSeq (.grid c) fun q =>
        if q.run = .stopped then { q with run := q.prior } else q)) ∧
    (∀ n x c, s.nodeOf n = some x → x.ctx = some c →
      let (va, value, add) := signalOf x
      (x.st = .running → (s.grid c).failing = [] → s.gridDone c = true → s.stored c = true →
        (va = 0 → ∃ t, exec (.nodeComplete n) s = .next t ∧ t = s.endNode x false ∧ Left t n c) ∧
        ∀ tr, va ≠ 0 → va % 8 = 0 → FeFinds s (.front false n) x.vf va 8 .atomic tr → unshared s (tr.pa va) 8 →
          let bs := toBytes 8 (if add then s.memNat (tr.pa va) 8 + value else value)
          ∃ u, exec (.nodeComplete n) s = .next (u.endNode x false) ∧ Written s u (tr.pa va) bs ∧ Left (u.endNode x false) n c) ∧
      (x.st = .running → (s.grid c).failing ≠ [] →
        ((s.grid c).killed = false → exec (.nodeComplete n) s = .next (s.killGrid c)) ∧
        ((s.grid c).killed = true → s.stored c = false → (∀ w, w.c = c → (s.wg w).owed = []) →
          exec (.nodeComplete n) s = .next s) ∧
        ((s.grid c).killed = true → s.stored c = true → ∃ t, exec (.nodeComplete n) s = .next t ∧
          (t.nodeOf n).map (·.st) = some .failed)) ∧
      (x.st = .failed → s.stored c = true → va = 0 → exec (.nodeComplete n) s = .next (s.endNode x true))) ∧
    (∀ d u, d < s.dies.length → ∃ t, exec (.drawPoolChange d u) s = .next t ∧
      (t.die d).poolTotal = max 0 (min 1600 ((s.die d).poolTotal + u)) ∧
      (t.die d).poolFree - (s.die d).poolFree = (t.die d).poolTotal - (s.die d).poolTotal ∧
      (t.die d).drawQ = (s.die d).drawQ ∧ ∀ e, e ≠ d → t.die e = s.die e) ∧
    (s.pend = [] → (∀ x ∈ s.wgs, x.2.image = 0 ∧ x.2.owed = [] ∧ ∀ g ∈ s.groupsOf x.1, s.owes g = false) →
      ∃ t, exec .deviceReset s = .next t ∧ t.mem = s.mem ∧ t.poison = s.poison ∧ t.hostPend = s.hostPend ∧
      t.pend = [] ∧ t.seqs = [] ∧ t.grids = [] ∧ t.wgs = [] ∧ t.groups = [] ∧ t.tlb = [] ∧ t.dir = [] ∧
      t.trust = s.trust.boot ∧ t.fe = { captures := s.fe.captures })

/-- A die's porter holds the commands `l`. -/
def Sys2Proof.Claims.holding (s : State) (die : Nat) (l : List Nat) : State := s.modDie die fun d => { d with porterQ := l }

/-- A command, the one that the porter held, ends with a status. -/
def Sys2Proof.Claims.endedWith (s : State) (die : Nat) (p : PCmd) (status : Nat) : State := holding (s.porterDone die p status) die []

/-- Nothing that a workgroup issued has yet to perform, or to be acknowledged. -/
def Sys2Proof.Claims.settled (s : State) (w : WgId) : Prop :=
  (∀ q ∈ s.pend, q.src ≠ w) ∧ (∀ q ∈ s.peerOut, q.src ≠ w) ∧ (s.wg w).owed = [] ∧ ∀ g ∈ s.groupsOf w, s.owes g = false

/-- R331, R381, R382: a porter command with a reserved OP or a reserved bit set completes with status 4, one that names no
rectangle of its die with status 1; a completion waits while the ring is full. -/
def Sys2Proof.Claims.PorterCommandsAreChecked : Prop :=
  ∀ (s : State) (die hi : Nat) (p : PCmd),
    let cmd (op : Nat) : Instr := [Instr.porterStage die hi, .porterSwap die hi, .porterSpill die hi, .porterUnstage die hi,
      .porterKill die hi].getD (op - 1) .nop
    (∀ (u : State) st, die < u.dies.length → let v := u.porterDone die p st
      ((u.die die).porterRing.lg ≠ 0 → (u.die die).porterRing.full = true →
        (v.die die).porterPost = some (p.tag + p.op * 2 ^ 8 + st * 2 ^ 12)) ∧
      ((u.die die).porterRing.lg ≠ 0 → (u.die die).porterRing.full = false →
        (v.die die).porterPost = none ∧ (v.die die).porterRing.pi = (u.die die).porterRing.pi + 1)) ∧
    (p = ⟨(s.die die).porterLow % 2 ^ 64 + hi % 2 ^ 64 * 2 ^ 64⟩ → die < s.dies.length → (s.die die).porterPost = none →
      (s.die die).porterQ = [] → ∀ op ∈ [1, 2, 3, 4, 5], let u := holding s die [p.n]
      (p.op = 0 ∨ 5 < p.op ∨ p.op = op ∧ p.bad = true → exec (cmd op) s = .next (endedWith u die p 4)) ∧
      (p.op = op → p.bad = false → p.lead.die ≠ die ∨ p.pw * p.ph = 0 ∨ 24 < p.pw * p.ph →
        exec (cmd op) s = .next (endedWith u die p 1)) ∧
      (1 ≤ p.op → p.op ≤ 5 → p.op ≠ op → exec (cmd op) s = .next s))

/-- R382 to R389: STAGE puts the named saved pitch, or a fresh one, in the shadow banks; SWAP brings a staged pitch to run, and
saves the resident one; SPILL saves it; UNSTAGE leaves the staged one Saved; KILL ends a pitch in any state, or marks the named
images that no workgroup has; each with status 0. A command that must wait stays the porter's; a failed one changes nothing. -/
def Sys2Proof.Claims.PorterCommandsHaveTheirEffect : Prop :=
  ∀ (s : State) (die hi : Nat) (p : PCmd),
    let u := holding s die [p.n]
    let done (v : State) : Out := .next (endedWith v die p 0)
    let failed (st : Nat) : Out := .next (endedWith u die p st)
    let drawn (ws : List WgId) : Int := ws.foldl (fun n w => n + ((s.wg w).drawn : Int)) 0
    let free := (s.die die).poolFree
    let outcome (r : PRes) : Out := match r with
      | .done v => done v
      | .fail st => failed st
      | .wait v => .next (holding v die [p.n])
    (PorterTakes s die hi 1 p →
      (∀ ws, u.asPitch (u.namedBy p) = some ws → exec (.porterStage die hi) s = outcome (u.stageSaved p ws) ∧
        ∀ t, u.stageSaved p ws = .done t → ws.Nodup → ∀ w ∈ ws, (t.wg w).place = .staged) ∧
      (u.asPitch (u.namedBy p) = none → (∀ z ∈ u.namedBy p, z = none) →
        exec (.porterStage die hi) s = outcome (u.stageFresh p)) ∧
      (u.asPitch (u.namedBy p) = none → (∃ z ∈ u.namedBy p, z ≠ none) → exec (.porterStage die hi) s = failed 1)) ∧
    (PorterTakes s die hi 2 p →
      (u.pitchOn p.cores .staged = none → exec (.porterSwap die hi) s = failed 1) ∧
      ∀ inc, u.pitchOn p.cores .staged = some inc →
        (u.pitchOn p.cores .resident = none →
          ((∃ c ∈ p.cores, u.residentOn c ≠ none) → exec (.porterSwap die hi) s = failed 1) ∧
          ((∀ c ∈ p.cores, u.residentOn c = none) →
            (drawn inc ≠ 0 ∧ free < drawn inc ∨ (∃ w ∈ inc, u.walkWaits w = true) → exec (.porterSwap die hi) s = .next u) ∧
            (drawn inc = 0 ∨ drawn inc ≤ free → (∀ w ∈ inc, u.walkWaits w = false) → (∀ x ∈ u.holds, x.2.ready = false) →
              ∃ t, exec (.porterSwap die hi) s = done t ∧ ∀ w ∈ inc, (t.wg w).place = .resident))) ∧
        ∀ out, u.pitchOn p.cores .resident = some out →
          (u.imagesOk p out = false → exec (.porterSwap die hi) s = failed 3) ∧
          (u.imagesOk p out = true →
            (drawn inc ≠ 0 ∧ free + drawn out < drawn inc ∨ u.spillAll p out = none → exec (.porterSwap die hi) s = .next u) ∧
            ∀ v, u.spillAll p out = some v → drawn inc = 0 ∨ drawn inc ≤ free + drawn out → (∀ w ∈ inc, v.walkWaits w = false) →
              (∀ x ∈ v.holds, x.2.ready = false) → (∀ w ∈ out, w ∉ inc) →
              ∃ t, exec (.porterSwap die hi) s = done t ∧ (∀ w ∈ inc, (t.wg w).place = .resident) ∧
                ∀ w ∈ out, (t.wg w).place = .saved)) ∧
    (PorterTakes s die hi 3 p →
      (u.pitchOn p.cores .resident = none → exec (.porterSpill die hi) s = failed 1) ∧
      ∀ out, u.pitchOn p.cores .resident = some out →
        (u.imagesOk p out = false → exec (.porterSpill die hi) s = failed 3) ∧
        (u.imagesOk p out = true →
          (u.spillAll p out = none → exec (.porterSpill die hi) s = .next u) ∧
          ∀ v, u.spillAll p out = some v → exec (.porterSpill die hi) s = done v ∧
            ∀ w ∈ out, (v.wg w).place = .saved ∧ (v.wg w).drawn = (s.wg w).drawn)) ∧
    (PorterTakes s die hi 4 p →
      (u.pitchOn p.cores .staged = none → exec (.porterUnstage die hi) s = failed 1) ∧
      ∀ ws, u.pitchOn p.cores .staged = some ws →
        ∃ t, exec (.porterUnstage die hi) s = done t ∧ ∀ w ∈ ws, (t.wg w).place = .saved) ∧
    (PorterTakes s die hi 5 p →
      let named := u.asPitch (u.namedBy p)
      let images := ((List.range p.cores.length).map (u.imageAt p)).filter (· != 0)
      let here := [Place.resident, .dying, .staged, .saved, .noframe].findSome? (u.pitchOn p.cores)
      (named = none → images ≠ [] → (∀ z ∈ u.namedBy p, z = none) →
        exec (.porterKill die hi) s = done (images.foldl (fun s a => s.setImageState a 4) u)) ∧
      (named = none → images ≠ [] → (∃ z ∈ u.namedBy p, z ≠ none) → exec (.porterKill die hi) s = failed 1) ∧
      (named = none → images = [] → here = none → exec (.porterKill die hi) s = failed 1) ∧
      ∀ ws, named = some ws ∨ named = none ∧ images = [] ∧ here = some ws → (∀ w ∈ ws, settled u w) →
        ∃ t, exec (.porterKill die hi) s = done t ∧ ∀ w ∈ ws, (t.wg w).place = .killed)

/-- R331, R381 to R390: a porter's commands are checked and have their effect. -/
def Obligations.PorterCommandsMovePitches : Prop := PorterCommandsAreChecked ∧ PorterCommandsHaveTheirEffect

end

namespace Sys2Proof.Claims

open Sys2Proof.Machine

/-! ### Partitions, repair, trust and registers -/

/-- Way `w` of a slice belongs to partition `p`'s mask (R402). -/
def hasWay (d : Die) (slice p w : Nat) : Bool := (cget 0 d.pmask (16 * slice + p)).testBit w

/-- A change of the front end. -/
def onFe (s : State) (f : FrontEnd → FrontEnd) : State := { s with fe := f s.fe }

/-- The result of a monitor call (R430). -/
def answered (s : State) (r : Nat) : State := { s with trust := { s.trust with result := r } }

/-- The fields of PWAY that a write stores (R403): CEIL at most 16, FLOOR at most CEIL. -/
def pwayFields (v : Nat) : Pway :=
  let c := min 16 (v / 256 % 32)
  { mon := v.testBit 16, ceil := c, floor := min c (v % 32) }

/-- The register writes that change one thing: register, and the state after a write of `v` (R329, R373, R381, R402, R406,
R408, R423, R424, R430). There are 96 virtual functions, 4,096 queues and 64 grid contexts (R1). -/
def plainRegs (s : State) (n die : Nat) (v : Nat) : List (RegName × State) :=
  let vf (f : VfCfg → VfCfg) : State :=
    if n < 96 then onFe s fun e => { e with vfs := aput e.vfs n (f (agetD {} e.vfs n)) } else s
  let queue (f : QDesc → QDesc) : State := if n < 4096 then s.setQueue n (f (s.queue n)) else s
  [(.vfStage1 n, vf fun x => { x with s1en := v.testBit 63, s1addr := v % 2 ^ 52 }),
   (.vfPartition n, vf fun x => { x with part := v % 16 }),
   (.record n, queue fun d => { d with record := v.testBit 0 }),
   (.capSize n, queue fun d => { d with capSize := v }),
   (.rerun n, queue fun d => { d with rerun := if v = 0 ∨ s.fe.captures.length < v then none else some (v - 1) }),
   (.fthr, onFe s fun f => { f with fthr := v % 2 ^ 16 }),
   (.porterLow die, s.modDie die fun d => { d with porterLow := v % 2 ^ 64 }),
   (.pway die (n % 16), s.modDie die fun d => { d with pway := aput d.pway (n % 16) (pwayFields v) }),
   (.pcap die (n % 16), s.modDie die fun d => { d with pcap := cset 0 d.pcap (n % 16) (v % 2 ^ 32) }),
   (.peer (die % 64) (n % 32768), onFe s fun f => { f with peers := cset 0 f.peers (32768 * (die % 64) + n % 32768) v }),
   (.window n, onFe s fun f => { f with windows := aput f.windows n (v % 2 ^ 64, v / 2 ^ 64) })]

end Sys2Proof.Claims

section
open Sys2Proof Sys2Proof.Machine Sys2Proof.Claims

/-- No core withholds the acknowledgement of an invalidation: no stale area is full (R287). -/
def Sys2Proof.Claims.willing (s : State) : Prop := ∀ w, (s.wg w).areaUsed < Config.staleEvict

/-- R1, R397, R398, R401, R402, R404, R420, R421: ways that enter remote use leave every partition mask, and ways that change
use lose their lines; PMASK is written unless a way is another partition's, remote or retired; an interval moves at most one
way and no way twice; a gated core has nothing in L1, a gated chiplet nothing in its slices; a way retires from every mask,
and each field repair adds 1 to GEN. -/
def Sys2Proof.Claims.WaysGatingAndRepair : Prop :=
  ∀ (s : State) (die slice p : Nat), die < s.dies.length →
    let d := s.die die
    (∀ v, v ≤ 8 → willing s → ∃ t, exec (.rwaysWrite die v) s = .next t ∧ (t.die die).rways = v ∧ t.mem = s.mem ∧
      (∀ x ∈ (t.die die).l2, ∀ y ∈ x.2, ¬(16 - max v d.rways ≤ y.way ∧ y.way < 16 - min v d.rways)) ∧
      (slice < 32 → p < 16 → ∀ w, w < 16 →
        hasWay (t.die die) slice p w = (hasWay d slice p w && decide (d.rways < v → w < 16 - v)))) ∧
    (∀ m, slice < 32 → p < 16 → m < 2 ^ 16 →
      (∀ w, w < 16 → m.testBit w = true → w < 16 - d.rways ∧ (slice, w) ∉ d.retiredWays ∧
        ∀ q, q < 16 → q ≠ p → hasWay d slice q w = false) →
      exec (.pmaskWrite die slice p m) s = .next (s.setDie die { d with pmask := cset 0 d.pmask (16 * slice + p) m })) ∧
    (∀ m, slice < 32 → p < 16 → (∃ w q, w < 16 ∧ m.testBit w = true ∧ q < 16 ∧ q ≠ p ∧ hasWay d slice q w = true) →
      exec (.pmaskWrite die slice p m) s = .next s) ∧
    (slice < 32 → ∃ t, exec (.utilityInterval die slice) s = .next t ∧ (t.die die).retiredWays = d.retiredWays ∧
      ((∀ q w, q < 16 → w < 16 → hasWay (t.die die) slice q w = hasWay d slice q w) ∨
        ∃ q r w, q < 16 ∧ r < 16 ∧ q ≠ r ∧ w < 16 ∧ hasWay d slice q w = true ∧ hasWay (t.die die) slice r w = true ∧
          hasWay (t.die die) slice q w = false)) ∧
    (∀ core : CoreId, core.die = die → core.x < 12 → core.y < 12 → s.residentOn core = none → s.stagedOn core = none →
      (∀ q ∈ s.pend, (s.wg q.src).core ≠ core) →
      ∃ t, exec (.coreGating core) s = .next t ∧ (core.x, core.y) ∈ (t.die die).gatedCores ∧ t.mem = s.mem ∧
        ∀ line b, (core, b) ∉ (t.dirEnt line).l1) ∧
    (∀ k, k < 2 → willing s → ∃ t, exec (.cacheChipletGating die k) s = .next t ∧ k ∈ (t.die die).gatedChiplets ∧ t.mem = s.mem ∧
      ∀ x ∈ (t.die die).l2, x.1.1 / 16 ≠ k) ∧
    (∀ k, 2 ≤ k → exec (.cacheChipletGating die k) s = .next s) ∧
    (∀ w, slice < 32 → w < 16 → (slice, w) ∉ d.retiredWays → willing s → ∃ t, exec (.l2WayRetire die slice w) s = .next t ∧
      (slice, w) ∈ (t.die die).retiredWays ∧ (p < 16 → hasWay (t.die die) slice p w = false) ∧ t.mem = s.mem ∧
      (t.die die).gen = d.gen + 1) ∧
    ∀ row, row ∉ d.repairedRows → exec (.hbmRowRepair die row) s =
      .next (s.setDie die { d with repairedRows := d.repairedRows ++ [row], gen := d.gen + 1 })

/-- R206, R415 to R419: an uncorrected error poisons its granule and posts an event, a corrected one posts only; a failed link
poisons its lines; a scrub is counted, and poisons what it could not correct, by a choice (log entry 3), and no other granule. Here no ring that would be
written is enabled, and no access to memory is outstanding. -/
def Sys2Proof.Claims.ErrorsPoison : Prop :=
  ∀ (s : State), (∀ x ∈ s.groups, s.groupOuts x.1 = []) →
    (∀ die unit loc lines, die < s.dies.length → (s.die die).errRing.lg = 0 →
      ∃ t, exec (.linkFail die unit loc lines) s = .next t ∧ (unit, loc) ∈ (t.die die).failedLinks ∧
        ∀ g, g ∈ t.poison ↔ g ∈ s.poison ∨ g / 4 ∈ lines) ∧
    (∀ line, line < 2 ^ 33 → line / 2 ^ 31 < s.dies.length → (s.die (line / 2 ^ 31)).errRing.lg = 0 →
      ∃ t, exec (.scrub line) s = .next t ∧ (t.die (line / 2 ^ 31)).scrubs = (s.die (line / 2 ^ 31)).scrubs + 1 ∧
        t.mem = s.mem ∧ ∀ g, g ∈ t.poison ↔ g ∈ s.poison ∨ g / 4 = line ∧ (s.choices.headD 0).testBit (g % 4) = true) ∧
    (∀ c w off, aget? s.wgs ⟨c, w⟩ ≠ none → off < (s.grid c).k.reservation → ∃ t, exec (.eccError (.scratch c w off) false) s = .next t ∧
      off / 32 ∈ (t.wg ⟨c, w⟩).spPoison ∧ (t.wg ⟨c, w⟩).sp = (s.wg ⟨c, w⟩).sp) ∧
    ∀ pa, pa < 2 ^ 40 → (s.die (pa / 2 ^ 38 % 4)).errRing.lg = 0 →
      (∃ t, exec (.eccError (.mem pa) false) s = .next t ∧ pa / 32 ∈ t.poison ∧ t.mem = s.mem) ∧
      ∃ t, exec (.eccError (.mem pa) true) s = .next t ∧ t.poison = s.poison ∧ t.mem = s.mem

/-- R422: a partition reset frees the contexts of its functions, drops its wakes, takes its nodes out of the graph and disables
its queues. Here what its contexts issued has performed, they have no images, and the host's miss log is off. -/
def Sys2Proof.Claims.PartitionsReset : Prop :=
  ∀ (s : State) (p : Nat), willing s → s.fe.missIn = [] → s.fe.hostMiss.lg = 0 →
    let own (c : Nat) := ∃ g, (c, g) ∈ s.grids ∧ s.ofPart p g.vf = true
    (∀ q ∈ s.pend, ¬own q.src.c) → (∀ q ∈ s.peerOut, ¬own q.src.c) →
    (∀ x ∈ s.wgs, own x.1.c → x.2.image = 0 ∧ x.2.owed = [] ∧ ∀ g ∈ s.groupsOf x.1, s.owes g = false) →
    ∃ t, exec (.partitionReset p) s = .next t ∧ (∀ c, own c → aget? t.grids c = none) ∧
      (∀ k ∈ t.fe.wakes, s.ofPart p (s.queue k.1).vf = false) ∧ (∀ x ∈ t.fe.nodes, s.ofPart p x.vf = false) ∧
      ∀ q, s.ofPart p (t.queue q).vf = true → (t.queue q).en = false

/-- R428: an image is accepted when the key pairs of the monitor's image match the fused digest, its own key pair is not
revoked, its SVN is at least the fused minimum, and both its signatures verify. -/
def Sys2Proof.Claims.ImagesAreAccepted : Prop :=
  ∀ (t : Trust) (kind : Nat) (monitor img : List Byte),
    t.accepts kind monitor img = true ↔ sha384 (keyPairs monitor) = t.digest ∧
      ∃ f, flashOf kind img (keysOf monitor) = some f ∧ f.ok = true ∧ f.kidx ∉ t.revoked ∧ cget 0 t.minSvn kind ≤ f.svn

/-- R329, R360, R373, R421, R430 to R433: each call of the monitor that is well formed and that ownership allows answers 0
with its effect. Ownership refuses a stage-2 entry of another function's queue, a root table in another's frame and a core
in use, with 2 and no other effect; a stage-2 entry outside the tables and an image that is not accepted are answered 1.
Every check of a code object ends with 0, or with 2 and the refusal's code, once it has what it waits for. -/
def Sys2Proof.Claims.CallsActOnTheTables : Prop :=
  ∀ (s : State) (vf : Nat), s.trust.checking = none →
    (∀ iq v, vf < 96 → iq < 4096 → v < 2 ^ 32 →
      exec (.setStage2Entry vf iq v) s = .next (
        if (s.queue (v % 4096)).vf ≠ vf then answered s 2
        else answered (onFe s fun f => { f with stage2 := aput f.stage2 (vf, iq) v }) 0)) ∧
    (∀ iq v, 96 ≤ vf ∨ 4096 ≤ iq → exec (.setStage2Entry vf iq v) s = .next (answered s 1)) ∧
    (∀ ctx v, vf < 96 → ctx ≤ 64 → v < 2 ^ 64 →
      let root := v % 2 ^ 40
      let asid := v / 2 ^ 48
      exec (.setTroot vf ctx v) s = .next (
        if s.frameOk vf (root * 4096) 4096 then
          answered (onFe s fun f =>
            let g : FrontEnd := if ctx = 64 then { f with vfs := aput f.vfs vf { agetD {} f.vfs vf with troot := root, asid := asid } }
              else { f with troots := aput f.troots ctx (asid, root) }
            { g with asids := if (vf, asid) ∈ f.asids then f.asids else f.asids ++ [(vf, asid)]
                     killedAsids := f.killedAsids.filter (· != asid) }) 0
        else answered s 2)) ∧
    (∀ f o, f < 2 ^ 19 → o ≤ 96 ∨ o = 0xFF →
      let old := cget 0 s.fe.owner f
      let used := 1 ≤ old ∧ old ≤ 96 ∧ old ≠ o ∧ s.held? (old - 1) = true
      let line := ownerLine f
      (used → exec (.assignFrame f o) s = .next (answered s 2)) ∧
      (¬used → (s.dirEnt line).tsh = [] →
        exec (.assignFrame f o) s = .next (answered (onFe s fun e => { e with owner := cset 0 e.owner f o }) 0)) ∧
      (¬used → unusedBy s (fun _ => True) line → ∃ t, exec (.assignFrame f o) s = .next t ∧ cget 0 t.fe.owner f = o ∧
        (∀ h, h ≠ f → cget 0 t.fe.owner h = cget 0 s.fe.owner h) ∧ t.trust.result = 0 ∧
        ∀ a ∈ (s.dirEnt line).tsh, ∀ tr ∈ agetD [] t.tlb a, line ∉ tr.lines)) ∧
    (∀ i base len, vf < 96 → i < 8 → base % 0x200000 = 0 → len % 0x200000 = 0 → base / 2 ^ 51 % 2 = 1 → base + len ≤ 2 ^ 52 →
      exec (.setHostRange vf i base len) s = .next (answered (onFe s fun e => { e with
        vfs := aput e.vfs vf { agetD {} e.vfs vf with ranges := aput (agetD {} e.vfs vf).ranges i (base, len) } }) 0)) ∧
    (∀ core, s.inService core = true →
      exec (.retireCore core) s = .next (
        if s.residentOn core = none ∧ s.stagedOn core = none then
          answered (s.modDie core.die fun d => { d with out := d.out ++ [(core.x, core.y)], gen := d.gen + 1 }) 0
        else answered s 2))

/-- R350, R427 to R433: the calls that check objects and images, and that attest, act; while a check waits for a page every
other call waits. -/
def Sys2Proof.Claims.CallsOnImagesAct : Prop :=
  ∀ (s : State) (vf : Nat), s.trust.checking = none →
    (∀ pq code, code ≠ 0 → code % 128 = 0 → code < 2 ^ 57 →
      let w : Holder := .front false (2 ^ 64 + pq)
      let owner := (s.queue pq).vf
      let key := (agetD {} s.fe.vfs owner).key
      let ctx := s.freeCtx.filter fun c => (aget? s.fe.troots c).isSome
      let read := s.readObject w owner code key.isSome
      let waits (s1 : State) : Out := .next { s1 with trust := { s1.trust with checking := some (pq, code) } }
      let found (s1 : State) (c : Nat) : Out := .next { s1.feDone w with
        trust := { s1.trust with checking := none, result := if c = 0 then 0 else 2, refusal := c } }
      (∀ s1 f va, read = .fault s1 f va → exec (.checkCodeObject pq code) s = found s1 1) ∧
      (∀ s1, read = .wait s1 → exec (.checkCodeObject pq code) s = waits s1) ∧
      ∀ s1 f ss, read = .ok s1 (f, ss) →
        let x : Launch := { vf := owner, total := 1, pw := 1, ph := 1, dgrant := 1600, key := key, dies := s.dies }
        (∀ c, loadObject f ss x (codeArea (ctx.getD 0)) = .error c → exec (.checkCodeObject pq code) s = found s1 c) ∧
        ∀ k laid, loadObject f ss x (codeArea (ctx.getD 0)) = .ok (k, laid) →
          (ctx = none → exec (.checkCodeObject pq code) s = found s1 0) ∧
          ∀ c, ctx = some c →
            let put := s1.fePut w (s1.jobSpace c owner) .bindOnly (laid.flatMap fun y => linesFrom y.2.1 y.2.2)
            (∀ s2, put = .ok s2 () → exec (.checkCodeObject pq code) s = found s2 0) ∧
            (∀ s2, put = .wait s2 → exec (.checkCodeObject pq code) s = waits s2) ∧
            ∀ s2 f va, put = .fault s2 f va → exec (.checkCodeObject pq code) s = found s2 1) ∧
    (∀ kind img, 1 ≤ kind → kind ≤ 3 →
      exec (.stageUpdate kind img) s = .next (
        if s.trust.accepts kind s.trust.monitor.bytes img = true then
          answered { s with trust := { s.trust with
            slots := aput s.trust.slots (kind, if cget 0 s.trust.running kind = 1 then 1 else 0) { image := .given img, tryMark := true } } } 0
        else answered s 1)) ∧
    (∀ kind r f, cget 0 s.trust.running kind = r + 1 → aget? s.trust.slots (kind, r) = some f →
      (∀ g, aget? s.trust.slots (kind, 1 - r) = some g → g.tryMark = false) →
      exec (.commitUpdate kind) s = .next (answered { s with trust := { s.trust with
        slots := aput s.trust.slots (kind, r) { f with tryMark := false }
        minSvn := cset 0 s.trust.minSvn kind (max (cget 0 s.trust.minSvn kind) (svnOf f.image.bytes)) } } 0)) ∧
    (∀ nonce dest, vf < 96 → dest < 2 ^ 52 → s.frameOk vf dest 360 = true →
      let u := s.homeWrite dest (s.report vf nonce)
      exec (.attest vf nonce dest) s =
        .next (answered { u with trust := { u.trust with reports := u.trust.reports + 1 } } 0)) ∧
    (vf < 96 → exec (.registerCodeKey vf 0) s = .next (answered (onFe s fun e => { e with
      vfs := aput e.vfs vf { agetD {} e.vfs vf with key := none } }) 0)) ∧
    (∀ pa, vf < 96 → pa ≠ 0 → pa < 2 ^ 40 → cget 0 s.fe.owner (pa / 0x200000) = 0xFF →
      cget 0 s.fe.owner ((pa + 148) / 0x200000) = 0xFF →
      exec (.registerCodeKey vf pa) s = .next (answered (onFe s fun e => { e with
        vfs := aput e.vfs vf { agetD {} e.vfs vf with key := some (s.memBytes pa 149) } }) 0))

/-- The calls of the monitor, with any operands. -/
def Sys2Proof.Claims.monitorCalls (a b c d : Nat) (core : CoreId) (img : List Byte) : List Instr :=
  [.setStage2Entry a b c, .setTroot a b c, .assignFrame a b, .setHostRange a b c d, .checkCodeObject a b, .stageUpdate a img,
    .commitUpdate a, .retireCore core, .attest a b c, .registerCodeKey a b]

/-- R329, R350, R360, R373, R421, R427 to R433: the calls of the monitor; one at a time, so that while a check waits for a page
the others wait. -/
def Obligations.MonitorCallsCheckAndAct : Prop :=
  ImagesAreAccepted ∧ CallsActOnTheTables ∧ CallsOnImagesAct ∧
    ∀ (s : State) (a b c d : Nat) (core : CoreId) (img : List Byte), s.trust.checking ≠ none →
      ∀ i ∈ monitorCalls a b c d core img, exec i s = .next s

/-- R300, R305, R329, R331, R332, R373, R381, R402, R403, R406, R408, R423: a write of a register or control block that has
no row of its own stores its fields. A queue descriptor is written only while it is disabled, but for EN and EVCI; a write
of CI lets requests that waited be posted; OVF is only cleared; a wake aperture reads as zero. The rings' numbers, the places
of an endpoint's fields and the form of the window table are the model's choices (log entry 6), and so is the place of an
aperture (log entry 57). -/
def Sys2Proof.Claims.RegisterWritesStoreTheirFields : Prop :=
  ∀ (s : State) (n die v : Nat), v < 2 ^ 128 →
    (∀ p ∈ plainRegs s n die v, exec (.registerWrite p.1 v) s = .next p.2) ∧
    (∀ x, exec (.registerWrite (.endpoint (n % 4096)) x) s =
      .next (onFe s fun f => { f with endpoints := cset 0 f.endpoints (n % 4096) (x % 2 ^ 204) })) ∧
    (n < 96 → let base := v / 32768 % 2 ^ 37 * 32768
      ∃ t, exec (.registerWrite (.wakeBase n) v) s = .next t ∧
        t.fe = { s.fe with vfs := aput s.fe.vfs n { agetD {} s.fe.vfs n with wakeBase := base } } ∧
        ∀ a, cget 0 t.mem a = if base ≠ 0 ∧ base ≤ a ∧ a < base + 32768 then 0 else cget 0 s.mem a) ∧
    (n < 4096 →
      let d := s.queue n
      exec (.registerWrite (.desc n 36) v) s = .next (s.setQueue n { d with evci := BitVec.ofNat 32 v }) ∧
      (d.en = true → ∀ off, off ≠ 36 → off ≠ 32 → exec (.registerWrite (.desc n off) v) s = .next (s.setQueue n d)) ∧
      (d.en = true → v.testBit 18 = false →
        exec (.registerWrite (.desc n 32) v) s = .next (s.setQueue n { d with en := false })) ∧
      (d.en = false →
        exec (.registerWrite (.desc n 0) v) s = .next (s.setQueue n { d with last := v % 2 ^ 57 }) ∧
        exec (.registerWrite (.desc n 8) v) s = .next (s.setQueue n { d with argwin := v % 2 ^ 57 }) ∧
        exec (.registerWrite (.desc n 16) v) s = .next (s.setQueue n { d with evb := v % 2 ^ 57 }) ∧
        exec (.registerWrite (.desc n 24) v) s = .next (s.setQueue n { d with evlg := v % 16, evovf := false }) ∧
        exec (.registerWrite (.desc n 32) v) s = .next (s.setQueue n { d with
          vf := v % 2 ^ 7, dom := v / 2 ^ 8 % 2 ^ 8, pricap := v / 2 ^ 16 % 4, en := v.testBit 18 && decide (v % 2 ^ 7 < 96)
          evci := BitVec.ofNat 32 (v / 2 ^ 32) }))) ∧
    (s.holds = [] → (∀ d ∈ s.dies, d.porterPost = none) → exec (.registerWrite (.ringCI 1) v) s =
      .next (onFe s fun f => { f with svcq := { f.svcq with ci := BitVec.ofNat 32 v } })) ∧
    (v.testBit 0 = false → exec (.registerWrite (.ringOVF 1) v) s =
      .next (onFe s fun f => { f with svcq := { f.svcq with ovf := false } })) ∧
    exec (.registerWrite (.ringBase 2) v) s =
      .next (onFe s fun f => { f with fevq := { f.fevq with lg := v / 2 ^ 57 % 16, base := v % 2 ^ 57 } }) ∧
    (∀ c w i x, aget? s.wgs ⟨c, w⟩ = some x → i < 128 → exec (.registerWrite (.handlerTable c w i) v) s =
      .next (s.setWg ⟨c, w⟩ { x with htab := cset 0 x.htab i (BitVec.ofNat 64 v) })) ∧
    ∃ t, exec (.registerWrite (.watch true) v) s = .next t ∧ (∀ a, a ∈ t.watched ↔ a ∈ s.watched ∨ a = v % 2 ^ 57) ∧
      ∃ u, exec (.registerWrite (.watch false) v) s = .next u ∧ ∀ a, a ∈ u.watched ↔ a ∈ s.watched ∧ a ≠ v % 2 ^ 57

/-- R397 to R404, R415 to R423 and the register writes: partitions, errors, repair, and the registers without a row. -/
def Obligations.RegistersPartitionsErrorsAndRepair : Prop :=
  WaysGatingAndRepair ∧ ErrorsPoison ∧ PartitionsReset ∧ RegisterWritesStoreTheirFields

end

namespace Sys2Proof.Claims

open Sys2Proof.Machine

/-- The scalar memory word at the pc takes a precise fault in `s1`, which the checks left, and keeps its operands in a log
entry of its group (R191, R302). -/
def raisesAt (i : Instr) (s s1 : State) (cause info : Nat) : Prop :=
  ∃ (u : State) (z : LogEntry), exec i s = .next (u.fault cause info) ∧ z.waddr = s.me.pc ∧
    { u with groups := s1.groups, nextHandle := s1.nextHandle } = s1 ∧ (∀ h, h ≠ own s → u.group h = s1.group h) ∧
    u.group (own s) = { s1.group (own s) with log := (s1.group (own s)).log ++ [z] }

end Sys2Proof.Claims

section
open Sys2Proof Sys2Proof.Machine Sys2Proof.Claims

/-- R125, R181, R183, R300, R302, R416 for SLD, SST, SATOM and SWAITA: bits [63:57] set outside the scratchpad space raise
PROT; past the reservation SPBOUND; a misaligned address ALIGN; a watched byte WATCH (log entry 6); no permission PROT;
poison read POISON: the first that applies, with INFO the address (for WATCH and memory poison the byte). An address without a
translation leaves the word outstanding with its access held. No store of the core translates again meanwhile (R368, log
entry 20). -/
def Obligations.AccessesAreChecked : Prop :=
  ∀ (i : Instr) (la : BitVec 4) (n : Nat) (k : SKind) (s : State) (l : Lvl),
    Legal i s l → plainMem i = some la → scalarShape i = some (n, k) → (s.group (own s)).scalarLog s.me.pc = none →
    (∀ p ∈ s.pend, p.again = false) →
    let a := (s.me.sops l i).addr
    let off := a % 2 ^ 32
    let reads := k.acc = .read ∨ k.acc = .atomic
    (2 ^ 57 ≤ a → a / 2 ^ 32 ≠ 0xFFFFFFFF → raisesAt i s s 0x0A a) ∧
    (a / 2 ^ 32 = 0xFFFFFFFF →
      (s.spTarget (s.wgId s.cur) off n = none → raisesAt i s s 0x08 a) ∧
      ∀ t, s.spTarget (s.wgId s.cur) off n = some t →
        (off % n ≠ 0 → raisesAt i s s 0x07 a) ∧
        (off % n = 0 → reads → s.spPoisonAt t.1 t.2 n ≠ none → raisesAt i s s 0x18 a)) ∧
    (a < 2 ^ 57 →
      (a % n ≠ 0 → raisesAt i s s 0x07 a) ∧
      (a % n = 0 → (∃ x ∈ s.watched, a ≤ x ∧ x < a + n) →
        ∃ x ∈ s.watched, a ≤ x ∧ x < a + n ∧ raisesAt i s s 0x1B x) ∧
      (a % n = 0 → (∀ x ∈ s.watched, x < a ∨ a + n ≤ x) → ∀ s1,
        (s.access (s.space s.cur) a k.acc = (s1, .fault .prot) → raisesAt i s s1 0x0A a) ∧
        (s.access (s.space s.cur) a k.acc = (s1, .fault .poison) → raisesAt i s s1 0x18 a) ∧
        (∀ tr x, s.access (s.space s.cur) a k.acc = (s1, .ok tr) → reads → s1.poisonAt (tr.pa a) n = some x →
          raisesAt i s s1 0x18 (a + (x - tr.pa a))) ∧
        (s.access (s.space s.cur) a k.acc = (s1, .fault .page) → ∃ t h x, exec i s = .next t ∧
          aget? t.holds h = some x ∧ x.who = .scalar s.cur ∧ x.va = a ∧ x.kind = k.acc ∧
          t.me.pc = s1.me.pc + 4 ∧ ∃ z, (t.group (own s)).log = (s1.group (own s)).log ++ [z] ∧ z.handle = h ∧
            z.waddr = s.me.pc)))

end
end

