-- ==== Sys2Proof/Laws/Cells.lean ====
section
/-! SUPPORT. Sparse data: reading after writing, and the canonical form kept by every write. -/
namespace Sys2Proof.Machine

variable {α : Type}

/-- Every listed key is above `k`, in order, and no value is the default. -/
def cabove [DecidableEq α] (d : α) : Nat → Cells α → Prop
  | _, [] => True
  | k, (i, v) :: m => k < i ∧ v ≠ d ∧ cabove d i m

theorem cwf_cons [DecidableEq α] (d : α) (i : Nat) (v : α) (m : Cells α) :
    cwf d ((i, v) :: m) = true ↔ v ≠ d ∧ cabove d i m := by
  induction m generalizing i v with
  | nil => simp [cwf, cabove]
  | cons x m ih =>
    obtain ⟨j, u⟩ := x
    simp only [cwf, cabove, Bool.and_eq_true, decide_eq_true_eq, ih]
    tauto

theorem cabove_mono [DecidableEq α] {d : α} {j k : Nat} (m : Cells α) (h : j ≤ k) (hk : cabove d k m) : cabove d j m := by
  cases m with
  | nil => trivial
  | cons x m => exact ⟨lt_of_le_of_lt h hk.1, hk.2⟩

theorem cwf_of_cabove [DecidableEq α] {d : α} {k : Nat} {m : Cells α} (h : cabove d k m) : cwf d m = true := by
  cases m with
  | nil => rfl
  | cons x m => exact (cwf_cons d x.1 x.2 m).2 h.2

theorem cabove_cput [DecidableEq α] {d : α} {k j : Nat} {v : α} (m : Cells α) (hj : j < k) (hv : v ≠ d)
    (h : cabove d j m) : cabove d j (cput m k v) := by
  induction m generalizing j with
  | nil => exact ⟨hj, hv, trivial⟩
  | cons x m ih =>
    obtain ⟨i, u⟩ := x
    obtain ⟨h1, h2, h3⟩ := h
    unfold cput
    split
    · next hi => exact ⟨h1, h2, ih hi h3⟩
    · split
      · next hi => subst hi; exact ⟨hj, hv, h3⟩
      · next hn he => exact ⟨hj, hv, by omega, h2, h3⟩

theorem cabove_cdel [DecidableEq α] {d : α} {k j : Nat} (m : Cells α) (h : cabove d j m) : cabove d j (cdel m k) := by
  induction m generalizing j with
  | nil => trivial
  | cons x m ih =>
    obtain ⟨i, u⟩ := x
    obtain ⟨h1, h2, h3⟩ := h
    unfold cdel
    split
    · exact ih (cabove_mono m (by omega) h3)
    · exact ⟨h1, h2, ih h3⟩

theorem cwf_cdel [DecidableEq α] {d : α} (m : Cells α) (k : Nat) (h : cwf d m = true) : cwf d (cdel m k) = true := by
  cases m with
  | nil => rfl
  | cons x m =>
    obtain ⟨i, u⟩ := x
    obtain ⟨h1, h2⟩ := (cwf_cons d i u m).1 h
    unfold cdel
    split
    · exact cwf_of_cabove (cabove_cdel m h2)
    · exact (cwf_cons d i u _).2 ⟨h1, cabove_cdel m h2⟩

/-- Writing keeps the canonical form. -/
theorem cwf_cset [DecidableEq α] {d : α} (m : Cells α) (k : Nat) (v : α) (h : cwf d m = true) : cwf d (cset d m k v) = true := by
  unfold cset
  split
  · exact cwf_cdel m k h
  · next hv =>
    cases m with
    | nil => simp [cput, cwf, hv]
    | cons x m =>
      obtain ⟨i, u⟩ := x
      obtain ⟨h1, h2⟩ := (cwf_cons d i u m).1 h
      unfold cput
      split
      · next hi => exact (cwf_cons d i u _).2 ⟨h1, cabove_cput m hi hv h2⟩
      · split
        · next hi => subst hi; exact (cwf_cons d i v m).2 ⟨hv, h2⟩
        · next hn he => exact (cwf_cons d k v _).2 ⟨hv, by omega, h1, h2⟩

theorem cwf_csetList [DecidableEq α] {d : α} (vs : List α) (m : Cells α) (k : Nat) (h : cwf d m = true) :
    cwf d (csetList d m k vs) = true := by
  induction vs generalizing m k with
  | nil => exact h
  | cons v vs ih => exact ih _ _ (cwf_cset m k v h)

/-! ### Reading -/

theorem cget_cput [DecidableEq α] (d : α) (m : Cells α) (k : Nat) (v : α) (i : Nat) :
    cget d (cput m k v) i = if i = k then v else cget d m i := by
  induction m with
  | nil => simp [cput, cget, eq_comm]
  | cons x m ih =>
    obtain ⟨j, u⟩ := x
    unfold cput
    split
    · next hj =>
      by_cases hji : j = i
      · subst hji; simp [cget]; omega
      · simp [cget, hji, ih]
    · split
      · next hj =>
        subst hj
        by_cases hji : j = i
        · simp [cget, hji]
        · simp [cget, hji, Ne.symm hji]
      · next h1 h2 =>
        by_cases hki : k = i
        · simp [cget, hki]
        · simp [cget, hki, Ne.symm hki]

theorem cget_cdel (d : α) (m : Cells α) (k i : Nat) : cget d (cdel m k) i = if i = k then d else cget d m i := by
  induction m with
  | nil => simp [cdel, cget]
  | cons x m ih =>
    obtain ⟨j, u⟩ := x
    unfold cdel
    split
    · next hj =>
      subst hj
      by_cases hji : i = j
      · simpa [hji] using ih
      · simpa [cget, hji, Ne.symm hji] using ih
    · next hj =>
      by_cases hji : j = i
      · subst hji; simp [cget, hj]
      · simp [cget, hji, ih]

/-- Reading after writing one key. -/
theorem cget_cset [DecidableEq α] (d : α) (m : Cells α) (k : Nat) (v : α) (i : Nat) :
    cget d (cset d m k v) i = if i = k then v else cget d m i := by
  unfold cset
  split
  · next hv => rw [cget_cdel, hv]
  · exact cget_cput d m k v i

/-- Reading after writing consecutive keys. -/
theorem cget_csetList [DecidableEq α] (d : α) (vs : List α) (m : Cells α) (k i : Nat) :
    cget d (csetList d m k vs) i = if k ≤ i ∧ i < k + vs.length then vs.getD (i - k) d else cget d m i := by
  induction vs generalizing m k with
  | nil =>
    have h0 : ¬(k ≤ i ∧ i < k + ([] : List α).length) := by simp
    rw [if_neg h0, csetList]
  | cons v vs ih =>
    rw [csetList, ih, cget_cset]
    by_cases h1 : i = k
    · subst h1; simp
    · by_cases h2 : k ≤ i ∧ i < k + (v :: vs).length
      · have h3 : k + 1 ≤ i ∧ i < k + 1 + vs.length := by simp at h2; omega
        have h4 : i - k = (i - (k + 1)) + 1 := by omega
        rw [if_pos h2, if_pos h3, h4]
        rfl
      · have h3 : ¬(k + 1 ≤ i ∧ i < k + 1 + vs.length) := by simp at h2; omega
        simp only [h2, h3, if_false, h1]

/-! ### Objects by name -/

theorem aget?_aput {κ : Type} [DecidableEq κ] (m : Assoc κ α) (k : κ) (v : α) (i : κ) :
    aget? (aput m k v) i = if i = k then some v else aget? m i := by
  induction m with
  | nil => simp [aput, aget?, eq_comm]
  | cons x m ih =>
    obtain ⟨j, u⟩ := x
    unfold aput
    split
    · next hj =>
      subst hj
      by_cases hji : i = j
      · simp [aget?, hji]
      · simp [aget?, hji, Ne.symm hji]
    · next hj =>
      by_cases hji : j = i
      · subst hji; simp [aget?, hj]
      · simp [aget?, hji, ih]

@[simp] theorem agetD_aput_self {κ : Type} [DecidableEq κ] (d : α) (m : Assoc κ α) (k : κ) (v : α) :
    agetD d (aput m k v) k = v := by simp [agetD, aget?_aput]

theorem agetD_aput {κ : Type} [DecidableEq κ] (d : α) (m : Assoc κ α) (k : κ) (v : α) (i : κ) :
    agetD d (aput m k v) i = if i = k then v else agetD d m i := by
  by_cases h : i = k <;> simp [agetD, aget?_aput, h]

end Sys2Proof.Machine
end

