-- ==== Sys2Proof/Laws/State.lean ====
section
/-! SUPPORT. What each named update of the state leaves in every field, and what each accessor then reads. -/
namespace Sys2Proof.Machine

variable (s : State)

/-! ### `setSeq` -/

@[simp] theorem State.setSeq_plan (a : Agent) (q : Seq) : (s.setSeq a q).plan = s.plan := rfl
@[simp] theorem State.setSeq_clock (a : Agent) (q : Seq) : (s.setSeq a q).clock = s.clock := rfl
@[simp] theorem State.setSeq_choices (a : Agent) (q : Seq) : (s.setSeq a q).choices = s.choices := rfl
@[simp] theorem State.setSeq_freeCtr (a : Agent) (q : Seq) : (s.setSeq a q).freeCtr = s.freeCtr := rfl
@[simp] theorem State.setSeq_cur (a : Agent) (q : Seq) : (s.setSeq a q).cur = s.cur := rfl
@[simp] theorem State.setSeq_stalled (a : Agent) (q : Seq) : (s.setSeq a q).stalled = s.stalled := rfl
@[simp] theorem State.setSeq_mem (a : Agent) (q : Seq) : (s.setSeq a q).mem = s.mem := rfl
@[simp] theorem State.setSeq_poison (a : Agent) (q : Seq) : (s.setSeq a q).poison = s.poison := rfl
@[simp] theorem State.setSeq_pend (a : Agent) (q : Seq) : (s.setSeq a q).pend = s.pend := rfl
@[simp] theorem State.setSeq_dir (a : Agent) (q : Seq) : (s.setSeq a q).dir = s.dir := rfl
@[simp] theorem State.setSeq_tlb (a : Agent) (q : Seq) : (s.setSeq a q).tlb = s.tlb := rfl
@[simp] theorem State.setSeq_holds (a : Agent) (q : Seq) : (s.setSeq a q).holds = s.holds := rfl
@[simp] theorem State.setSeq_nextHandle (a : Agent) (q : Seq) : (s.setSeq a q).nextHandle = s.nextHandle := rfl
@[simp] theorem State.setSeq_watched (a : Agent) (q : Seq) : (s.setSeq a q).watched = s.watched := rfl
@[simp] theorem State.setSeq_grids (a : Agent) (q : Seq) : (s.setSeq a q).grids = s.grids := rfl
@[simp] theorem State.setSeq_pitches (a : Agent) (q : Seq) : (s.setSeq a q).pitches = s.pitches := rfl
@[simp] theorem State.setSeq_wgs (a : Agent) (q : Seq) : (s.setSeq a q).wgs = s.wgs := rfl
@[simp] theorem State.setSeq_groups (a : Agent) (q : Seq) : (s.setSeq a q).groups = s.groups := rfl
@[simp] theorem State.setSeq_fe (a : Agent) (q : Seq) : (s.setSeq a q).fe = s.fe := rfl
@[simp] theorem State.setSeq_dies (a : Agent) (q : Seq) : (s.setSeq a q).dies = s.dies := rfl
@[simp] theorem State.setSeq_hostPend (a : Agent) (q : Seq) : (s.setSeq a q).hostPend = s.hostPend := rfl
@[simp] theorem State.setSeq_hostWait (a : Agent) (q : Seq) : (s.setSeq a q).hostWait = s.hostWait := rfl
@[simp] theorem State.setSeq_peerOut (a : Agent) (q : Seq) : (s.setSeq a q).peerOut = s.peerOut := rfl
@[simp] theorem State.setSeq_shelf (a : Agent) (q : Seq) : (s.setSeq a q).shelf = s.shelf := rfl
@[simp] theorem State.setSeq_oldCode (a : Agent) (q : Seq) : (s.setSeq a q).oldCode = s.oldCode := rfl
@[simp] theorem State.setSeq_trust (a : Agent) (q : Seq) : (s.setSeq a q).trust = s.trust := rfl
@[simp] theorem State.setSeq_grid_read (a : Agent) (q : Seq) (k : Nat) : (s.setSeq a q).grid k = s.grid k := rfl
@[simp] theorem State.setSeq_pitch_read (a : Agent) (q : Seq) (k j : Nat) : (s.setSeq a q).pitch k j = s.pitch k j := rfl
@[simp] theorem State.setSeq_wg_read (a : Agent) (q : Seq) (v : WgId) : (s.setSeq a q).wg v = s.wg v := rfl
@[simp] theorem State.setSeq_group_read (a : Agent) (q : Seq) (h : GrpId) : (s.setSeq a q).group h = s.group h := rfl
@[simp] theorem State.setSeq_die_read (a : Agent) (q : Seq) (n : Nat) : (s.setSeq a q).die n = s.die n := rfl
@[simp] theorem State.setSeq_dirEnt_read (a : Agent) (q : Seq) (n : Nat) : (s.setSeq a q).dirEnt n = s.dirEnt n := rfl

/-! ### `modSeq` -/

@[simp] theorem State.modSeq_plan (a : Agent) (f : Seq → Seq) : (s.modSeq a f).plan = s.plan := rfl
@[simp] theorem State.modSeq_clock (a : Agent) (f : Seq → Seq) : (s.modSeq a f).clock = s.clock := rfl
@[simp] theorem State.modSeq_choices (a : Agent) (f : Seq → Seq) : (s.modSeq a f).choices = s.choices := rfl
@[simp] theorem State.modSeq_freeCtr (a : Agent) (f : Seq → Seq) : (s.modSeq a f).freeCtr = s.freeCtr := rfl
@[simp] theorem State.modSeq_cur (a : Agent) (f : Seq → Seq) : (s.modSeq a f).cur = s.cur := rfl
@[simp] theorem State.modSeq_stalled (a : Agent) (f : Seq → Seq) : (s.modSeq a f).stalled = s.stalled := rfl
@[simp] theorem State.modSeq_mem (a : Agent) (f : Seq → Seq) : (s.modSeq a f).mem = s.mem := rfl
@[simp] theorem State.modSeq_poison (a : Agent) (f : Seq → Seq) : (s.modSeq a f).poison = s.poison := rfl
@[simp] theorem State.modSeq_pend (a : Agent) (f : Seq → Seq) : (s.modSeq a f).pend = s.pend := rfl
@[simp] theorem State.modSeq_dir (a : Agent) (f : Seq → Seq) : (s.modSeq a f).dir = s.dir := rfl
@[simp] theorem State.modSeq_tlb (a : Agent) (f : Seq → Seq) : (s.modSeq a f).tlb = s.tlb := rfl
@[simp] theorem State.modSeq_holds (a : Agent) (f : Seq → Seq) : (s.modSeq a f).holds = s.holds := rfl
@[simp] theorem State.modSeq_nextHandle (a : Agent) (f : Seq → Seq) : (s.modSeq a f).nextHandle = s.nextHandle := rfl
@[simp] theorem State.modSeq_watched (a : Agent) (f : Seq → Seq) : (s.modSeq a f).watched = s.watched := rfl
@[simp] theorem State.modSeq_grids (a : Agent) (f : Seq → Seq) : (s.modSeq a f).grids = s.grids := rfl
@[simp] theorem State.modSeq_pitches (a : Agent) (f : Seq → Seq) : (s.modSeq a f).pitches = s.pitches := rfl
@[simp] theorem State.modSeq_wgs (a : Agent) (f : Seq → Seq) : (s.modSeq a f).wgs = s.wgs := rfl
@[simp] theorem State.modSeq_groups (a : Agent) (f : Seq → Seq) : (s.modSeq a f).groups = s.groups := rfl
@[simp] theorem State.modSeq_fe (a : Agent) (f : Seq → Seq) : (s.modSeq a f).fe = s.fe := rfl
@[simp] theorem State.modSeq_dies (a : Agent) (f : Seq → Seq) : (s.modSeq a f).dies = s.dies := rfl
@[simp] theorem State.modSeq_hostPend (a : Agent) (f : Seq → Seq) : (s.modSeq a f).hostPend = s.hostPend := rfl
@[simp] theorem State.modSeq_hostWait (a : Agent) (f : Seq → Seq) : (s.modSeq a f).hostWait = s.hostWait := rfl
@[simp] theorem State.modSeq_peerOut (a : Agent) (f : Seq → Seq) : (s.modSeq a f).peerOut = s.peerOut := rfl
@[simp] theorem State.modSeq_shelf (a : Agent) (f : Seq → Seq) : (s.modSeq a f).shelf = s.shelf := rfl
@[simp] theorem State.modSeq_oldCode (a : Agent) (f : Seq → Seq) : (s.modSeq a f).oldCode = s.oldCode := rfl
@[simp] theorem State.modSeq_trust (a : Agent) (f : Seq → Seq) : (s.modSeq a f).trust = s.trust := rfl
@[simp] theorem State.modSeq_grid_read (a : Agent) (f : Seq → Seq) (k : Nat) : (s.modSeq a f).grid k = s.grid k := rfl
@[simp] theorem State.modSeq_pitch_read (a : Agent) (f : Seq → Seq) (k j : Nat) : (s.modSeq a f).pitch k j = s.pitch k j := rfl
@[simp] theorem State.modSeq_wg_read (a : Agent) (f : Seq → Seq) (v : WgId) : (s.modSeq a f).wg v = s.wg v := rfl
@[simp] theorem State.modSeq_group_read (a : Agent) (f : Seq → Seq) (h : GrpId) : (s.modSeq a f).group h = s.group h := rfl
@[simp] theorem State.modSeq_die_read (a : Agent) (f : Seq → Seq) (n : Nat) : (s.modSeq a f).die n = s.die n := rfl
@[simp] theorem State.modSeq_dirEnt_read (a : Agent) (f : Seq → Seq) (n : Nat) : (s.modSeq a f).dirEnt n = s.dirEnt n := rfl

/-! ### `setGrid` -/

@[simp] theorem State.setGrid_plan (c : Nat) (g : Grid) : (s.setGrid c g).plan = s.plan := rfl
@[simp] theorem State.setGrid_clock (c : Nat) (g : Grid) : (s.setGrid c g).clock = s.clock := rfl
@[simp] theorem State.setGrid_choices (c : Nat) (g : Grid) : (s.setGrid c g).choices = s.choices := rfl
@[simp] theorem State.setGrid_freeCtr (c : Nat) (g : Grid) : (s.setGrid c g).freeCtr = s.freeCtr := rfl
@[simp] theorem State.setGrid_cur (c : Nat) (g : Grid) : (s.setGrid c g).cur = s.cur := rfl
@[simp] theorem State.setGrid_stalled (c : Nat) (g : Grid) : (s.setGrid c g).stalled = s.stalled := rfl
@[simp] theorem State.setGrid_mem (c : Nat) (g : Grid) : (s.setGrid c g).mem = s.mem := rfl
@[simp] theorem State.setGrid_poison (c : Nat) (g : Grid) : (s.setGrid c g).poison = s.poison := rfl
@[simp] theorem State.setGrid_pend (c : Nat) (g : Grid) : (s.setGrid c g).pend = s.pend := rfl
@[simp] theorem State.setGrid_dir (c : Nat) (g : Grid) : (s.setGrid c g).dir = s.dir := rfl
@[simp] theorem State.setGrid_tlb (c : Nat) (g : Grid) : (s.setGrid c g).tlb = s.tlb := rfl
@[simp] theorem State.setGrid_holds (c : Nat) (g : Grid) : (s.setGrid c g).holds = s.holds := rfl
@[simp] theorem State.setGrid_nextHandle (c : Nat) (g : Grid) : (s.setGrid c g).nextHandle = s.nextHandle := rfl
@[simp] theorem State.setGrid_watched (c : Nat) (g : Grid) : (s.setGrid c g).watched = s.watched := rfl
@[simp] theorem State.setGrid_seqs (c : Nat) (g : Grid) : (s.setGrid c g).seqs = s.seqs := rfl
@[simp] theorem State.setGrid_pitches (c : Nat) (g : Grid) : (s.setGrid c g).pitches = s.pitches := rfl
@[simp] theorem State.setGrid_wgs (c : Nat) (g : Grid) : (s.setGrid c g).wgs = s.wgs := rfl
@[simp] theorem State.setGrid_groups (c : Nat) (g : Grid) : (s.setGrid c g).groups = s.groups := rfl
@[simp] theorem State.setGrid_fe (c : Nat) (g : Grid) : (s.setGrid c g).fe = s.fe := rfl
@[simp] theorem State.setGrid_dies (c : Nat) (g : Grid) : (s.setGrid c g).dies = s.dies := rfl
@[simp] theorem State.setGrid_hostPend (c : Nat) (g : Grid) : (s.setGrid c g).hostPend = s.hostPend := rfl
@[simp] theorem State.setGrid_hostWait (c : Nat) (g : Grid) : (s.setGrid c g).hostWait = s.hostWait := rfl
@[simp] theorem State.setGrid_peerOut (c : Nat) (g : Grid) : (s.setGrid c g).peerOut = s.peerOut := rfl
@[simp] theorem State.setGrid_shelf (c : Nat) (g : Grid) : (s.setGrid c g).shelf = s.shelf := rfl
@[simp] theorem State.setGrid_oldCode (c : Nat) (g : Grid) : (s.setGrid c g).oldCode = s.oldCode := rfl
@[simp] theorem State.setGrid_trust (c : Nat) (g : Grid) : (s.setGrid c g).trust = s.trust := rfl
@[simp] theorem State.setGrid_seq_read (c : Nat) (g : Grid) (b : Agent) : (s.setGrid c g).seq b = s.seq b := rfl
@[simp] theorem State.setGrid_pitch_read (c : Nat) (g : Grid) (k j : Nat) : (s.setGrid c g).pitch k j = s.pitch k j := rfl
@[simp] theorem State.setGrid_wg_read (c : Nat) (g : Grid) (v : WgId) : (s.setGrid c g).wg v = s.wg v := rfl
@[simp] theorem State.setGrid_group_read (c : Nat) (g : Grid) (h : GrpId) : (s.setGrid c g).group h = s.group h := rfl
@[simp] theorem State.setGrid_die_read (c : Nat) (g : Grid) (n : Nat) : (s.setGrid c g).die n = s.die n := rfl
@[simp] theorem State.setGrid_dirEnt_read (c : Nat) (g : Grid) (n : Nat) : (s.setGrid c g).dirEnt n = s.dirEnt n := rfl

/-! ### `modGrid` -/

@[simp] theorem State.modGrid_plan (c : Nat) (f : Grid → Grid) : (s.modGrid c f).plan = s.plan := rfl
@[simp] theorem State.modGrid_clock (c : Nat) (f : Grid → Grid) : (s.modGrid c f).clock = s.clock := rfl
@[simp] theorem State.modGrid_choices (c : Nat) (f : Grid → Grid) : (s.modGrid c f).choices = s.choices := rfl
@[simp] theorem State.modGrid_freeCtr (c : Nat) (f : Grid → Grid) : (s.modGrid c f).freeCtr = s.freeCtr := rfl
@[simp] theorem State.modGrid_cur (c : Nat) (f : Grid → Grid) : (s.modGrid c f).cur = s.cur := rfl
@[simp] theorem State.modGrid_stalled (c : Nat) (f : Grid → Grid) : (s.modGrid c f).stalled = s.stalled := rfl
@[simp] theorem State.modGrid_mem (c : Nat) (f : Grid → Grid) : (s.modGrid c f).mem = s.mem := rfl
@[simp] theorem State.modGrid_poison (c : Nat) (f : Grid → Grid) : (s.modGrid c f).poison = s.poison := rfl
@[simp] theorem State.modGrid_pend (c : Nat) (f : Grid → Grid) : (s.modGrid c f).pend = s.pend := rfl
@[simp] theorem State.modGrid_dir (c : Nat) (f : Grid → Grid) : (s.modGrid c f).dir = s.dir := rfl
@[simp] theorem State.modGrid_tlb (c : Nat) (f : Grid → Grid) : (s.modGrid c f).tlb = s.tlb := rfl
@[simp] theorem State.modGrid_holds (c : Nat) (f : Grid → Grid) : (s.modGrid c f).holds = s.holds := rfl
@[simp] theorem State.modGrid_nextHandle (c : Nat) (f : Grid → Grid) : (s.modGrid c f).nextHandle = s.nextHandle := rfl
@[simp] theorem State.modGrid_watched (c : Nat) (f : Grid → Grid) : (s.modGrid c f).watched = s.watched := rfl
@[simp] theorem State.modGrid_seqs (c : Nat) (f : Grid → Grid) : (s.modGrid c f).seqs = s.seqs := rfl
@[simp] theorem State.modGrid_pitches (c : Nat) (f : Grid → Grid) : (s.modGrid c f).pitches = s.pitches := rfl
@[simp] theorem State.modGrid_wgs (c : Nat) (f : Grid → Grid) : (s.modGrid c f).wgs = s.wgs := rfl
@[simp] theorem State.modGrid_groups (c : Nat) (f : Grid → Grid) : (s.modGrid c f).groups = s.groups := rfl
@[simp] theorem State.modGrid_fe (c : Nat) (f : Grid → Grid) : (s.modGrid c f).fe = s.fe := rfl
@[simp] theorem State.modGrid_dies (c : Nat) (f : Grid → Grid) : (s.modGrid c f).dies = s.dies := rfl
@[simp] theorem State.modGrid_hostPend (c : Nat) (f : Grid → Grid) : (s.modGrid c f).hostPend = s.hostPend := rfl
@[simp] theorem State.modGrid_hostWait (c : Nat) (f : Grid → Grid) : (s.modGrid c f).hostWait = s.hostWait := rfl
@[simp] theorem State.modGrid_peerOut (c : Nat) (f : Grid → Grid) : (s.modGrid c f).peerOut = s.peerOut := rfl
@[simp] theorem State.modGrid_shelf (c : Nat) (f : Grid → Grid) : (s.modGrid c f).shelf = s.shelf := rfl
@[simp] theorem State.modGrid_oldCode (c : Nat) (f : Grid → Grid) : (s.modGrid c f).oldCode = s.oldCode := rfl
@[simp] theorem State.modGrid_trust (c : Nat) (f : Grid → Grid) : (s.modGrid c f).trust = s.trust := rfl
@[simp] theorem State.modGrid_seq_read (c : Nat) (f : Grid → Grid) (b : Agent) : (s.modGrid c f).seq b = s.seq b := rfl
@[simp] theorem State.modGrid_pitch_read (c : Nat) (f : Grid → Grid) (k j : Nat) : (s.modGrid c f).pitch k j = s.pitch k j := rfl
@[simp] theorem State.modGrid_wg_read (c : Nat) (f : Grid → Grid) (v : WgId) : (s.modGrid c f).wg v = s.wg v := rfl
@[simp] theorem State.modGrid_group_read (c : Nat) (f : Grid → Grid) (h : GrpId) : (s.modGrid c f).group h = s.group h := rfl
@[simp] theorem State.modGrid_die_read (c : Nat) (f : Grid → Grid) (n : Nat) : (s.modGrid c f).die n = s.die n := rfl
@[simp] theorem State.modGrid_dirEnt_read (c : Nat) (f : Grid → Grid) (n : Nat) : (s.modGrid c f).dirEnt n = s.dirEnt n := rfl

/-! ### `setPitch` -/

@[simp] theorem State.setPitch_plan (c p : Nat) (x : Pitch) : (s.setPitch c p x).plan = s.plan := rfl
@[simp] theorem State.setPitch_clock (c p : Nat) (x : Pitch) : (s.setPitch c p x).clock = s.clock := rfl
@[simp] theorem State.setPitch_choices (c p : Nat) (x : Pitch) : (s.setPitch c p x).choices = s.choices := rfl
@[simp] theorem State.setPitch_freeCtr (c p : Nat) (x : Pitch) : (s.setPitch c p x).freeCtr = s.freeCtr := rfl
@[simp] theorem State.setPitch_cur (c p : Nat) (x : Pitch) : (s.setPitch c p x).cur = s.cur := rfl
@[simp] theorem State.setPitch_stalled (c p : Nat) (x : Pitch) : (s.setPitch c p x).stalled = s.stalled := rfl
@[simp] theorem State.setPitch_mem (c p : Nat) (x : Pitch) : (s.setPitch c p x).mem = s.mem := rfl
@[simp] theorem State.setPitch_poison (c p : Nat) (x : Pitch) : (s.setPitch c p x).poison = s.poison := rfl
@[simp] theorem State.setPitch_pend (c p : Nat) (x : Pitch) : (s.setPitch c p x).pend = s.pend := rfl
@[simp] theorem State.setPitch_dir (c p : Nat) (x : Pitch) : (s.setPitch c p x).dir = s.dir := rfl
@[simp] theorem State.setPitch_tlb (c p : Nat) (x : Pitch) : (s.setPitch c p x).tlb = s.tlb := rfl
@[simp] theorem State.setPitch_holds (c p : Nat) (x : Pitch) : (s.setPitch c p x).holds = s.holds := rfl
@[simp] theorem State.setPitch_nextHandle (c p : Nat) (x : Pitch) : (s.setPitch c p x).nextHandle = s.nextHandle := rfl
@[simp] theorem State.setPitch_watched (c p : Nat) (x : Pitch) : (s.setPitch c p x).watched = s.watched := rfl
@[simp] theorem State.setPitch_seqs (c p : Nat) (x : Pitch) : (s.setPitch c p x).seqs = s.seqs := rfl
@[simp] theorem State.setPitch_grids (c p : Nat) (x : Pitch) : (s.setPitch c p x).grids = s.grids := rfl
@[simp] theorem State.setPitch_wgs (c p : Nat) (x : Pitch) : (s.setPitch c p x).wgs = s.wgs := rfl
@[simp] theorem State.setPitch_groups (c p : Nat) (x : Pitch) : (s.setPitch c p x).groups = s.groups := rfl
@[simp] theorem State.setPitch_fe (c p : Nat) (x : Pitch) : (s.setPitch c p x).fe = s.fe := rfl
@[simp] theorem State.setPitch_dies (c p : Nat) (x : Pitch) : (s.setPitch c p x).dies = s.dies := rfl
@[simp] theorem State.setPitch_hostPend (c p : Nat) (x : Pitch) : (s.setPitch c p x).hostPend = s.hostPend := rfl
@[simp] theorem State.setPitch_hostWait (c p : Nat) (x : Pitch) : (s.setPitch c p x).hostWait = s.hostWait := rfl
@[simp] theorem State.setPitch_peerOut (c p : Nat) (x : Pitch) : (s.setPitch c p x).peerOut = s.peerOut := rfl
@[simp] theorem State.setPitch_shelf (c p : Nat) (x : Pitch) : (s.setPitch c p x).shelf = s.shelf := rfl
@[simp] theorem State.setPitch_oldCode (c p : Nat) (x : Pitch) : (s.setPitch c p x).oldCode = s.oldCode := rfl
@[simp] theorem State.setPitch_trust (c p : Nat) (x : Pitch) : (s.setPitch c p x).trust = s.trust := rfl
@[simp] theorem State.setPitch_seq_read (c p : Nat) (x : Pitch) (b : Agent) : (s.setPitch c p x).seq b = s.seq b := rfl
@[simp] theorem State.setPitch_grid_read (c p : Nat) (x : Pitch) (k : Nat) : (s.setPitch c p x).grid k = s.grid k := rfl
@[simp] theorem State.setPitch_wg_read (c p : Nat) (x : Pitch) (v : WgId) : (s.setPitch c p x).wg v = s.wg v := rfl
@[simp] theorem State.setPitch_group_read (c p : Nat) (x : Pitch) (h : GrpId) : (s.setPitch c p x).group h = s.group h := rfl
@[simp] theorem State.setPitch_die_read (c p : Nat) (x : Pitch) (n : Nat) : (s.setPitch c p x).die n = s.die n := rfl
@[simp] theorem State.setPitch_dirEnt_read (c p : Nat) (x : Pitch) (n : Nat) : (s.setPitch c p x).dirEnt n = s.dirEnt n := rfl

/-! ### `setWg` -/

@[simp] theorem State.setWg_plan (w : WgId) (x : Wg) : (s.setWg w x).plan = s.plan := rfl
@[simp] theorem State.setWg_clock (w : WgId) (x : Wg) : (s.setWg w x).clock = s.clock := rfl
@[simp] theorem State.setWg_choices (w : WgId) (x : Wg) : (s.setWg w x).choices = s.choices := rfl
@[simp] theorem State.setWg_freeCtr (w : WgId) (x : Wg) : (s.setWg w x).freeCtr = s.freeCtr := rfl
@[simp] theorem State.setWg_cur (w : WgId) (x : Wg) : (s.setWg w x).cur = s.cur := rfl
@[simp] theorem State.setWg_stalled (w : WgId) (x : Wg) : (s.setWg w x).stalled = s.stalled := rfl
@[simp] theorem State.setWg_mem (w : WgId) (x : Wg) : (s.setWg w x).mem = s.mem := rfl
@[simp] theorem State.setWg_poison (w : WgId) (x : Wg) : (s.setWg w x).poison = s.poison := rfl
@[simp] theorem State.setWg_pend (w : WgId) (x : Wg) : (s.setWg w x).pend = s.pend := rfl
@[simp] theorem State.setWg_dir (w : WgId) (x : Wg) : (s.setWg w x).dir = s.dir := rfl
@[simp] theorem State.setWg_tlb (w : WgId) (x : Wg) : (s.setWg w x).tlb = s.tlb := rfl
@[simp] theorem State.setWg_holds (w : WgId) (x : Wg) : (s.setWg w x).holds = s.holds := rfl
@[simp] theorem State.setWg_nextHandle (w : WgId) (x : Wg) : (s.setWg w x).nextHandle = s.nextHandle := rfl
@[simp] theorem State.setWg_watched (w : WgId) (x : Wg) : (s.setWg w x).watched = s.watched := rfl
@[simp] theorem State.setWg_seqs (w : WgId) (x : Wg) : (s.setWg w x).seqs = s.seqs := rfl
@[simp] theorem State.setWg_grids (w : WgId) (x : Wg) : (s.setWg w x).grids = s.grids := rfl
@[simp] theorem State.setWg_pitches (w : WgId) (x : Wg) : (s.setWg w x).pitches = s.pitches := rfl
@[simp] theorem State.setWg_groups (w : WgId) (x : Wg) : (s.setWg w x).groups = s.groups := rfl
@[simp] theorem State.setWg_fe (w : WgId) (x : Wg) : (s.setWg w x).fe = s.fe := rfl
@[simp] theorem State.setWg_dies (w : WgId) (x : Wg) : (s.setWg w x).dies = s.dies := rfl
@[simp] theorem State.setWg_hostPend (w : WgId) (x : Wg) : (s.setWg w x).hostPend = s.hostPend := rfl
@[simp] theorem State.setWg_hostWait (w : WgId) (x : Wg) : (s.setWg w x).hostWait = s.hostWait := rfl
@[simp] theorem State.setWg_peerOut (w : WgId) (x : Wg) : (s.setWg w x).peerOut = s.peerOut := rfl
@[simp] theorem State.setWg_shelf (w : WgId) (x : Wg) : (s.setWg w x).shelf = s.shelf := rfl
@[simp] theorem State.setWg_oldCode (w : WgId) (x : Wg) : (s.setWg w x).oldCode = s.oldCode := rfl
@[simp] theorem State.setWg_trust (w : WgId) (x : Wg) : (s.setWg w x).trust = s.trust := rfl
@[simp] theorem State.setWg_seq_read (w : WgId) (x : Wg) (b : Agent) : (s.setWg w x).seq b = s.seq b := rfl
@[simp] theorem State.setWg_grid_read (w : WgId) (x : Wg) (k : Nat) : (s.setWg w x).grid k = s.grid k := rfl
@[simp] theorem State.setWg_pitch_read (w : WgId) (x : Wg) (k j : Nat) : (s.setWg w x).pitch k j = s.pitch k j := rfl
@[simp] theorem State.setWg_group_read (w : WgId) (x : Wg) (h : GrpId) : (s.setWg w x).group h = s.group h := rfl
@[simp] theorem State.setWg_die_read (w : WgId) (x : Wg) (n : Nat) : (s.setWg w x).die n = s.die n := rfl
@[simp] theorem State.setWg_dirEnt_read (w : WgId) (x : Wg) (n : Nat) : (s.setWg w x).dirEnt n = s.dirEnt n := rfl

/-! ### `modWg` -/

@[simp] theorem State.modWg_plan (w : WgId) (f : Wg → Wg) : (s.modWg w f).plan = s.plan := rfl
@[simp] theorem State.modWg_clock (w : WgId) (f : Wg → Wg) : (s.modWg w f).clock = s.clock := rfl
@[simp] theorem State.modWg_choices (w : WgId) (f : Wg → Wg) : (s.modWg w f).choices = s.choices := rfl
@[simp] theorem State.modWg_freeCtr (w : WgId) (f : Wg → Wg) : (s.modWg w f).freeCtr = s.freeCtr := rfl
@[simp] theorem State.modWg_cur (w : WgId) (f : Wg → Wg) : (s.modWg w f).cur = s.cur := rfl
@[simp] theorem State.modWg_stalled (w : WgId) (f : Wg → Wg) : (s.modWg w f).stalled = s.stalled := rfl
@[simp] theorem State.modWg_mem (w : WgId) (f : Wg → Wg) : (s.modWg w f).mem = s.mem := rfl
@[simp] theorem State.modWg_poison (w : WgId) (f : Wg → Wg) : (s.modWg w f).poison = s.poison := rfl
@[simp] theorem State.modWg_pend (w : WgId) (f : Wg → Wg) : (s.modWg w f).pend = s.pend := rfl
@[simp] theorem State.modWg_dir (w : WgId) (f : Wg → Wg) : (s.modWg w f).dir = s.dir := rfl
@[simp] theorem State.modWg_tlb (w : WgId) (f : Wg → Wg) : (s.modWg w f).tlb = s.tlb := rfl
@[simp] theorem State.modWg_holds (w : WgId) (f : Wg → Wg) : (s.modWg w f).holds = s.holds := rfl
@[simp] theorem State.modWg_nextHandle (w : WgId) (f : Wg → Wg) : (s.modWg w f).nextHandle = s.nextHandle := rfl
@[simp] theorem State.modWg_watched (w : WgId) (f : Wg → Wg) : (s.modWg w f).watched = s.watched := rfl
@[simp] theorem State.modWg_seqs (w : WgId) (f : Wg → Wg) : (s.modWg w f).seqs = s.seqs := rfl
@[simp] theorem State.modWg_grids (w : WgId) (f : Wg → Wg) : (s.modWg w f).grids = s.grids := rfl
@[simp] theorem State.modWg_pitches (w : WgId) (f : Wg → Wg) : (s.modWg w f).pitches = s.pitches := rfl
@[simp] theorem State.modWg_groups (w : WgId) (f : Wg → Wg) : (s.modWg w f).groups = s.groups := rfl
@[simp] theorem State.modWg_fe (w : WgId) (f : Wg → Wg) : (s.modWg w f).fe = s.fe := rfl
@[simp] theorem State.modWg_dies (w : WgId) (f : Wg → Wg) : (s.modWg w f).dies = s.dies := rfl
@[simp] theorem State.modWg_hostPend (w : WgId) (f : Wg → Wg) : (s.modWg w f).hostPend = s.hostPend := rfl
@[simp] theorem State.modWg_hostWait (w : WgId) (f : Wg → Wg) : (s.modWg w f).hostWait = s.hostWait := rfl
@[simp] theorem State.modWg_peerOut (w : WgId) (f : Wg → Wg) : (s.modWg w f).peerOut = s.peerOut := rfl
@[simp] theorem State.modWg_shelf (w : WgId) (f : Wg → Wg) : (s.modWg w f).shelf = s.shelf := rfl
@[simp] theorem State.modWg_oldCode (w : WgId) (f : Wg → Wg) : (s.modWg w f).oldCode = s.oldCode := rfl
@[simp] theorem State.modWg_trust (w : WgId) (f : Wg → Wg) : (s.modWg w f).trust = s.trust := rfl
@[simp] theorem State.modWg_seq_read (w : WgId) (f : Wg → Wg) (b : Agent) : (s.modWg w f).seq b = s.seq b := rfl
@[simp] theorem State.modWg_grid_read (w : WgId) (f : Wg → Wg) (k : Nat) : (s.modWg w f).grid k = s.grid k := rfl
@[simp] theorem State.modWg_pitch_read (w : WgId) (f : Wg → Wg) (k j : Nat) : (s.modWg w f).pitch k j = s.pitch k j := rfl
@[simp] theorem State.modWg_group_read (w : WgId) (f : Wg → Wg) (h : GrpId) : (s.modWg w f).group h = s.group h := rfl
@[simp] theorem State.modWg_die_read (w : WgId) (f : Wg → Wg) (n : Nat) : (s.modWg w f).die n = s.die n := rfl
@[simp] theorem State.modWg_dirEnt_read (w : WgId) (f : Wg → Wg) (n : Nat) : (s.modWg w f).dirEnt n = s.dirEnt n := rfl

/-! ### `setGroup` -/

@[simp] theorem State.setGroup_plan (g : GrpId) (x : Group) : (s.setGroup g x).plan = s.plan := rfl
@[simp] theorem State.setGroup_clock (g : GrpId) (x : Group) : (s.setGroup g x).clock = s.clock := rfl
@[simp] theorem State.setGroup_choices (g : GrpId) (x : Group) : (s.setGroup g x).choices = s.choices := rfl
@[simp] theorem State.setGroup_freeCtr (g : GrpId) (x : Group) : (s.setGroup g x).freeCtr = s.freeCtr := rfl
@[simp] theorem State.setGroup_cur (g : GrpId) (x : Group) : (s.setGroup g x).cur = s.cur := rfl
@[simp] theorem State.setGroup_stalled (g : GrpId) (x : Group) : (s.setGroup g x).stalled = s.stalled := rfl
@[simp] theorem State.setGroup_mem (g : GrpId) (x : Group) : (s.setGroup g x).mem = s.mem := rfl
@[simp] theorem State.setGroup_poison (g : GrpId) (x : Group) : (s.setGroup g x).poison = s.poison := rfl
@[simp] theorem State.setGroup_pend (g : GrpId) (x : Group) : (s.setGroup g x).pend = s.pend := rfl
@[simp] theorem State.setGroup_dir (g : GrpId) (x : Group) : (s.setGroup g x).dir = s.dir := rfl
@[simp] theorem State.setGroup_tlb (g : GrpId) (x : Group) : (s.setGroup g x).tlb = s.tlb := rfl
@[simp] theorem State.setGroup_holds (g : GrpId) (x : Group) : (s.setGroup g x).holds = s.holds := rfl
@[simp] theorem State.setGroup_nextHandle (g : GrpId) (x : Group) : (s.setGroup g x).nextHandle = s.nextHandle := rfl
@[simp] theorem State.setGroup_watched (g : GrpId) (x : Group) : (s.setGroup g x).watched = s.watched := rfl
@[simp] theorem State.setGroup_seqs (g : GrpId) (x : Group) : (s.setGroup g x).seqs = s.seqs := rfl
@[simp] theorem State.setGroup_grids (g : GrpId) (x : Group) : (s.setGroup g x).grids = s.grids := rfl
@[simp] theorem State.setGroup_pitches (g : GrpId) (x : Group) : (s.setGroup g x).pitches = s.pitches := rfl
@[simp] theorem State.setGroup_wgs (g : GrpId) (x : Group) : (s.setGroup g x).wgs = s.wgs := rfl
@[simp] theorem State.setGroup_fe (g : GrpId) (x : Group) : (s.setGroup g x).fe = s.fe := rfl
@[simp] theorem State.setGroup_dies (g : GrpId) (x : Group) : (s.setGroup g x).dies = s.dies := rfl
@[simp] theorem State.setGroup_hostPend (g : GrpId) (x : Group) : (s.setGroup g x).hostPend = s.hostPend := rfl
@[simp] theorem State.setGroup_hostWait (g : GrpId) (x : Group) : (s.setGroup g x).hostWait = s.hostWait := rfl
@[simp] theorem State.setGroup_peerOut (g : GrpId) (x : Group) : (s.setGroup g x).peerOut = s.peerOut := rfl
@[simp] theorem State.setGroup_shelf (g : GrpId) (x : Group) : (s.setGroup g x).shelf = s.shelf := rfl
@[simp] theorem State.setGroup_oldCode (g : GrpId) (x : Group) : (s.setGroup g x).oldCode = s.oldCode := rfl
@[simp] theorem State.setGroup_trust (g : GrpId) (x : Group) : (s.setGroup g x).trust = s.trust := rfl
@[simp] theorem State.setGroup_seq_read (g : GrpId) (x : Group) (b : Agent) : (s.setGroup g x).seq b = s.seq b := rfl
@[simp] theorem State.setGroup_grid_read (g : GrpId) (x : Group) (k : Nat) : (s.setGroup g x).grid k = s.grid k := rfl
@[simp] theorem State.setGroup_pitch_read (g : GrpId) (x : Group) (k j : Nat) : (s.setGroup g x).pitch k j = s.pitch k j := rfl
@[simp] theorem State.setGroup_wg_read (g : GrpId) (x : Group) (v : WgId) : (s.setGroup g x).wg v = s.wg v := rfl
@[simp] theorem State.setGroup_die_read (g : GrpId) (x : Group) (n : Nat) : (s.setGroup g x).die n = s.die n := rfl
@[simp] theorem State.setGroup_dirEnt_read (g : GrpId) (x : Group) (n : Nat) : (s.setGroup g x).dirEnt n = s.dirEnt n := rfl

/-! ### `modGroup` -/

@[simp] theorem State.modGroup_plan (g : GrpId) (f : Group → Group) : (s.modGroup g f).plan = s.plan := rfl
@[simp] theorem State.modGroup_clock (g : GrpId) (f : Group → Group) : (s.modGroup g f).clock = s.clock := rfl
@[simp] theorem State.modGroup_choices (g : GrpId) (f : Group → Group) : (s.modGroup g f).choices = s.choices := rfl
@[simp] theorem State.modGroup_freeCtr (g : GrpId) (f : Group → Group) : (s.modGroup g f).freeCtr = s.freeCtr := rfl
@[simp] theorem State.modGroup_cur (g : GrpId) (f : Group → Group) : (s.modGroup g f).cur = s.cur := rfl
@[simp] theorem State.modGroup_stalled (g : GrpId) (f : Group → Group) : (s.modGroup g f).stalled = s.stalled := rfl
@[simp] theorem State.modGroup_mem (g : GrpId) (f : Group → Group) : (s.modGroup g f).mem = s.mem := rfl
@[simp] theorem State.modGroup_poison (g : GrpId) (f : Group → Group) : (s.modGroup g f).poison = s.poison := rfl
@[simp] theorem State.modGroup_pend (g : GrpId) (f : Group → Group) : (s.modGroup g f).pend = s.pend := rfl
@[simp] theorem State.modGroup_dir (g : GrpId) (f : Group → Group) : (s.modGroup g f).dir = s.dir := rfl
@[simp] theorem State.modGroup_tlb (g : GrpId) (f : Group → Group) : (s.modGroup g f).tlb = s.tlb := rfl
@[simp] theorem State.modGroup_holds (g : GrpId) (f : Group → Group) : (s.modGroup g f).holds = s.holds := rfl
@[simp] theorem State.modGroup_nextHandle (g : GrpId) (f : Group → Group) : (s.modGroup g f).nextHandle = s.nextHandle := rfl
@[simp] theorem State.modGroup_watched (g : GrpId) (f : Group → Group) : (s.modGroup g f).watched = s.watched := rfl
@[simp] theorem State.modGroup_seqs (g : GrpId) (f : Group → Group) : (s.modGroup g f).seqs = s.seqs := rfl
@[simp] theorem State.modGroup_grids (g : GrpId) (f : Group → Group) : (s.modGroup g f).grids = s.grids := rfl
@[simp] theorem State.modGroup_pitches (g : GrpId) (f : Group → Group) : (s.modGroup g f).pitches = s.pitches := rfl
@[simp] theorem State.modGroup_wgs (g : GrpId) (f : Group → Group) : (s.modGroup g f).wgs = s.wgs := rfl
@[simp] theorem State.modGroup_fe (g : GrpId) (f : Group → Group) : (s.modGroup g f).fe = s.fe := rfl
@[simp] theorem State.modGroup_dies (g : GrpId) (f : Group → Group) : (s.modGroup g f).dies = s.dies := rfl
@[simp] theorem State.modGroup_hostPend (g : GrpId) (f : Group → Group) : (s.modGroup g f).hostPend = s.hostPend := rfl
@[simp] theorem State.modGroup_hostWait (g : GrpId) (f : Group → Group) : (s.modGroup g f).hostWait = s.hostWait := rfl
@[simp] theorem State.modGroup_peerOut (g : GrpId) (f : Group → Group) : (s.modGroup g f).peerOut = s.peerOut := rfl
@[simp] theorem State.modGroup_shelf (g : GrpId) (f : Group → Group) : (s.modGroup g f).shelf = s.shelf := rfl
@[simp] theorem State.modGroup_oldCode (g : GrpId) (f : Group → Group) : (s.modGroup g f).oldCode = s.oldCode := rfl
@[simp] theorem State.modGroup_trust (g : GrpId) (f : Group → Group) : (s.modGroup g f).trust = s.trust := rfl
@[simp] theorem State.modGroup_seq_read (g : GrpId) (f : Group → Group) (b : Agent) : (s.modGroup g f).seq b = s.seq b := rfl
@[simp] theorem State.modGroup_grid_read (g : GrpId) (f : Group → Group) (k : Nat) : (s.modGroup g f).grid k = s.grid k := rfl
@[simp] theorem State.modGroup_pitch_read (g : GrpId) (f : Group → Group) (k j : Nat) : (s.modGroup g f).pitch k j = s.pitch k j := rfl
@[simp] theorem State.modGroup_wg_read (g : GrpId) (f : Group → Group) (v : WgId) : (s.modGroup g f).wg v = s.wg v := rfl
@[simp] theorem State.modGroup_die_read (g : GrpId) (f : Group → Group) (n : Nat) : (s.modGroup g f).die n = s.die n := rfl
@[simp] theorem State.modGroup_dirEnt_read (g : GrpId) (f : Group → Group) (n : Nat) : (s.modGroup g f).dirEnt n = s.dirEnt n := rfl

/-! ### `setDie` -/

@[simp] theorem State.setDie_plan (d : Nat) (x : Die) : (s.setDie d x).plan = s.plan := rfl
@[simp] theorem State.setDie_clock (d : Nat) (x : Die) : (s.setDie d x).clock = s.clock := rfl
@[simp] theorem State.setDie_choices (d : Nat) (x : Die) : (s.setDie d x).choices = s.choices := rfl
@[simp] theorem State.setDie_freeCtr (d : Nat) (x : Die) : (s.setDie d x).freeCtr = s.freeCtr := rfl
@[simp] theorem State.setDie_cur (d : Nat) (x : Die) : (s.setDie d x).cur = s.cur := rfl
@[simp] theorem State.setDie_stalled (d : Nat) (x : Die) : (s.setDie d x).stalled = s.stalled := rfl
@[simp] theorem State.setDie_mem (d : Nat) (x : Die) : (s.setDie d x).mem = s.mem := rfl
@[simp] theorem State.setDie_poison (d : Nat) (x : Die) : (s.setDie d x).poison = s.poison := rfl
@[simp] theorem State.setDie_pend (d : Nat) (x : Die) : (s.setDie d x).pend = s.pend := rfl
@[simp] theorem State.setDie_dir (d : Nat) (x : Die) : (s.setDie d x).dir = s.dir := rfl
@[simp] theorem State.setDie_tlb (d : Nat) (x : Die) : (s.setDie d x).tlb = s.tlb := rfl
@[simp] theorem State.setDie_holds (d : Nat) (x : Die) : (s.setDie d x).holds = s.holds := rfl
@[simp] theorem State.setDie_nextHandle (d : Nat) (x : Die) : (s.setDie d x).nextHandle = s.nextHandle := rfl
@[simp] theorem State.setDie_watched (d : Nat) (x : Die) : (s.setDie d x).watched = s.watched := rfl
@[simp] theorem State.setDie_seqs (d : Nat) (x : Die) : (s.setDie d x).seqs = s.seqs := rfl
@[simp] theorem State.setDie_grids (d : Nat) (x : Die) : (s.setDie d x).grids = s.grids := rfl
@[simp] theorem State.setDie_pitches (d : Nat) (x : Die) : (s.setDie d x).pitches = s.pitches := rfl
@[simp] theorem State.setDie_wgs (d : Nat) (x : Die) : (s.setDie d x).wgs = s.wgs := rfl
@[simp] theorem State.setDie_groups (d : Nat) (x : Die) : (s.setDie d x).groups = s.groups := rfl
@[simp] theorem State.setDie_fe (d : Nat) (x : Die) : (s.setDie d x).fe = s.fe := rfl
@[simp] theorem State.setDie_hostPend (d : Nat) (x : Die) : (s.setDie d x).hostPend = s.hostPend := rfl
@[simp] theorem State.setDie_hostWait (d : Nat) (x : Die) : (s.setDie d x).hostWait = s.hostWait := rfl
@[simp] theorem State.setDie_peerOut (d : Nat) (x : Die) : (s.setDie d x).peerOut = s.peerOut := rfl
@[simp] theorem State.setDie_shelf (d : Nat) (x : Die) : (s.setDie d x).shelf = s.shelf := rfl
@[simp] theorem State.setDie_oldCode (d : Nat) (x : Die) : (s.setDie d x).oldCode = s.oldCode := rfl
@[simp] theorem State.setDie_trust (d : Nat) (x : Die) : (s.setDie d x).trust = s.trust := rfl
@[simp] theorem State.setDie_seq_read (d : Nat) (x : Die) (b : Agent) : (s.setDie d x).seq b = s.seq b := rfl
@[simp] theorem State.setDie_grid_read (d : Nat) (x : Die) (k : Nat) : (s.setDie d x).grid k = s.grid k := rfl
@[simp] theorem State.setDie_pitch_read (d : Nat) (x : Die) (k j : Nat) : (s.setDie d x).pitch k j = s.pitch k j := rfl
@[simp] theorem State.setDie_wg_read (d : Nat) (x : Die) (v : WgId) : (s.setDie d x).wg v = s.wg v := rfl
@[simp] theorem State.setDie_group_read (d : Nat) (x : Die) (h : GrpId) : (s.setDie d x).group h = s.group h := rfl
@[simp] theorem State.setDie_dirEnt_read (d : Nat) (x : Die) (n : Nat) : (s.setDie d x).dirEnt n = s.dirEnt n := rfl

/-! ### `modDie` -/

@[simp] theorem State.modDie_plan (d : Nat) (f : Die → Die) : (s.modDie d f).plan = s.plan := rfl
@[simp] theorem State.modDie_clock (d : Nat) (f : Die → Die) : (s.modDie d f).clock = s.clock := rfl
@[simp] theorem State.modDie_choices (d : Nat) (f : Die → Die) : (s.modDie d f).choices = s.choices := rfl
@[simp] theorem State.modDie_freeCtr (d : Nat) (f : Die → Die) : (s.modDie d f).freeCtr = s.freeCtr := rfl
@[simp] theorem State.modDie_cur (d : Nat) (f : Die → Die) : (s.modDie d f).cur = s.cur := rfl
@[simp] theorem State.modDie_stalled (d : Nat) (f : Die → Die) : (s.modDie d f).stalled = s.stalled := rfl
@[simp] theorem State.modDie_mem (d : Nat) (f : Die → Die) : (s.modDie d f).mem = s.mem := rfl
@[simp] theorem State.modDie_poison (d : Nat) (f : Die → Die) : (s.modDie d f).poison = s.poison := rfl
@[simp] theorem State.modDie_pend (d : Nat) (f : Die → Die) : (s.modDie d f).pend = s.pend := rfl
@[simp] theorem State.modDie_dir (d : Nat) (f : Die → Die) : (s.modDie d f).dir = s.dir := rfl
@[simp] theorem State.modDie_tlb (d : Nat) (f : Die → Die) : (s.modDie d f).tlb = s.tlb := rfl
@[simp] theorem State.modDie_holds (d : Nat) (f : Die → Die) : (s.modDie d f).holds = s.holds := rfl
@[simp] theorem State.modDie_nextHandle (d : Nat) (f : Die → Die) : (s.modDie d f).nextHandle = s.nextHandle := rfl
@[simp] theorem State.modDie_watched (d : Nat) (f : Die → Die) : (s.modDie d f).watched = s.watched := rfl
@[simp] theorem State.modDie_seqs (d : Nat) (f : Die → Die) : (s.modDie d f).seqs = s.seqs := rfl
@[simp] theorem State.modDie_grids (d : Nat) (f : Die → Die) : (s.modDie d f).grids = s.grids := rfl
@[simp] theorem State.modDie_pitches (d : Nat) (f : Die → Die) : (s.modDie d f).pitches = s.pitches := rfl
@[simp] theorem State.modDie_wgs (d : Nat) (f : Die → Die) : (s.modDie d f).wgs = s.wgs := rfl
@[simp] theorem State.modDie_groups (d : Nat) (f : Die → Die) : (s.modDie d f).groups = s.groups := rfl
@[simp] theorem State.modDie_fe (d : Nat) (f : Die → Die) : (s.modDie d f).fe = s.fe := rfl
@[simp] theorem State.modDie_hostPend (d : Nat) (f : Die → Die) : (s.modDie d f).hostPend = s.hostPend := rfl
@[simp] theorem State.modDie_hostWait (d : Nat) (f : Die → Die) : (s.modDie d f).hostWait = s.hostWait := rfl
@[simp] theorem State.modDie_peerOut (d : Nat) (f : Die → Die) : (s.modDie d f).peerOut = s.peerOut := rfl
@[simp] theorem State.modDie_shelf (d : Nat) (f : Die → Die) : (s.modDie d f).shelf = s.shelf := rfl
@[simp] theorem State.modDie_oldCode (d : Nat) (f : Die → Die) : (s.modDie d f).oldCode = s.oldCode := rfl
@[simp] theorem State.modDie_trust (d : Nat) (f : Die → Die) : (s.modDie d f).trust = s.trust := rfl
@[simp] theorem State.modDie_seq_read (d : Nat) (f : Die → Die) (b : Agent) : (s.modDie d f).seq b = s.seq b := rfl
@[simp] theorem State.modDie_grid_read (d : Nat) (f : Die → Die) (k : Nat) : (s.modDie d f).grid k = s.grid k := rfl
@[simp] theorem State.modDie_pitch_read (d : Nat) (f : Die → Die) (k j : Nat) : (s.modDie d f).pitch k j = s.pitch k j := rfl
@[simp] theorem State.modDie_wg_read (d : Nat) (f : Die → Die) (v : WgId) : (s.modDie d f).wg v = s.wg v := rfl
@[simp] theorem State.modDie_group_read (d : Nat) (f : Die → Die) (h : GrpId) : (s.modDie d f).group h = s.group h := rfl
@[simp] theorem State.modDie_dirEnt_read (d : Nat) (f : Die → Die) (n : Nat) : (s.modDie d f).dirEnt n = s.dirEnt n := rfl

/-! ### `setDir` -/

@[simp] theorem State.setDir_plan (l : Nat) (e : DirEnt) : (s.setDir l e).plan = s.plan := rfl
@[simp] theorem State.setDir_clock (l : Nat) (e : DirEnt) : (s.setDir l e).clock = s.clock := rfl
@[simp] theorem State.setDir_choices (l : Nat) (e : DirEnt) : (s.setDir l e).choices = s.choices := rfl
@[simp] theorem State.setDir_freeCtr (l : Nat) (e : DirEnt) : (s.setDir l e).freeCtr = s.freeCtr := rfl
@[simp] theorem State.setDir_cur (l : Nat) (e : DirEnt) : (s.setDir l e).cur = s.cur := rfl
@[simp] theorem State.setDir_stalled (l : Nat) (e : DirEnt) : (s.setDir l e).stalled = s.stalled := rfl
@[simp] theorem State.setDir_mem (l : Nat) (e : DirEnt) : (s.setDir l e).mem = s.mem := rfl
@[simp] theorem State.setDir_poison (l : Nat) (e : DirEnt) : (s.setDir l e).poison = s.poison := rfl
@[simp] theorem State.setDir_pend (l : Nat) (e : DirEnt) : (s.setDir l e).pend = s.pend := rfl
@[simp] theorem State.setDir_tlb (l : Nat) (e : DirEnt) : (s.setDir l e).tlb = s.tlb := rfl
@[simp] theorem State.setDir_holds (l : Nat) (e : DirEnt) : (s.setDir l e).holds = s.holds := rfl
@[simp] theorem State.setDir_nextHandle (l : Nat) (e : DirEnt) : (s.setDir l e).nextHandle = s.nextHandle := rfl
@[simp] theorem State.setDir_watched (l : Nat) (e : DirEnt) : (s.setDir l e).watched = s.watched := rfl
@[simp] theorem State.setDir_seqs (l : Nat) (e : DirEnt) : (s.setDir l e).seqs = s.seqs := rfl
@[simp] theorem State.setDir_grids (l : Nat) (e : DirEnt) : (s.setDir l e).grids = s.grids := rfl
@[simp] theorem State.setDir_pitches (l : Nat) (e : DirEnt) : (s.setDir l e).pitches = s.pitches := rfl
@[simp] theorem State.setDir_wgs (l : Nat) (e : DirEnt) : (s.setDir l e).wgs = s.wgs := rfl
@[simp] theorem State.setDir_groups (l : Nat) (e : DirEnt) : (s.setDir l e).groups = s.groups := rfl
@[simp] theorem State.setDir_fe (l : Nat) (e : DirEnt) : (s.setDir l e).fe = s.fe := rfl
@[simp] theorem State.setDir_dies (l : Nat) (e : DirEnt) : (s.setDir l e).dies = s.dies := rfl
@[simp] theorem State.setDir_hostPend (l : Nat) (e : DirEnt) : (s.setDir l e).hostPend = s.hostPend := rfl
@[simp] theorem State.setDir_hostWait (l : Nat) (e : DirEnt) : (s.setDir l e).hostWait = s.hostWait := rfl
@[simp] theorem State.setDir_peerOut (l : Nat) (e : DirEnt) : (s.setDir l e).peerOut = s.peerOut := rfl
@[simp] theorem State.setDir_shelf (l : Nat) (e : DirEnt) : (s.setDir l e).shelf = s.shelf := rfl
@[simp] theorem State.setDir_oldCode (l : Nat) (e : DirEnt) : (s.setDir l e).oldCode = s.oldCode := rfl
@[simp] theorem State.setDir_trust (l : Nat) (e : DirEnt) : (s.setDir l e).trust = s.trust := rfl
@[simp] theorem State.setDir_seq_read (l : Nat) (e : DirEnt) (b : Agent) : (s.setDir l e).seq b = s.seq b := rfl
@[simp] theorem State.setDir_grid_read (l : Nat) (e : DirEnt) (k : Nat) : (s.setDir l e).grid k = s.grid k := rfl
@[simp] theorem State.setDir_pitch_read (l : Nat) (e : DirEnt) (k j : Nat) : (s.setDir l e).pitch k j = s.pitch k j := rfl
@[simp] theorem State.setDir_wg_read (l : Nat) (e : DirEnt) (v : WgId) : (s.setDir l e).wg v = s.wg v := rfl
@[simp] theorem State.setDir_group_read (l : Nat) (e : DirEnt) (h : GrpId) : (s.setDir l e).group h = s.group h := rfl
@[simp] theorem State.setDir_die_read (l : Nat) (e : DirEnt) (n : Nat) : (s.setDir l e).die n = s.die n := rfl

/-! ### `modDir` -/

@[simp] theorem State.modDir_plan (l : Nat) (f : DirEnt → DirEnt) : (s.modDir l f).plan = s.plan := rfl
@[simp] theorem State.modDir_clock (l : Nat) (f : DirEnt → DirEnt) : (s.modDir l f).clock = s.clock := rfl
@[simp] theorem State.modDir_choices (l : Nat) (f : DirEnt → DirEnt) : (s.modDir l f).choices = s.choices := rfl
@[simp] theorem State.modDir_freeCtr (l : Nat) (f : DirEnt → DirEnt) : (s.modDir l f).freeCtr = s.freeCtr := rfl
@[simp] theorem State.modDir_cur (l : Nat) (f : DirEnt → DirEnt) : (s.modDir l f).cur = s.cur := rfl
@[simp] theorem State.modDir_stalled (l : Nat) (f : DirEnt → DirEnt) : (s.modDir l f).stalled = s.stalled := rfl
@[simp] theorem State.modDir_mem (l : Nat) (f : DirEnt → DirEnt) : (s.modDir l f).mem = s.mem := rfl
@[simp] theorem State.modDir_poison (l : Nat) (f : DirEnt → DirEnt) : (s.modDir l f).poison = s.poison := rfl
@[simp] theorem State.modDir_pend (l : Nat) (f : DirEnt → DirEnt) : (s.modDir l f).pend = s.pend := rfl
@[simp] theorem State.modDir_tlb (l : Nat) (f : DirEnt → DirEnt) : (s.modDir l f).tlb = s.tlb := rfl
@[simp] theorem State.modDir_holds (l : Nat) (f : DirEnt → DirEnt) : (s.modDir l f).holds = s.holds := rfl
@[simp] theorem State.modDir_nextHandle (l : Nat) (f : DirEnt → DirEnt) : (s.modDir l f).nextHandle = s.nextHandle := rfl
@[simp] theorem State.modDir_watched (l : Nat) (f : DirEnt → DirEnt) : (s.modDir l f).watched = s.watched := rfl
@[simp] theorem State.modDir_seqs (l : Nat) (f : DirEnt → DirEnt) : (s.modDir l f).seqs = s.seqs := rfl
@[simp] theorem State.modDir_grids (l : Nat) (f : DirEnt → DirEnt) : (s.modDir l f).grids = s.grids := rfl
@[simp] theorem State.modDir_pitches (l : Nat) (f : DirEnt → DirEnt) : (s.modDir l f).pitches = s.pitches := rfl
@[simp] theorem State.modDir_wgs (l : Nat) (f : DirEnt → DirEnt) : (s.modDir l f).wgs = s.wgs := rfl
@[simp] theorem State.modDir_groups (l : Nat) (f : DirEnt → DirEnt) : (s.modDir l f).groups = s.groups := rfl
@[simp] theorem State.modDir_fe (l : Nat) (f : DirEnt → DirEnt) : (s.modDir l f).fe = s.fe := rfl
@[simp] theorem State.modDir_dies (l : Nat) (f : DirEnt → DirEnt) : (s.modDir l f).dies = s.dies := rfl
@[simp] theorem State.modDir_hostPend (l : Nat) (f : DirEnt → DirEnt) : (s.modDir l f).hostPend = s.hostPend := rfl
@[simp] theorem State.modDir_hostWait (l : Nat) (f : DirEnt → DirEnt) : (s.modDir l f).hostWait = s.hostWait := rfl
@[simp] theorem State.modDir_peerOut (l : Nat) (f : DirEnt → DirEnt) : (s.modDir l f).peerOut = s.peerOut := rfl
@[simp] theorem State.modDir_shelf (l : Nat) (f : DirEnt → DirEnt) : (s.modDir l f).shelf = s.shelf := rfl
@[simp] theorem State.modDir_oldCode (l : Nat) (f : DirEnt → DirEnt) : (s.modDir l f).oldCode = s.oldCode := rfl
@[simp] theorem State.modDir_trust (l : Nat) (f : DirEnt → DirEnt) : (s.modDir l f).trust = s.trust := rfl
@[simp] theorem State.modDir_seq_read (l : Nat) (f : DirEnt → DirEnt) (b : Agent) : (s.modDir l f).seq b = s.seq b := rfl
@[simp] theorem State.modDir_grid_read (l : Nat) (f : DirEnt → DirEnt) (k : Nat) : (s.modDir l f).grid k = s.grid k := rfl
@[simp] theorem State.modDir_pitch_read (l : Nat) (f : DirEnt → DirEnt) (k j : Nat) : (s.modDir l f).pitch k j = s.pitch k j := rfl
@[simp] theorem State.modDir_wg_read (l : Nat) (f : DirEnt → DirEnt) (v : WgId) : (s.modDir l f).wg v = s.wg v := rfl
@[simp] theorem State.modDir_group_read (l : Nat) (f : DirEnt → DirEnt) (h : GrpId) : (s.modDir l f).group h = s.group h := rfl
@[simp] theorem State.modDir_die_read (l : Nat) (f : DirEnt → DirEnt) (n : Nat) : (s.modDir l f).die n = s.die n := rfl

/-! ### Reading what was written -/

@[simp] theorem State.seq_setSeq (a : Agent) (q : Seq) : (s.setSeq a q).seq a = q := by simp [State.seq, State.setSeq]
@[simp] theorem State.seq_modSeq (a : Agent) (f : Seq → Seq) : (s.modSeq a f).seq a = f (s.seq a) := by simp [State.modSeq]
theorem State.seq_modSeq_ne (a b : Agent) (f : Seq → Seq) (h : b ≠ a) : (s.modSeq a f).seq b = s.seq b := by
  simp [State.modSeq, State.setSeq, State.seq, agetD_aput, h]
@[simp] theorem State.grid_setGrid (c : Nat) (g : Grid) : (s.setGrid c g).grid c = g := by simp [State.grid, State.setGrid]
@[simp] theorem State.grid_modGrid (c : Nat) (f : Grid → Grid) : (s.modGrid c f).grid c = f (s.grid c) := by
  simp [State.modGrid]
@[simp] theorem State.wg_setWg (w : WgId) (x : Wg) : (s.setWg w x).wg w = x := by simp [State.wg, State.setWg]
@[simp] theorem State.wg_modWg (w : WgId) (f : Wg → Wg) : (s.modWg w f).wg w = f (s.wg w) := by simp [State.modWg]
theorem State.wg_modWg_ne (w v : WgId) (f : Wg → Wg) (h : v ≠ w) : (s.modWg w f).wg v = s.wg v := by
  simp [State.modWg, State.setWg, State.wg, agetD_aput, h]
@[simp] theorem State.group_setGroup (g : GrpId) (x : Group) : (s.setGroup g x).group g = x := by
  simp [State.group, State.setGroup]
@[simp] theorem State.group_modGroup (g : GrpId) (f : Group → Group) : (s.modGroup g f).group g = f (s.group g) := by
  simp [State.modGroup]
theorem State.group_modGroup_ne (g h : GrpId) (f : Group → Group) (hn : h ≠ g) : (s.modGroup g f).group h = s.group h := by
  simp [State.modGroup, State.setGroup, State.group, agetD_aput, hn]

end Sys2Proof.Machine
end

