-- ==== Sys2Proof/Laws/Ops.lean ====
section
/-!
SUPPORT. What the shared operations of the words can do: the gate of a control word and of a lane word, register
writes, and the memory writes, which keep the canonical form of memory.
-/
namespace Sys2Proof.Machine

/-! ### Scalar registers -/

theorem Seq.readReg_zero (q : Seq) (l : Lvl) : q.readReg l 0 = 0 := rfl

theorem h0Code_pos (l : Lvl) : 30 ≤ h0Code l := by cases l <;> simp [h0Code]

/-- Reading a register after one is written. -/
theorem Seq.readReg_writeReg (q : Seq) (l : Lvl) (d f : Nat) (v : Word) (m : Bool) :
    (q.writeReg d v m).readReg l f = if f = d ∧ d ≠ 0 ∧ d ≠ h0Code l ∧ d ≠ h0Code l + 1 then v else q.readReg l f := by
  unfold Seq.writeReg Seq.readReg
  by_cases hd : d = 0
  · simp [hd]
  · by_cases hf : f = d
    · subst hf
      simp only [hd, if_false, cget_cset, if_true, ne_eq, not_false_eq_true, true_and]
      by_cases h1 : f = h0Code l <;> by_cases h2 : f = h0Code l + 1 <;> simp [h1, h2]
    · simp [hd, hf, cget_cset]

/-- Reading a mark after one is written. -/
theorem Seq.mark_writeReg (q : Seq) (l : Lvl) (d f : Nat) (v : Word) (m : Bool) :
    (q.writeReg d v m).mark l f = if f = d ∧ d ≠ 0 ∧ d < h0Code l then m else q.mark l f := by
  unfold Seq.writeReg Seq.mark
  by_cases hd : d = 0
  · simp [hd]
  · by_cases hf : f = d
    · subst hf
      by_cases h1 : h0Code l ≤ f
      · have : ¬ f < h0Code l := by omega
        simp [h1, this]
      · have : f < h0Code l := by omega
        simp [hd, h1, this, cget_cset]
    · simp [hd, hf, cget_cset]

@[simp] theorem Seq.readReg_adv (q : Seq) (l : Lvl) (f : Nat) : q.adv.readReg l f = q.readReg l f := rfl
@[simp] theorem Seq.mark_adv (q : Seq) (l : Lvl) (f : Nat) : q.adv.mark l f = q.mark l f := rfl

/-! ### The gate of a control word -/

/-- A control word that passes the checks and reads no register in error has its own effect. -/
theorem ctl_next {i : Instr} {s : State} {l : Lvl} (f : Lvl → State) (hl : lvlOf s.cur = some l)
    (hc : ctlCheck l (encodeControl i) = none)
    (hr : ∀ r ∈ (ctlSpec l (encodeControl i)).src, r ∉ (s.seq s.cur).badRegs) : ctl i s f = .next (f l) := by
  unfold ctl
  simp only [hl, hc]
  rw [if_neg]
  simpa using hr

/-- A control word that fails a check of R65 takes the exception of that check. -/
theorem ctl_bad {i : Instr} {s : State} {l : Lvl} {b : Bad} (f : Lvl → State) (hl : lvlOf s.cur = some l)
    (hc : ctlCheck l (encodeControl i) = some b) : ctl i s f = .next (s.faultBad b fun _ => encodeControl i) := by
  unfold ctl
  simp only [hl, hc]

/-- Every control word answers a next state: its own effect, an exception, or, at a lane engine, the state unchanged. -/
theorem ctl_cases (i : Instr) (s : State) (f : Lvl → State) :
    (ctl i s f = .next s ∧ lvlOf s.cur = none) ∨
      ∃ l, lvlOf s.cur = some l ∧
        ((∃ b, ctl i s f = .next (s.faultBad b fun _ => encodeControl i)) ∨ ctl i s f = .next (s.fault cPOISON) ∨
          ctl i s f = .next (f l)) := by
  unfold ctl
  cases h : lvlOf s.cur with
  | none => exact .inl ⟨rfl, rfl⟩
  | some l =>
    refine .inr ⟨l, rfl, ?_⟩
    dsimp only
    split
    · next b _ => exact .inl ⟨b, rfl⟩
    · split
      · exact .inr (.inl rfl)
      · exact .inr (.inr rfl)

/-- A word whose deciding registers carry no mark goes on. -/
theorem State.deciding_go {s : State} {l : Lvl} {regs : List Nat} (f : State → State)
    (h : ∀ r ∈ regs, s.me.mark l r = false) : s.deciding l regs f = f s := by
  unfold State.deciding
  rw [if_neg]
  simpa using h

/-! ### Memory -/

/-- Every write of memory keeps its canonical form. -/
theorem State.writeMem_wf (s : State) (pa : Nat) (bs : List Byte) (h : Memory.wf s.mem = true) :
    Memory.wf (s.writeMem pa bs).mem = true := cwf_csetList bs s.mem pa h

/-- A byte read after a write. -/
theorem State.mem_writeMem (s : State) (pa : Nat) (bs : List Byte) (x : Nat) :
    cget 0 (s.writeMem pa bs).mem x = if pa ≤ x ∧ x < pa + bs.length then bs.getD (x - pa) 0 else cget 0 s.mem x :=
  cget_csetList 0 bs s.mem pa x

end Sys2Proof.Machine
end

