-- ==== Sys2Proof/Laws/Mem.lean ====
section
/-!
SUPPORT. What the operations over memory can do. A read, an invalidation or an acquire changes views only (`Kept`); a
write at the home changes memory by writes alone, which keep its canonical form (`Wrote`).
-/
namespace Sys2Proof.Machine

/-! ### What a change of views leaves alone -/

/-- A die but for what L2 holds. -/
def Die.plain (d : Die) : Die := { d with l2 := [], shadow := [], hits := [] }

/-- Memory and what only writes, faults and services change are as before; of a die, all but what L2 holds. -/
structure Kept (s t : State) : Prop where
  mem : t.mem = s.mem
  poison : t.poison = s.poison
  pend : t.pend = s.pend
  holds : t.holds = s.holds
  hostPend : t.hostPend = s.hostPend
  hostWait : t.hostWait = s.hostWait
  dies : t.dies.map Die.plain = s.dies.map Die.plain
  trust : t.trust = s.trust
  cur : t.cur = s.cur
  stalled : t.stalled = s.stalled
  clock : t.clock = s.clock

theorem Kept.refl (s : State) : Kept s s := ⟨rfl, rfl, rfl, rfl, rfl, rfl, rfl, rfl, rfl, rfl, rfl⟩

theorem Kept.trans {s t u : State} (h : Kept s t) (k : Kept t u) : Kept s u :=
  ⟨k.mem.trans h.mem, k.poison.trans h.poison, k.pend.trans h.pend, k.holds.trans h.holds, k.hostPend.trans h.hostPend,
    k.hostWait.trans h.hostWait, k.dies.trans h.dies, k.trust.trans h.trust, k.cur.trans h.cur, k.stalled.trans h.stalled,
    k.clock.trans h.clock⟩

/-- A fold of changes that are related keeps the relation. -/
theorem foldl_rel {α : Type} {R : State → State → Prop} (refl : ∀ s, R s s) (trans : ∀ {s t u}, R s t → R t u → R s u)
    (f : State → α → State) (h : ∀ s a, R s (f s a)) : ∀ (l : List α) (s : State), R s (l.foldl f s)
  | [], s => refl s
  | a :: l, s => trans (h s a) (foldl_rel refl trans f h l (f s a))

theorem Kept.foldl {α : Type} (f : State → α → State) (h : ∀ s a, Kept s (f s a)) (l : List α) (s : State) :
    Kept s (l.foldl f s) := foldl_rel Kept.refl Kept.trans f h l s

theorem State.kept_modSeq (s : State) (a : Agent) (f : Seq → Seq) : Kept s (s.modSeq a f) :=
  ⟨rfl, rfl, rfl, rfl, rfl, rfl, rfl, rfl, rfl, rfl, rfl⟩
theorem State.kept_modGrid (s : State) (c : Nat) (f : Grid → Grid) : Kept s (s.modGrid c f) :=
  ⟨rfl, rfl, rfl, rfl, rfl, rfl, rfl, rfl, rfl, rfl, rfl⟩
theorem State.kept_modWg (s : State) (w : WgId) (f : Wg → Wg) : Kept s (s.modWg w f) :=
  ⟨rfl, rfl, rfl, rfl, rfl, rfl, rfl, rfl, rfl, rfl, rfl⟩
theorem State.kept_modGroup (s : State) (g : GrpId) (f : Group → Group) : Kept s (s.modGroup g f) :=
  ⟨rfl, rfl, rfl, rfl, rfl, rfl, rfl, rfl, rfl, rfl, rfl⟩
theorem State.kept_modDir (s : State) (l : Nat) (f : DirEnt → DirEnt) : Kept s (s.modDir l f) :=
  ⟨rfl, rfl, rfl, rfl, rfl, rfl, rfl, rfl, rfl, rfl, rfl⟩
theorem State.kept_choose (s : State) : Kept s s.choose.2 := ⟨rfl, rfl, rfl, rfl, rfl, rfl, rfl, rfl, rfl, rfl, rfl⟩

/-! ### Captures -/

theorem State.kept_capture (s : State) (k : Option Nat) (e : CapEv) : Kept s (s.capture k e) := by
  cases k <;> exact ⟨rfl, rfl, rfl, rfl, rfl, rfl, rfl, rfl, rfl, rfl, rfl⟩

theorem State.kept_ordered {s t : State} {c : Nat} {e : CapEv} (h : s.ordered c e = some t) : Kept s t := by
  unfold State.ordered at h
  split at h
  · cases h; exact s.kept_capture _ _
  · split at h
    · split at h
      · cases h; exact s.kept_modGrid _ _
      · cases h
    · split at h
      · cases h; exact Kept.refl s
      · split at h
        · cases h
        · cases h
          split
          · exact s.kept_modGrid _ _
          · exact Kept.refl s

/-! ### Reads -/

theorem State.kept_hostInput (s : State) (g : GrpId) (pa v : Nat) : Kept s (s.hostInput g pa v).1 := by
  unfold State.hostInput
  split
  · exact Kept.refl s
  · dsimp only
    generalize ho : s.ordered g.c _ = o
    cases o with
    | none => exact Kept.refl s
    | some t => exact State.kept_ordered ho

theorem lset_map {α β : Type} (f : α → β) (x : α) : ∀ (l : List α) (k : Nat), (∀ y, l[k]? = some y → f x = f y) →
    (lset l k x).map f = l.map f
  | [], _, _ => rfl
  | y :: l, 0, h => by simp [lset, h y rfl]
  | y :: l, k + 1, h => by simp [lset, lset_map f x l k (fun z hz => h z (by simpa using hz))]

theorem State.kept_modDie (s : State) (d : Nat) (f : Die → Die) (h : ∀ x, (f x).plain = x.plain) : Kept s (s.modDie d f) := by
  refine ⟨rfl, rfl, rfl, rfl, rfl, rfl, lset_map _ _ _ _ fun y hy => ?_, rfl, rfl, rfl, rfl⟩
  rw [h, State.die, List.getD_eq_getElem?_getD, hy]; rfl

theorem Die.sample_plain (d : Die) (p line : Nat) : (d.sample p line).plain = d.plain := by
  unfold Die.sample
  dsimp only
  split <;> rfl

theorem State.kept_leaveDie (s : State) (die line : Nat) : Kept s (s.leaveDie die line) := s.kept_modDir _ _

theorem State.kept_sample (s : State) (die line : Nat) (p : Option Nat) : Kept s (s.sample die line p) := by
  unfold State.sample
  split
  · split
    · exact s.kept_modDie _ _ fun x => x.sample_plain _ _
    · exact Kept.refl s
  · exact Kept.refl s

theorem State.kept_l2Access (s : State) (die line : Nat) (p : Option Nat) (wr : Bool) : Kept s (s.l2Access die line p wr) := by
  unfold State.l2Access
  dsimp only
  have h0 := s.kept_sample die line p
  generalize s.sample die line p = s0 at h0 ⊢
  split
  · split
    · exact h0.trans (s0.kept_modDie _ _ fun _ => rfl)
    · exact h0
  · split
    · exact h0.trans (s0.kept_modDie _ _ fun _ => rfl)
    · split
      · exact h0
      · refine Kept.trans ?_ (State.kept_modDie _ _ _ fun _ => rfl)
        split <;> split <;> first
          | exact h0.trans (State.kept_leaveDie _ _ _)
          | exact (h0.trans s0.kept_choose).trans (State.kept_leaveDie _ _ _)
          | exact h0
          | exact h0.trans s0.kept_choose

theorem State.kept_l2Miss (s : State) (c die line : Nat) (wr : Bool) : Kept s (s.l2Miss c die line wr) := by
  unfold State.l2Miss
  dsimp only
  refine Kept.trans ?_ (State.kept_l2Access _ _ _ _ _)
  split
  · split
    · exact (s.kept_l2Access _ _ _ _).trans (State.kept_modDir _ _ _)
    · exact s.kept_l2Access _ _ _ _
  · exact Kept.refl s

theorem State.kept_keepStale (s : State) (w : WgId) (line : Nat) (gs : List Nat) : Kept s (s.keepStale w line gs) := by
  unfold State.keepStale
  split
  · exact Kept.refl s
  · exact s.kept_modWg _ _

theorem State.kept_evictL1 {s t : State} {c : CoreId} {line : Nat} (h : s.evictL1 c line = some t) : Kept s t := by
  unfold State.evictL1 at h
  split at h
  · cases h; exact s.kept_modDir _ _
  · dsimp only at h
    obtain ⟨-, h⟩ := Option.ite_none_left_eq_some.1 h
    cases h
    exact ((s.kept_keepStale _ _ _).trans (State.kept_modWg _ _ _)).trans (State.kept_modDir _ _ _)

theorem State.kept_makeRoom (s : State) (w : WgId) : Kept s (s.makeRoom w) := by
  unfold State.makeRoom
  dsimp only
  split
  · exact Kept.refl s
  · split
    · exact Kept.refl s
    · generalize hv : State.evictL1 _ _ _ = o
      cases o with
      | none => exact s.kept_choose
      | some t => exact s.kept_choose.trans (State.kept_evictL1 hv)

theorem State.kept_cacheLine (s : State) (w : WgId) (line : Nat) (f : List Nat → List Nat) : Kept s (s.cacheLine w line f) := by
  unfold State.cacheLine
  dsimp only
  refine Kept.trans ?_ (State.kept_modDir _ _ _)
  split
  · exact Kept.refl s
  · exact (s.kept_makeRoom _).trans (State.kept_l2Miss _ _ _ _ _)

theorem State.kept_openLine (s : State) (g : GrpId) (pa n since : Nat) (ls : List Nat) : Kept s (s.openLine g pa n since ls) := by
  unfold State.openLine
  split
  · exact Kept.refl s
  · dsimp only
    split
    · exact s.kept_choose
    · split
      · exact s.kept_choose
      · split
        · exact s.kept_choose
        · exact s.kept_choose.trans (State.kept_modWg _ _ _)

theorem State.kept_markRead (s : State) (g : GrpId) (pa n : Nat) : Kept s (s.markRead g pa n) :=
  (s.kept_cacheLine _ _ _).trans (State.kept_modGroup _ _ _)

theorem State.kept_settleOwn (s : State) (g : GrpId) (pa : Nat) (bs : List Byte) : Kept s (s.settleOwn g pa bs) :=
  (s.kept_modWg _ _).trans (State.kept_markRead _ _ _ _)

theorem State.kept_readAt (s : State) (g : GrpId) (t : Target) (n since : Nat) : Kept s (s.readAt g t n since).1 := by
  unfold State.readAt
  split
  · exact Kept.refl s
  · dsimp only
    refine Kept.trans ?_ (State.kept_hostInput _ _ _ _)
    split
    · exact (s.kept_openLine _ _ _ _ _).trans (State.kept_markRead _ _ _ _)
    · exact (s.kept_openLine _ _ _ _ _).trans (State.kept_settleOwn _ _ _ _)
  · exact s.kept_hostInput _ _ _

theorem State.kept_readLanes (g : GrpId) (n since : Nat) :
    ∀ (l : List (Nat × Target)) (s : State), Kept s (s.readLanes g n since l).1
  | [], s => Kept.refl s
  | (_, t) :: l, s => (s.kept_readAt g t n since).trans (State.kept_readLanes g n since l _)

theorem State.kept_readOut (s : State) (g : GrpId) (p : Target → Nat → Bool) (o : Outst) : Kept s (s.readOut g p o).1 := by
  unfold State.readOut
  split
  · split
    · exact State.kept_readLanes _ _ _ _ s
    · exact Kept.refl s
  · exact Kept.refl s

theorem State.kept_readOuts (g : GrpId) (p : Target → Nat → Bool) :
    ∀ (l : List Outst) (s : State), Kept s (s.readOuts g p l).1
  | [], s => Kept.refl s
  | o :: l, s => (s.kept_readOut g p o).trans (State.kept_readOuts g p l _)

theorem State.kept_forceReads (s : State) (g : GrpId) (p : Target → Nat → Bool) : Kept s (s.forceReads g p) := by
  unfold State.forceReads
  refine (Kept.foldl _ (fun s a => ?_) _ s).trans (Kept.foldl _ (fun s f => ?_) _ _)
  · exact (State.kept_readOuts g p _ s).trans (State.kept_modSeq _ _ _)
  · exact (State.kept_readOuts g p _ s).trans (State.kept_modGroup _ _ _)

/-! ### Invalidations and acquires -/

theorem State.kept_invalidate (s : State) (c : CoreId) (line : Nat) : Kept s (s.invalidate c line) := by
  unfold State.invalidate
  dsimp only
  split
  · exact (s.kept_keepStale _ _ _).trans (State.kept_modDir _ _ _)
  · exact s.kept_modDir _ _

theorem State.kept_noteAll (s : State) (wr : Writer) (own : Option WgId) (line : Nat) : Kept s (s.noteAll wr own line) :=
  Kept.foldl _ (fun s _ => s.kept_modWg _ _) _ s

theorem State.kept_cancelOuts (line : Nat) : ∀ (l : List Outst) (s : State), Kept s (s.cancelOuts line l).1
  | [], s => Kept.refl s
  | o :: l, s => by
    unfold State.cancelOuts
    refine Kept.trans ?_ (State.kept_cancelOuts line l _)
    split
    · split
      · exact s.kept_choose
      · exact Kept.refl s
    · exact Kept.refl s

theorem State.kept_cancelReads (s : State) (g : GrpId) (line : Nat) : Kept s (s.cancelReads g line) :=
  Kept.foldl _ (fun s _ => (State.kept_cancelOuts line _ s).trans (State.kept_modSeq _ _ _)) _ s

theorem State.kept_dropTrans (s : State) (t : TAgent) (line : Nat) : Kept s (s.dropTrans t line) := by
  have h := Kept.foldl (fun s g => (State.cancelReads s g line).forceReads g (Target.uses line))
    (fun s g => (s.kept_cancelReads g line).trans (State.kept_forceReads _ g _))
    ((s.groups.filter fun x => s.wgAgent x.1.wg == t).map Prod.fst) s
  exact ⟨h.mem, h.poison, h.pend, h.holds, h.hostPend, h.hostWait, h.dies, h.trust, h.cur, h.stalled, h.clock⟩

theorem State.kept_acquire (s : State) (g : GrpId) (scope : Nat) : Kept s (s.acquire g scope) :=
  ⟨rfl, rfl, rfl, rfl, rfl, rfl, rfl, rfl, rfl, rfl, rfl⟩

/-! ### Writes -/

/-- Memory changed by writes alone, and what no write changes is as before. -/
structure Wrote (s t : State) : Prop where
  wf : Memory.wf s.mem = true → Memory.wf t.mem = true
  holds : t.holds = s.holds
  dies : t.dies.map Die.plain = s.dies.map Die.plain
  trust : t.trust = s.trust
  cur : t.cur = s.cur
  stalled : t.stalled = s.stalled
  clock : t.clock = s.clock

theorem Wrote.refl (s : State) : Wrote s s := ⟨id, rfl, rfl, rfl, rfl, rfl, rfl⟩
theorem Wrote.trans {s t u : State} (h : Wrote s t) (k : Wrote t u) : Wrote s u :=
  ⟨k.wf ∘ h.wf, k.holds.trans h.holds, k.dies.trans h.dies, k.trust.trans h.trust, k.cur.trans h.cur,
    k.stalled.trans h.stalled, k.clock.trans h.clock⟩

theorem Kept.wrote {s t : State} (h : Kept s t) : Wrote s t :=
  ⟨fun k => h.mem ▸ k, h.holds, h.dies, h.trust, h.cur, h.stalled, h.clock⟩

theorem Wrote.foldl {α : Type} (f : State → α → State) (h : ∀ s a, Wrote s (f s a)) (l : List α) (s : State) :
    Wrote s (l.foldl f s) := foldl_rel Wrote.refl Wrote.trans f h l s

theorem State.wrote_takeWake (s : State) (vf off size value : Nat) : Wrote s (s.takeWake vf off size value) := by
  unfold State.takeWake
  dsimp only
  repeat' split
  all_goals exact ⟨id, rfl, rfl, rfl, rfl, rfl, rfl⟩

theorem State.wrote_land (s : State) (pa : Nat) (bs : List Byte) : Wrote s (s.land pa bs) := by
  unfold State.land
  split
  · refine Wrote.trans (t := s.noteCode pa bs) ?_ ?_
    · unfold State.noteCode
      split <;> exact ⟨id, rfl, rfl, rfl, rfl, rfl, rfl⟩
    · exact ⟨State.writeMem_wf _ _ _, rfl, rfl, rfl, rfl, rfl, rfl⟩
  · exact s.wrote_takeWake _ _ _ _

theorem State.wrote_performRaw (s : State) (wr : Writer) (own : Option WgId) (trk : Bool) (pa : Nat) (bs : List Byte) :
    Wrote s (s.performRaw wr own trk pa bs) := by
  unfold State.performRaw
  dsimp only
  refine Wrote.trans ?_ (State.wrote_land _ _ _)
  have h (t : State) (f : DirEnt → DirEnt) (l : List TAgent) (k : Kept s t) :
      Kept s (l.foldl (fun s t => s.dropTrans t (lineOf pa)) (t.modDir (lineOf pa) f)) :=
    (k.trans (t.kept_modDir _ _)).trans (Kept.foldl _ (fun s t => s.kept_dropTrans t _) _ _)
  have h2 : Kept s (if trk then (((s.dirEnt (lineOf pa)).l1.map Prod.fst).filter fun c =>
      some c != own.map fun w => (s.wg w).core).foldl (fun s c => s.invalidate c (lineOf pa)) (s.noteAll wr own (lineOf pa))
      else s.noteAll wr own (lineOf pa)) := by
    refine (s.kept_noteAll wr own (lineOf pa)).trans ?_
    split
    · exact Kept.foldl _ (fun s c => s.kept_invalidate c _) _ _
    · exact Kept.refl _
  split
  · exact ((h _ _ _ h2).trans (State.kept_l2Access _ _ _ _ _)).wrote
  · exact (h _ _ _ h2).wrote

theorem State.wrote_performStore (s : State) (p : PStore) : Wrote s (s.performStore p) := by
  have h := State.wrote_performRaw { s with pend := s.pend.filter fun x => x.sid != p.sid } (.core p.src (some p.grp))
    (if p.trk then some p.src else none) p.trk p.pa p.data
  unfold State.performStore
  dsimp only
  generalize State.performRaw _ _ _ _ _ _ = t at h ⊢
  exact ⟨h.wf, h.holds, h.dies, h.trust, h.cur, h.stalled, h.clock⟩

theorem State.wrote_cancelStores (s : State) (line : Nat) : Wrote s (s.cancelStores line) := by
  unfold State.cancelStores
  refine Wrote.foldl _ (fun s p => ?_) _ s
  dsimp only
  split
  · exact ⟨id, rfl, rfl, rfl, rfl, rfl, rfl⟩
  · exact s.kept_choose.wrote

theorem State.wrote_drain {s t : State} {p : PStore → Bool} (h : s.drain? p = some t) : Wrote s t := by
  unfold State.drain? at h
  dsimp only at h
  split at h
  · cases h
    exact (Wrote.foldl _ (fun s x => s.wrote_cancelStores _) _ s).trans (Wrote.foldl _ State.wrote_performStore _ _)
  · cases h

theorem State.wrote_homeWrite {s t : State} {wr : Writer} {trk : Bool} {pa : Nat} {bs : List Byte}
    (h : s.homeWrite? wr trk pa bs = some t) : Wrote s t := by
  unfold State.homeWrite? at h
  dsimp only at h
  split at h
  · cases h
  · obtain ⟨u, hu, rfl⟩ := Option.map_eq_some_iff.1 h
    exact ((Wrote.foldl _ State.wrote_cancelStores _ s).trans (State.wrote_drain hu)).trans
      (Wrote.foldl _ (fun s x => s.wrote_performRaw _ _ _ _ _) _ u)

theorem State.withBefore_nil (s : State) : ∀ k, s.withBefore k [] = []
  | 0 => rfl
  | k + 1 => by simp [State.withBefore]

/-- With no accepted store selected there is nothing to perform. -/
theorem State.drain_nothing {s : State} {p : PStore → Bool} (h : ∀ x ∈ s.pend, p x = false) : s.drain? p = some s := by
  have h1 : (s.pend.filter fun x => p x && (s.dirEnt (lineOf x.pa)).tsh != []) = [] := by
    rw [List.filter_eq_nil_iff]; intro x hx; simp [h x hx]
  have h2 : (s.pend.filter fun x => p x && !x.again) = [] := by
    rw [List.filter_eq_nil_iff]; intro x hx; simp [h x hx]
  unfold State.drain?
  simp only [h1, List.foldl_nil, h2, List.map_nil, State.withBefore_nil]
  simp

/-- A write performs at once where no core withholds its acknowledgement and no translation derives from its lines. -/
theorem State.homeWrite_free {s : State} {wr : Writer} {trk : Bool} {pa : Nat} {bs : List Byte}
    (hf : ∀ l ∈ linesOf pa bs.length, s.lineFree none l = true) (ht : ∀ l ∈ linesOf pa bs.length, (s.dirEnt l).tsh = []) :
    s.homeWrite? wr trk pa bs =
      some ((linePieces pa (bs.length / 128 + 2) bs).foldl (fun s x => s.performRaw wr none trk x.1 x.2) s) := by
  have h1 : ((linesOf pa bs.length).filter fun l => (s.dirEnt l).tsh != []) = [] := by
    rw [List.filter_eq_nil_iff]; intro l hl; simp [ht l hl]
  have h2 : (linesOf pa bs.length).all (s.lineFree none) = true := List.all_eq_true.2 hf
  have h3 : (linesOf pa bs.length).all s.tableFree = true :=
    List.all_eq_true.2 fun l hl => by simp [State.tableFree, ht l hl]
  unfold State.homeWrite?
  simp only [h2, h3, h1, List.foldl_nil]
  rw [State.drain_nothing]
  · simp
  · intro p _
    rw [Bool.eq_false_iff, ne_eq, List.any_eq_true]
    rintro ⟨l, hl, h⟩
    simp [ht l hl] at h

/-- A write by the device's own agents performs, or waits at the home. -/
theorem State.wrote_write (s : State) (pa : Nat) (bs : List Byte) (trk : Bool) (ls : List Nat) (a : Option Nat) :
    Wrote s (s.homeWrite pa bs trk ls a) := by
  unfold State.homeWrite
  dsimp only
  split
  · exact ⟨id, rfl, rfl, rfl, rfl, rfl, rfl⟩
  · generalize hw : s.homeWrite? _ _ _ _ = o
    cases o with
    | none => exact ⟨id, rfl, rfl, rfl, rfl, rfl, rfl⟩
    | some t => exact State.wrote_homeWrite hw

theorem State.kept_note (s : State) (wr : Writer) (w : WgId) (line : Nat) : Kept s (s.note wr w line) := s.kept_modWg _ _

theorem State.kept_atL1 (s : State) (g : GrpId) (p : PStore) : Kept s (s.atL1 g p) :=
  ((s.kept_note _ _ _).trans (State.kept_keepStale _ _ _ _)).trans (State.kept_settleOwn _ _ _ _)

/-- An accepted store changes no memory until it performs (R282). -/
theorem State.mem_acceptStore (s : State) (g : GrpId) (p : PStore) : (s.acceptStore g p).mem = s.mem := by
  unfold State.acceptStore State.pushStore
  dsimp only
  split
  · exact (s.kept_atL1 g p).mem
  · rfl

theorem State.kept_spWrite (s : State) (w : WgId) (off : Nat) (bs : List Byte) : Kept s (s.spWrite w off bs) :=
  ⟨rfl, rfl, rfl, rfl, rfl, rfl, rfl, rfl, rfl, rfl, rfl⟩

theorem State.wrote_writeAt (s : State) (g : GrpId) (t : Target) (n v va waddr lanes : Nat) (whole : List Nat) :
    Wrote s (s.writeAt g t n v va waddr lanes whole) := by
  unfold State.writeAt
  split
  · exact (s.kept_spWrite _ _ _).wrote
  · unfold State.acceptStore State.pushStore
    refine Wrote.trans (Kept.wrote (t := if _ then s.atL1 g _ else s) ?_) ⟨id, rfl, rfl, rfl, rfl, rfl, rfl⟩
    split
    · exact s.kept_atL1 _ _
    · exact Kept.refl s

theorem State.wrote_atomicAt {s t : State} {g : GrpId} {x : Target} {n v : Nat} {f : Nat → Nat}
    (h : s.atomicAt g x n f = some (t, v)) : Wrote s t := by
  unfold State.atomicAt at h
  split at h
  · obtain ⟨u, hu, he⟩ := Option.map_eq_some_iff.1 h
    cases he
    exact ((State.kept_ordered hu).trans (State.kept_spWrite _ _ _ _)).wrote
  · split at h
    · cases h
    · next u hu =>
      obtain ⟨w, hw, hd⟩ := Option.bind_eq_some_iff.1 hu
      obtain ⟨z, hz, he⟩ := Option.map_eq_some_iff.1 h
      cases he
      refine (((State.kept_ordered hw).wrote.trans (State.wrote_drain hd)).trans
        ((State.kept_hostInput _ _ _ _).wrote.trans (State.wrote_homeWrite hz))).trans ?_
      split
      · exact (State.kept_settleOwn _ _ _ _).wrote
      · exact Wrote.refl _

end Sys2Proof.Machine
end

