-- ==== Sys2Proof/Laws/Image.lean ====
section
/-!
SUPPORT. A write at its home, and so the spill of an image, performs at once, and changes no window, while no line has a sharer
of any kind.
-/
namespace Sys2Proof.Machine

/-- A line that no L1 and no host holds, and whose translations no agent holds. -/
def DirEnt.Bare (e : DirEnt) : Prop := e.tsh = [] ∧ e.l1 = [] ∧ e.host = .i

/-- Every line is such a line, no write waits at its home, and no group holds a window. -/
def State.Bare (s : State) : Prop := (∀ e ∈ s.dir, e.2.Bare) ∧ (∀ x ∈ s.groups, x.2.windows = []) ∧ s.hostPend = []

theorem aput_mem {κ α : Type} [DecidableEq κ] {m : Assoc κ α} {k : κ} {v : α} {e : κ × α} (h : e ∈ aput m k v) :
    e ∈ m ∨ e = (k, v) := by
  induction m with
  | nil => simpa [aput] using h
  | cons x m ih =>
    obtain ⟨i, u⟩ := x
    unfold aput at h
    split at h
    · subst i
      rcases List.mem_cons.1 h with h | h
      · exact .inr h
      · exact .inl (List.mem_cons_of_mem _ h)
    · rcases List.mem_cons.1 h with h | h
      · exact .inl (h ▸ List.mem_cons_self)
      · exact (ih h).imp (List.mem_cons_of_mem _) id

theorem aget?_mem {κ α : Type} [DecidableEq κ] {m : Assoc κ α} {k : κ} {v : α} (h : aget? m k = some v) : (k, v) ∈ m := by
  induction m with
  | nil => cases h
  | cons x m ih =>
    obtain ⟨i, u⟩ := x
    unfold aget? at h
    split at h
    · subst i; cases h; exact List.mem_cons_self
    · exact List.mem_cons_of_mem _ (ih h)

theorem State.Bare.dirEnt {s : State} (h : s.Bare) (l : Nat) : (s.dirEnt l).Bare := by
  show ((aget? s.dir l).getD {}).Bare
  cases hv : aget? s.dir l with
  | none => exact ⟨rfl, rfl, rfl⟩
  | some e => exact h.1 _ (aget?_mem hv)

theorem State.Bare.group {s : State} (h : s.Bare) (g : GrpId) : (s.group g).windows = [] := by
  show ((aget? s.groups g).getD {}).windows = []
  cases hv : aget? s.groups g with
  | none => rfl
  | some y => exact h.2.1 _ (aget?_mem hv)

theorem State.Bare.walkWaits {s : State} (h : s.Bare) (w : WgId) : s.walkWaits w = false := by
  unfold State.walkWaits
  rw [Bool.eq_false_iff, ne_eq, List.any_eq_true]
  rintro ⟨g, -, hg⟩
  simp [h.group g] at hg

theorem State.Bare.modDir {s : State} (h : s.Bare) (l : Nat) (f : DirEnt → DirEnt) (hf : ∀ e, DirEnt.Bare e → (f e).Bare) :
    (s.modDir l f).Bare := by
  refine ⟨fun e he => ?_, h.2⟩
  rcases aput_mem he with he | rfl
  · exact h.1 e he
  · exact hf _ (h.dirEnt l)

theorem State.Bare.modWg {s : State} (h : s.Bare) (w : WgId) (f : Wg → Wg) : (s.modWg w f).Bare := h
theorem State.Bare.modDie {s : State} (h : s.Bare) (d : Nat) (f : Die → Die) : (s.modDie d f).Bare := h

theorem State.Bare.keepStale {s : State} (h : s.Bare) (w : WgId) (l : Nat) (gs : List Nat) : (s.keepStale w l gs).Bare := by
  unfold State.keepStale
  split
  · exact h
  · exact h.modWg _ _

theorem State.Bare.leaveDie {s : State} (h : s.Bare) (d l : Nat) : (s.leaveDie d l).Bare := h.modDir _ _ fun _ he => he

theorem State.Bare.l2Access {s : State} (h : s.Bare) (d l : Nat) (p : Option Nat) (wr : Bool) : (s.l2Access d l p wr).Bare := by
  have h0 : (s.sample d l p).Bare := by
    unfold State.sample
    split
    · split
      · exact h.modDie _ _
      · exact h
    · exact h
  unfold State.l2Access
  dsimp only
  generalize s.sample d l p = s0 at h0 ⊢
  split
  · split
    · exact h0.modDie _ _
    · exact h0
  · split
    · exact h0.modDie _ _
    · split
      · exact h0
      · refine State.Bare.modDie ?_ _ _
        split <;> split <;> first
          | exact h0.leaveDie _ _
          | exact State.Bare.leaveDie (s := s0.choose.2) h0 _ _
          | exact h0

theorem State.Bare.foldl {α : Type} (f : State → α → State) (hf : ∀ s a, State.Bare s → (f s a).Bare) :
    ∀ (l : List α) (s : State), s.Bare → (l.foldl f s).Bare
  | [], _, h => h
  | a :: l, s, h => State.Bare.foldl f hf l (f s a) (hf s a h)

theorem State.Bare.land {s : State} (h : s.Bare) (pa : Nat) (bs : List Byte) : (s.land pa bs).Bare := by
  unfold State.land
  split
  · unfold State.noteCode
    split <;> exact h
  · unfold State.takeWake
    dsimp only
    repeat' split
    all_goals exact h

theorem State.Bare.entryAfter {e : DirEnt} (h : e.Bare) (s : State) (wr : Writer) (c : Option CoreId) (trk : Bool) (pa : Nat)
    (bs : List Byte) : (s.entryAfter wr c trk pa bs e).Bare := by
  unfold State.entryAfter
  dsimp only
  split <;> exact h

theorem State.Bare.performRaw {s : State} (h : s.Bare) (wr : Writer) (own : Option WgId) (trk : Bool) (pa : Nat)
    (bs : List Byte) : (s.performRaw wr own trk pa bs).Bare := by
  have hn : (s.noteAll wr own (lineOf pa)).Bare := State.Bare.foldl _ (fun s w h => State.Bare.modWg h w _) _ _ h
  unfold State.performRaw
  simp only [(h.dirEnt _).1, (h.dirEnt _).2.1, List.map_nil, List.filter_nil, List.foldl_nil, ite_self]
  refine State.Bare.land ?_ _ _
  have h2 := hn.modDir (lineOf pa) _ fun e he => State.Bare.entryAfter he (s.noteAll wr own (lineOf pa)) wr (own.map fun w => (s.wg w).core) trk pa bs
  split
  · exact h2.l2Access _ _ _ _
  · exact h2

theorem State.Bare.homeWrite {s : State} (h : s.Bare) (pa : Nat) (bs : List Byte) : (s.homeWrite pa bs).Bare := by
  have hw : s.homeWrite? .device true pa bs =
      some ((linePieces pa (bs.length / 128 + 2) bs).foldl (fun s x => s.performRaw .device none true x.1 x.2) s) :=
    State.homeWrite_free (fun l _ => by simp [State.lineFree, (h.dirEnt l).2]) fun l _ => (h.dirEnt l).1
  unfold State.homeWrite
  simp only [h.2.2, List.any_nil, Bool.false_eq_true, if_false, hw, Option.getD_some]
  exact State.Bare.foldl _ (fun s x h => h.performRaw _ _ _ _ _) _ _ h

theorem State.Bare.writeImage {s : State} (h : s.Bare) (w : WgId) (image st : Nat) : (s.writeImage w image st).Bare := by
  unfold State.writeImage
  generalize List.range 9216 = l
  dsimp only
  refine State.Bare.homeWrite (s := State.addPoison _ _) ?_ _ _
  refine State.Bare.foldl _ (fun s i h => ?_) _ _ ?_
  · split
    · exact (h.homeWrite _ _).homeWrite _ _
    · exact h.homeWrite _ _
  refine State.Bare.homeWrite ?_ _ _
  refine State.Bare.foldl _ (fun s i h => h.homeWrite _ _) _ _ ?_
  refine State.Bare.homeWrite ?_ _ _
  exact State.Bare.foldl _ (fun s f h => h.homeWrite _ _) _ _ h

theorem State.Bare.shelve {s : State} (h : s.Bare) (w : WgId) : (s.shelve w).Bare := by
  have e : (s.dir.filter fun e => e.2.bitsOf (s.wg w).core != []) = [] :=
    List.filter_eq_nil_iff.2 fun x hx => by simp [DirEnt.bitsOf, (h.1 x hx).2.1, agetD, aget?]
  unfold State.shelve
  dsimp only
  rw [e]
  exact h.modWg _ _

theorem State.Bare.returnDraw {s : State} (h : s.Bare) (w : WgId) : (s.returnDraw w).Bare := by
  unfold State.returnDraw
  dsimp only
  split <;> exact h

/-- A context that has settled leaves its core, without a window, when no line has a sharer then. -/
theorem State.Bare.swapOut {s s1 : State} {w : WgId} (image : Nat) (pl : Place) (hs : (s.cutAll w).settleWg w = some s1) (hb : s1.Bare) :
    ∃ u, s.swapOut w image pl = some u ∧ u.Bare := by
  have h2 : ∀ f, (((s1.returnDraw w).shelve w).modWg w f).Bare := fun f => ((hb.returnDraw w).shelve w).modWg _ f
  have h3 : ∀ f st, (if image = 0 then ((s1.returnDraw w).shelve w).modWg w f else
      (((s1.returnDraw w).shelve w).modWg w f).writeImage w image st).Bare := fun f st => by
    split
    · exact h2 f
    · exact (h2 f).writeImage _ _ _
  unfold State.swapOut
  simp only [hs, Option.bind_some]
  generalize hu : (if image = 0 then _ else _ : State) = u
  have hu' : u.Bare := hu ▸ h3 _ _
  simp only [hu'.2.2, List.length_nil, State.drainHost?, List.any_nil, Bool.false_eq_true, if_false, Option.map_some]
  exact ⟨_, rfl, hu'.modWg _ _⟩

end Sys2Proof.Machine
end

