-- ==== Sys2Proof/Tests/Slice0.lean ====
section
/-!
SUPPORT. Tests: well-formedness refusing an ill-formed term for each check, words written out from the encoding tables,
single steps with results calculated by hand from the rules, and, for every statement, a state that meets its hypotheses.
-/
namespace Sys2Proof.Tests

set_option Elab.async false

open Sys2Proof Sys2Proof.Machine Sys2Proof.Claims

/-! ### Helpers -/

/-- One group launched on core (0, 0) of die 0, the sections at 0x10000; `a` runs there with s2 = 5, s3 = 7, s4 = 0. -/
def base (a : Agent) : State :=
  ({ State.reset.mapWord.oneGroup with cur := a }).setSeq a { pc := wordAt, run := .running, s := [(2, 5), (3, 7)] }

def atS : State := base (.group 0 0 0)
def atW : State := base (.wg 0 0)
def atP : State := base (.pitch 0 0)
def atG : State := base (.grid 0)
def atH : State := (base (.handler 0 0)).modWg ⟨0, 0⟩ fun x => { x with hrun := some (.group 0 0 0, false) }

/-- The outcome is a next state that `p` accepts. -/
def ran (o : Host.Outcome State Fault Refusal) (p : State → Bool) : Bool :=
  match o with
  | .next t => p t
  | _ => false

/-- `s` with register `r` of the executing sequencer set to `v`. -/
def withReg (s : State) (r : Nat) (v : Word) : State := s.modSeq s.cur fun q => { q with s := cset 0 q.s r v }

/-- The executing sequencer of `s` changed. -/
def onMe (s : State) (f : Seq → Seq) : State := s.modSeq s.cur f

/-- The state took an exception of a cause without a handler: its workgroup has ended (R299). -/
def killed (s : State) : Bool := (s.wg ⟨0, 0⟩).place == .killed || (s.grid 0).failing != []

/-! ### Well-formedness refuses -/

theorem test_wf_refuses :
    ([.add 62 1 1, .ldk 63 0, .cmpI 1 2 3 6, .shli 1 2 64, .br 0 4, .br 5 4, .bar 1, .signalSet 1 2 4, .icp 5 1 1,
      .satom 1 2 0 12 0 0 0, .satom 3 2 0 9 0 0 0, .swaita 1 2 0 1 0 0, .swaita 1 2 0 2 6 0, .phase 1 1, .phase 2 0,
      .waitt 3 1, .rdsr 1 0x3FF, .wrsr 1 0x000, .laneAdd { ty := 8 }, .laneAdd { vc := 1 }, .fadd { ty := 0 },
      .ld { mod := 3 }, .sclaim { p2 := 1 }, .adrainSp { mod := 1 }, .brLn { la := 1 }] : List Instr).all
      (fun i => !i.wf) = true := by decide +kernel

theorem test_wf_accepts :
    ([.add 61 1 1, .shli 1 2 63, .br 4 0, .satom 60 2 0 9 0 0 0, .laneAdd { vd := 127, ty := 6 }, .lend {}] :
      List Instr).all Instr.wf = true := by decide +kernel

/-! ### Words written out from the tables of R46 to R64 -/

theorem test_decode_control :
    decode (toBytes 4 (0x01 * 2 ^ 26 + 5 * 2 ^ 20 + 2 * 2 ^ 14 + 3 * 2 ^ 8)) = .ok (.add 5 2 3) ∧
    decode (toBytes 4 0x14104080) = .ok (.addi 1 1 128) ∧
    decode (toBytes 4 0x4511C002) = .ok (.bz 2 7 2) ∧
    decode (toBytes 4 0xAF200000) = .ok (.phase 6 1) ∧
    decode (toBytes 4 0xA481827A) = .ok (.satom 8 6 0 9 3 2 1) ∧
    decode (toBytes 4 0xA87182B0) = .ok (.swaita 7 6 0 2 5 1) ∧
    decode (toBytes 4 0) ≠ .ok .nop := by decide +kernel

theorem test_decode_lane :
    decode (toBytes 12 (0x01 + 5 * 2 ^ 16 + 3 * 2 ^ 23 + 4 * 2 ^ 32 + 6 * 2 ^ 46)) =
      .ok (.laneAdd { vd := 5, va := 3, vb := 4, ty := 6 }) ∧
    decode (toBytes 12 (2 ^ 30 + 0x01)) = .ok (.ld {}) ∧ decode (toBytes 12 (2 ^ 31 + 0x0A)) = .ok (.arel {}) ∧
    decode (toBytes 12 (3 * 2 ^ 30 + 0x01)) = .ok (.brLn {}) ∧
    (match decode (toBytes 12 0x3F) with | .ok _ => false | _ => true) = true := by decide +kernel

theorem test_samples_reencode :
    (controlSamples.all fun p => encode p.2 == toBytes 4 p.1) = true ∧
    (laneSamples.all fun p => encode p.2 == toBytes 12 p.1) = true := by decide +kernel

/-! ### Control words -/

theorem test_arith_meets : ∀ p ∈ arithWords 1 2 3 4 0 5, Legal p.1 atS .S ∧ Legal p.1 atG .G ∧ Legal p.1 atH .H := by
  decide +kernel

/-- R102: INT_MIN / -1 wraps, and a division by zero gives all ones. -/
theorem test_div_edges :
    ran (exec (.divI 1 2 3) (withReg (withReg atS 2 0x8000000000000000) 3 (BitVec.allOnes 64))) (fun t => t.me.readReg .S 1 == 0x8000000000000000) ∧
    ran (exec (.divI 1 2 4) atS) (fun t => t.me.readReg .S 1 == BitVec.allOnes 64) ∧
    ran (exec (.remN 1 2 4) atS) (fun t => t.me.readReg .S 1 == 5) := by decide +kernel

theorem test_add_wraps : ran (exec (.add 2 2 2) (withReg atS 2 0x8000000000000001))
    (fun t => t.me.readReg .S 2 == 2 && t.me.pc == 0x10004) := by decide +kernel

theorem test_cmp_signed : ran (exec (.cmpI 1 2 3 2) (withReg atS 2 (BitVec.allOnes 64))) (fun t => t.me.readReg .S 1 == 1) ∧
    ran (exec (.cmpN 1 2 3 2) (withReg atS 2 (BitVec.allOnes 64))) (fun t => t.me.readReg .S 1 == 0) := by decide +kernel

/-- R101, R25: s0 stays zero, and the mark of a source is written with the value. -/
theorem test_s0_and_marks : ran (exec (.add 0 2 3) atS) (fun t => t.me.readReg .S 0 == 0) ∧
    ran (exec (.mov 1 2) (onMe atS fun q => { q with nu := [(2, true)] })) (fun t => t.me.mark .S 1) := by decide +kernel

/-- A pool of one constant. -/
def pooled (s : State) : State := s.modGrid 0 fun g => { g with k := { g.k with pool := [9] } }

theorem test_constants_meet : Legal (.movi 1 0x80000) atS .S ∧ Legal (.movh 1 7) atS .S ∧ Legal (.ldk 1 0) (pooled atS) .S ∧
    ((pooled atS).grid (ctxOf (pooled atS).cur)).k.pool[0]? = some 9 ∧ Legal (.ldk 1 1) (pooled atS) .S ∧
    ((pooled atS).grid (ctxOf (pooled atS).cur)).k.pool.length ≤ 1 := by decide +kernel

theorem test_constants : ran (exec (.movi 1 0x80000) atS) (fun t => t.me.readReg .S 1 == 0xFFFFFFFFFFF80000) ∧
    ran (exec (.movh 2 1) atS) (fun t => t.me.readReg .S 2 == 0x500001) ∧
    ran (exec (.ldk 1 0) (pooled atS)) (fun t => t.me.readReg .S 1 == 9) ∧
    ran (exec (.ldk 1 1) (pooled atS)) (fun t => killed t) := by decide +kernel

theorem test_transfers_meet :
    Legal (.br 1 4) atS .S ∧ Legal (.bz 1 4 4) atS .S ∧ Legal (.bnz 2 2 0x3FFF) atW .W ∧ Legal (.call 3 4) atP .P ∧
    Legal (.callReg 4 2) atG .G ∧ Legal (.ret 1) atS .S ∧ Legal (.loop 1 7 2) atS .S ∧ Legal (.loopi 1 0 511) atS .S ∧
    Legal (.next 1 0 0x3FFE) atS .S := by decide +kernel

/-- R105: a branch one word before the section is PROT, and one to its first word is taken; R106: NEXT counts. -/
theorem test_transfers : ran (exec (.br 1 4) atS) (fun t => t.me.pc == 0x10010) ∧ ran (exec (.br 1 0x3FFF) atS) killed ∧
    ran (exec (.bz 1 4 8) atS) (fun t => t.me.pc == 0x10020) ∧ ran (exec (.bnz 1 4 8) atS) (fun t => t.me.pc == 0x10004) ∧
    ran (exec (.call 1 3) atS) (fun t => t.me.pc == 0x1000C && t.me.stack == [0x10004]) ∧ ran (exec (.ret 1) atS) killed ∧
    ran (exec (.callReg 1 2) atS) (fun t => t.me.pc == 0x10014) ∧
    ran (exec (.ret 1) (onMe atS fun q => { q with stack := [0x10020] })) (fun t => t.me.pc == 0x10020 && t.me.stack == []) ∧
    ran (exec (.loop 1 7 2) (withReg atS 2 (BitVec.allOnes 64))) (fun t => t.me.ctr 7 == 0xFFFFFFFF) ∧
    ran (exec (.next 1 0 4) (onMe atS fun q => { q with lc := [(0, 2)] })) (fun t => t.me.pc == 0x10010 && t.me.ctr 0 == 1) ∧
    ran (exec (.next 1 0 4) (onMe atS fun q => { q with lc := [(0, 1)] })) (fun t => t.me.pc == 0x10004 && t.me.ctr 0 == 0) := by
  decide +kernel

/-- R107: the 257th CALL raises STACK. -/
theorem test_stack_full : ran (exec (.call 1 3) (onMe atS fun q => { q with stack := List.replicate 256 1 })) killed ∧
    ran (exec (.call 1 3) (onMe atS fun q => { q with stack := List.replicate 255 1 })) (fun t => t.me.stack.length == 256) := by
  decide +kernel

/-- A marked register raises NONUNIFORM at a deciding word. -/
theorem test_marked_branch : ran (exec (.bz 1 2 8) (onMe atS fun q => { q with nu := [(2, true)] }))
    (fun t => killed t && t.me.pc == 0x10000) := by decide +kernel

/-! ### Receipts, raise registers and barriers -/

theorem test_down_meets : (∀ p ∈ downWords 2 3 2 5, Legal p.1 atW .W) ∧ ∀ p ∈ downWords 2 3 2 5, Legal p.1 atP .P := by
  decide +kernel

theorem test_down : ran (exec (.downv 2 3 0x1FF) atW) (fun t =>
      t.me.sent == 1 && (t.seq (.group 0 0 0)).inq == [{ seq := 0, off := 0x1FF, stamp := 0, h0 := 5, h1 := 7 }]) ∧
    ran (exec (.down 0x400) atW) killed ∧ ran (exec (.downReg 2) atW) (fun t => ((t.seq (.group 0 0 0)).inq.map (·.off)) == [5]) ∧
    ran (exec (.down 0) (onMe atW fun q => { q with sent := 8 })) (fun t => t.me.run == .waiting && t.me.sent == 8) := by
  decide +kernel

theorem test_receipts_meet : (atW.receivers (.wg 0 0)).Nodup ∧ (.wg 0 0 : Agent) ∉ atW.receivers (.wg 0 0) ∧
    atW.receivers (.wg 0 0) = [.group 0 0 0] := by decide +kernel

theorem test_ends_meet : atS.me.out = [] ∧ Legal .endW atS .S ∧ Legal .endW atH .H ∧ Legal .halt atG .G ∧ atG.me.out = [] := by
  decide +kernel

theorem test_ends : ran (exec .endW atS) (fun t => t.me.run == .idle && t.me.ended == 1) ∧
    ran (exec .halt atG) (fun t => t.me.run == .halted) := by decide +kernel

/-- One group raises s2 with `op` for the workgroup; another value stands there already. -/
def raised (mask : List Nat) (op : Nat) (s : State) : State :=
  s.modSeq (.wg 0 0) fun q => { q with e := [(1, { op := op, mask := mask, vals := mask.map fun m => (m, 3, false) })] }

theorem test_raise_meets : Legal (.raise 1 2 0 6) atS .S ∧ (atS.raiseTarget atS.cur) = (.wg 0 0, 0) ∧
    (0 ∈ (agetD {} ((raised [0] 6 atS).seq (.wg 0 0)).e 1).mask) ∧
    (let e := agetD {} ((raised [1] 5 atS).seq (.wg 0 0)).e 1; 0 ∉ e.mask ∧ e.mask ≠ [] ∧ e.op ≠ 6) := by decide +kernel

theorem test_raise : ran (exec (.raise 1 2 0 6) atS) (fun t =>
      agetD {} (t.seq (.wg 0 0)).e 1 == { op := 6, mask := [0], vals := [(0, 5, false)] } && t.me.out.length == 1) ∧
    ran (exec (.raise 1 2 0 6) (raised [1] 5 atS)) killed ∧
    ran (exec (.raise 1 2 0 6) (raised [0] 6 atS)) (fun t => t.stalled) := by decide +kernel

/-- Two contributions of a workgroup of two groups, with values `x` and `y`. -/
def twoRaised (op : Nat) (x y : Word) : State :=
  (atW.modGrid 0 fun g => { g with k := { g.k with groups := 2 } }).modSeq (.wg 0 0) fun q =>
    { q with e := [(1, { op := op, mask := [0, 1], vals := [(0, x, false), (1, y, false)] })] }

theorem test_await_meets : Legal (.await 1 1 0) (twoRaised 6 1 2) .W ∧ Legal (.await 1 1 0) atW .W ∧
    (let s := (twoRaised 6 1 2).releaseHeld (.wg 0 0); s.raiseFull (.wg 0 0) (agetD {} s.me.e 1) = true ∧
      (agetD {} s.me.e 1).differs = false) ∧
    (let s := (twoRaised 7 1 2).releaseHeld (.wg 0 0); s.raiseFull (.wg 0 0) (agetD {} s.me.e 1) = true ∧
      (agetD {} s.me.e 1).differs = true) ∧
    (let s := atW.releaseHeld (.wg 0 0); s.raiseFull (.wg 0 0) (agetD {} s.me.e 1) = false) := by decide +kernel

/-- R113: sum modulo 2^64; min under sint and uint; a uni that differs leaves the least value, marked. -/
theorem test_await :
    ran (exec (.await 1 1 0) (twoRaised 6 (BitVec.allOnes 64) 3)) (fun t => t.me.readReg .W 1 == 2 && !t.me.mark .W 1) ∧
    ran (exec (.await 1 1 0) (twoRaised 2 (BitVec.allOnes 64) 3)) (fun t => t.me.readReg .W 1 == BitVec.allOnes 64) ∧
    ran (exec (.await 1 1 0) (twoRaised 3 (BitVec.allOnes 64) 3)) (fun t => t.me.readReg .W 1 == 3) ∧
    ran (exec (.await 1 1 0) (twoRaised 7 4 3)) (fun t => t.me.readReg .W 1 == 3 && t.me.mark .W 1 &&
      t.me.nonuni == some { x0 := 3, x1 := 4, mask := 3, notX0 := 1 }) ∧
    ran (exec (.await 1 1 0) atW) (fun t => t.me.out.length == 1) := by decide +kernel

theorem test_combine_meets : ([1, 2] : List Word) ≠ [] := by decide

/-- A second group, which has not reached the barrier, beside the first. -/
def twoGroups : State := (atS.modGrid 0 fun g => { g with k := { g.k with groups := 2 } }).setGroup ⟨0, 0, 1⟩ {}

theorem test_barrier_meets : Legal (.bar 2) atS .S ∧
    (∀ m ∈ atS.barMembers atS.cur 2, m = atS.cur ∨ (atS.seq m).reached 2 0 = true) ∧ Legal (.bar 2) twoGroups .S ∧
    ¬∀ m ∈ twoGroups.barMembers twoGroups.cur 2, m = twoGroups.cur ∨ (twoGroups.seq m).reached 2 0 = true := by decide +kernel

theorem test_barrier : ran (exec (.bar 2) atS) (fun t => t.me.pc == 0x10004 && t.me.barCount == [(2, 1)]) ∧
    ran (exec (.bar 2) twoGroups) (fun t => t.me.pc == 0x10000 && t.me.barAt == some 2) := by decide +kernel

/-! ### Streams, windows, draw units and scalar memory -/

/-- The group of `atS` changed. -/
def onGroup (s : State) (f : Group → Group) : State := s.modGroup ⟨0, 0, 0⟩ f

/-- A lane block is queued. -/
def queued : State := onGroup atS fun y => { y with laneQ := [{}] }

/-- A store of the group has not performed. -/
def storing (s : State) : State := { s with pend := [{ src := ⟨0, 0⟩, grp := 0, pa := 0x10100, data := [1] }] }

theorem test_boundaries_meet : Legal .region atS .S ∧ Legal (.phase 5 1) atS .S ∧ Legal .seal atS .S ∧
    atS.drainedFor atS.cur = true ∧ queued.drainedFor queued.cur = false ∧ (atS.group (own atS)).reports = [] ∧
    atS.released ⟨0, 0⟩ 5 = true ∧ Legal (.phase 2 3) atH .H := by decide +kernel

theorem test_boundaries : ran (exec .region atS) (fun t => (t.group ⟨0, 0, 0⟩).rgn == 1 && t.me.pc == 0x10004) ∧
    ran (exec .region queued) (fun t => (t.group ⟨0, 0, 0⟩).rgn == 0 && t.me.run == .waiting) ∧
    ran (exec .region (onGroup atS fun y => { y with rgn := 0xFFFFFFFF })) (fun t => (t.group ⟨0, 0, 0⟩).rgn == 0) ∧
    ran (exec .seal atS) (fun t => (t.group ⟨0, 0, 0⟩).sealed == 1) ∧
    ran (exec (.phase 5 1) (storing atS)) (fun t => t.me.run == .waiting) ∧
    ran (exec (.phase 5 2) (storing atS)) (fun t => t.me.pc == 0x10004) := by decide +kernel

theorem test_hints_meet : Legal .nop atS .S ∧ Legal .yield atS .S ∧ Legal (.icp 4 2 255) atS .S ∧ Legal .nop atG .G := by
  decide +kernel

theorem test_hints : ran (exec (.icp 4 2 255) atS) (fun t => t == noEffect atS) := by decide +kernel

theorem test_run_meets : Legal (.run 255) atS .S ∧ Legal (.unbind 7) atS .S ∧ lvlOf atS.cur = some .S ∧
    (onGroup atS fun y => { y with laneQ := List.replicate 16 {} }).lead atS.cur = 16 := by decide +kernel

theorem test_run : ran (exec (.run 255) atS) (fun t => ((t.group ⟨0, 0, 0⟩).laneQ.map (·.off)) == [255]) ∧
    ran (exec (.run 256) atS) killed ∧
    ran (exec (.run 0) (onGroup atS fun y => { y with laneQ := List.replicate 16 {} })) (fun t => t.me.run == .waiting) := by
  decide +kernel

/-- s2 holds the address of the mapped page. -/
def addressed (s : State) : State := withReg s 2 0x10040

theorem test_bind_meets : Legal (.bind 7 2) (addressed atS) .S ∧ Legal (.bind 0 2) (withReg atS 2 0x200000000000000) .S ∧
    (let w := waitsAt (addressed atS) (.bind 7 2) [0x10040, 0]
     match (w.access (w.space atS.cur) 0x10040 .bindOnly).2 with
      | .ok _ => true
      | _ => false) = true := by decide +kernel

theorem test_bind : ran (exec (.bind 7 2) (addressed atS)) (fun t =>
      let w := agetD {} (t.group ⟨0, 0, 0⟩).win 7
      w.st == .bound && w.vbase == 0x10040 && w.perm == 7 && t.me.pc == 0x10004) ∧
    ran (exec (.bind 0 2) (withReg atS 2 0x200000000000000)) killed := by decide +kernel

/-- A grant of 100 units, 10 of them drawn. -/
def granted : State := (atW.modGrid 0 fun g => { g with dgrant := 100 }).modWg ⟨0, 0⟩ fun x => { x with drawn := 10 }

theorem test_draw_meets : Legal (.draw 100) granted .W ∧ Legal (.undraw 0) granted .W ∧
    ((granted.die 0).drawQ = [] ∧ ((100 : Nat) : Int) - 10 ≤ (granted.die 0).poolFree) := by decide +kernel

theorem test_draw : ran (exec (.draw 100) granted) (fun t => (t.wg ⟨0, 0⟩).drawn == 100 && (t.die 0).poolFree == 1510) ∧
    ran (exec (.draw 101) granted) killed ∧
    ran (exec (.undraw 4) granted) (fun t => (t.wg ⟨0, 0⟩).drawn == 4 && (t.die 0).poolFree == 1606) ∧
    ran (exec (.draw 60) (granted.modDie 0 fun d => { d with poolFree := 49 })) (fun t =>
      (t.wg ⟨0, 0⟩).drawn == 10 && (t.die 0).drawQ == [⟨0, 0⟩] && t.me.run == .waiting) := by decide +kernel

/-- The words of `plainMem` at every level of access. -/
theorem test_scalar_memory_meets : (∀ i ∈ ([.sld 1 2 0 3 0, .sst 3 2 0 2 0, .satom 1 2 0 0 0 0 1, .swaita 3 2 0 3 1 0] : List Instr),
      Legal i (addressed atS) .S ∧ (plainMem i).isSome ∧ (scalarShape i).isSome) ∧
    ((addressed atS).group (own (addressed atS))).scalarLog 0x10000 = none ∧
    (match ((addressed atS).reach atS.cur (scalarAddr 0x10040) 8 .atomic 0x10040) with
      | (s1, .ok t) => !s1.notifyHit t 8
      | _ => false) = true := by decide +kernel

/-- A scratchpad of 64 bytes. -/
def scratched (s : State) : State := s.modGrid 0 fun g => { g with k := { g.k with scratch := 64 } }

/-- The leaf of the mapped page, as the walk finds it, and the state whose caches hold it. -/
def leaf : Trans := { asid := 1, start := 0x10000, len := 0x10000, frame := 0x10000, perm := 7, trk := true }
def cachedAt (s : State) : State := { s with tlb := [(.block 0 0, [leaf]), (.front 0, [leaf])] }

/-- Each scalar memory word at a cached address and, the atomic too, in the scratchpad. -/
theorem test_scalar_complete_meets : (∀ a n : Nat, (a, n) ∈ [(0x10040, 8), (0x1FFF8, 8)] →
      Reaches (cachedAt (addressed atS)) (.group 0 0 0) n .atomic a
        ((cachedAt (addressed atS)).touch ((cachedAt (addressed atS)).space (.group 0 0 0)) leaf (leaf.pa a)) (.mem (leaf.pa a) true [])) ∧
    InScratch (scratched (addressed atS)) (.group 0 0 0) 60 4 .atomic ⟨0, 0⟩ 60 ∧
    homeFree (cachedAt (addressed atS)) ⟨0, 0, 0⟩ 8 (.mem 0x10040 true []) := by
  refine ⟨fun a n h => .memory a leaf ?_, ⟨by decide, by decide, by decide +kernel, .inr (by decide +kernel)⟩, ?_⟩
  · simp only [List.mem_cons, Prod.mk.injEq, List.not_mem_nil, or_false] at h
    obtain ⟨rfl, rfl⟩ | ⟨rfl, rfl⟩ := h <;>
      exact ⟨by decide, by decide, by decide +kernel, by decide +kernel, by decide +kernel, by decide, by decide +kernel,
        .inr (by decide +kernel)⟩
  · exact ⟨by unfold plainRun; decide +kernel, by unfold quiet; decide +kernel, by decide +kernel, by decide +kernel⟩

theorem test_scalar_memory :
    ran (exec (.sst 3 2 0 2 0) (addressed atS)) (fun t => t.memNat 0x10040 4 == 7 || t.pend != []) ∧
    ran (exec (.sld 1 2 0 0 0) ((addressed atS).writeMem 0x10040 [0x85, 0xFF])) (fun t => t.me.readReg .S 1 == 0x85) ∧
    ran (exec (.satom 1 2 0 0 0 0 0) (withReg ((addressed atS).writeMem 0x10040 [1]) 1 0xFFFFFFFF)) (fun t =>
      t.me.readReg .S 1 == 1 && t.memNat 0x10040 8 == 0) ∧
    ran (exec (.swaita 3 2 0 3 0 0) (addressed atS)) (fun t => t.me.out.length == 1) := by decide +kernel

/-- Each check of an access has an address that meets it. -/
theorem test_checks_meet :
    (∀ a ∈ ([0x200000000000000, 0xFFFFFFFF00000001, 0xFFFFFFFF00100000, 0x10041, 0x20000, 0x10040] : List Nat),
      Legal (.sld 1 2 0 3 0) (withReg atS 2 (BitVec.ofNat 64 a)) .S ∧
        ((withReg atS 2 (BitVec.ofNat 64 a)).me.sops .S (.sld 1 2 0 3 0)).addr = a) ∧
    atS.spTarget (atS.wgId atS.cur) (2 ^ 20) 8 = none ∧
    ((addressed atS).access ((addressed atS).space atS.cur) 0x20000 .read).2 = .fault .page := by decide +kernel

/-- The cause that the word at the pc takes, as the front end or the workgroup's record shows it. -/
def causes (i : Instr) (s : State) (c : Nat) : Bool :=
  let t := s.modWg ⟨0, 0⟩ fun x => { x with htab := cset 0 x.htab c (BitVec.ofNat 64 wordAt) }
  ran (exec i t) fun u => (u.wg ⟨0, 0⟩).hrun == some (s.cur, false) && (u.wg ⟨0, 0⟩).hcause.cause == c

theorem test_checks :
    causes (.sld 1 2 0 3 0) (withReg atS 2 0x200000000000000) 0x0A ∧ causes (.sld 1 2 0 3 0) (withReg atS 2 0x10041) 0x07 ∧
    causes (.sld 1 2 0 3 0) (withReg atS 2 0xFFFFFFFF00100000) 0x08 ∧
    causes (.sld 1 2 0 3 0) { addressed atS with watched := [0x10047] } 0x1B ∧
    causes (.sld 1 2 0 3 0) { addressed atS with poison := [0x10040 / 32] } 0x18 ∧
    ran (exec (.sld 1 2 0 3 0) (withReg atS 2 0x20000)) (fun t => t.holds.length == 1 && t.me.out.length == 1) := by
  decide +kernel

/-! ### Waits, tags, special registers, signals and the handler -/

/-- The core's workgroup changed. -/
def onWg (s : State) (f : Wg → Wg) : State := s.modWg ⟨0, 0⟩ f

/-- One batch sealed and not complete; tag 3 set; s2 = 8. -/
def waiting : State := onWg (onGroup (withReg atS 2 8) fun y => { y with sealed := 1, bounds := [5] }) fun x => { x with tags := 8 }

theorem test_waits_meet : (∀ i ∈ waitWords 0 1 2, Legal i waiting .S) ∧
    (let r : BitVec 6 → Word := fun f => waiting.me.readReg .S f.toNat
     waitMet waiting r (.waitb 1) ∧ ¬waitMet waiting r (.waitb 0) ∧ waitMet waiting r (.waitt 1 4) ∧
      ¬waitMet waiting r (.waitt 1 2) ∧ waitMet waiting r (.waitany 2) ∧ waitMet waiting r (.waitany 4) ∧
      ¬waitMet waiting r (.waitany 3) ∧ waitMet waiting r (.waitall 2) ∧ ¬waitMet waiting r (.waitall 3)) ∧
    (waiting.group (own waiting)).reports = [] := by
  refine ⟨by decide +kernel, ?_, by decide +kernel⟩
  simp only [waitMet]
  decide +kernel

theorem test_waits : ran (exec (.waitb 1) waiting) (fun t => t.me.pc == 0x10004) ∧
    ran (exec (.waitb 0) waiting) (fun t => t.me.run == .waiting && t.me.pc == 0x10000) ∧
    ran (exec (.waitall 2) waiting) (fun t => t.me.pc == 0x10004) := by decide +kernel

theorem test_tags_meet : Legal (.ffr 1 2) waiting .S ∧ Legal (.tagclr 2) waiting .S ∧ Legal (.rwmode 1) waiting .S ∧
    Legal .flushw waiting .S := by decide +kernel

theorem test_tags : ran (exec (.ffr 1 2) waiting) (fun t => t.me.readReg .S 1 == 3) ∧
    ran (exec (.ffr 1 4) waiting) (fun t => t.me.readReg .S 1 == 64) ∧
    ran (exec (.tagclr 2) waiting) (fun t => (t.wg ⟨0, 0⟩).tags == 0) ∧
    ran (exec (.rwmode 1) waiting) (fun t => !(t.group ⟨0, 0, 0⟩).perm) ∧
    ran (exec (.rwmode 1) (onGroup waiting fun y => { y with rwg := true })) (fun t => (t.group ⟨0, 0, 0⟩).perm) := by
  decide +kernel

theorem test_special_meet : Legal (.rdsr 1 0x031) atS .S ∧ atS.flagsBusy 0x031 = false ∧ queued.flagsBusy 0x031 = true ∧
    Legal (.rdsr 1 0x031) queued .S ∧ Legal (.wrsr 2 0x030) queued .S ∧
    ∀ n ∈ ([0x012, 0x030, 0x031] : List Nat), Legal (.wrsr 2 (BitVec.ofNat 10 n)) atS .S := by decide +kernel

theorem test_special_handler_meet :
    ∀ n ∈ ([0x013, 0x100, 0x101, 0x107] : List Nat), Legal (.wrsr 2 (BitVec.ofNat 10 n)) atH .H ∧ atH.flagsBusy n = false := by
  decide +kernel

/-- R37: GROUP, WGID and LANES of one workgroup of one group; R41: DRND above 4 stores 0. -/
theorem test_special : ran (exec (.rdsr 1 0x002) atS) (fun t => t.me.readReg .S 1 == 0x100000000) ∧
    ran (exec (.wrsr 2 0x031) atS) (fun t => (t.group ⟨0, 0, 0⟩).fflags == 5) ∧
    ran (exec (.wrsr 2 0x030) atS) (fun t => (t.group ⟨0, 0, 0⟩).fctl == 0) ∧
    ran (exec (.wrsr 2 0x031) queued) (fun t => t.me.run == .waiting) ∧
    ran (exec (.wrsr 2 0x100) (withReg atH 2 (BitVec.allOnes 64))) (fun t =>
      cget 0 (t.wg ⟨0, 0⟩).freg 0 == 0xFFFFFFFF000F07FF) := by decide +kernel

/-- The address of a SIGNAL is reached, its home is free and nothing there is poisoned. -/
def signalReaches (s : State) (i : Instr) (va : Nat) : Bool :=
  let w := waitsAt s i [BitVec.ofNat 64 va, 7]
  match w.access (w.space s.cur) va .atomic with
  | (s1, .ok tr) => s1.poisonAt (tr.pa va) 8 == none && ((s1.ordered (ctxOf s.cur) (.atomic (tr.pa va) (s1.wgId s.cur).w (s1.grpId s.cur).g)).bind fun u =>
      u.homeWrite? (u.writerOf s.cur) tr.trk (tr.pa va) (toBytes 8 7)).isSome
  | _ => false

theorem test_signal_meets : Legal (.signalAdd 2 3 5) (addressed atS) .S ∧ Legal (.signalSet 2 3 6) atG .G ∧
    ((waitsAt (addressed atS) (.signalAdd 2 3 5)).allDone atS.cur = true) ∧
    ((waitsAt (storing (addressed atS)) (.signalAdd 2 3 5)).allDone atS.cur = false) ∧
    signalReaches (addressed atS) (.signalAdd 2 3 5) 0x10040 := by decide +kernel

theorem test_signal : ran (exec (.signalAdd 2 3 5) ((addressed atS).writeMem 0x10040 (List.replicate 8 0xFF))) (fun t =>
      t.memNat 0x10040 8 == 6 && t.me.pc == 0x10004) ∧
    ran (exec (.signalSet 2 3 5) (addressed atS)) (fun t => t.memNat 0x10040 8 == 7) ∧
    causes (.signalSet 2 3 5) (withReg atS 2 0x10044) 0x07 ∧ causes (.signalSet 2 3 5) (withReg atS 2 0x200000000000000) 0x0A ∧
    ran (exec (.signalSet 2 3 5) (storing (addressed atS))) (fun t => t.me.run == .waiting) := by decide +kernel

/-- The handler of group 0 with its stream stopped at a word; s2 = 0 names the group, s3 = 1 no group. -/
def handling : State := (withReg (withReg atH 2 0) 3 1).modSeq (.group 0 0 0) fun q =>
  { q with pc := 0x10020, run := .stopped, prior := .running, s := [(5, 77)] }

theorem test_handler_words_meet : Legal (.gstate 1 2 5) handling .H ∧ Legal (.gset 3 2 5) handling .H ∧
    Legal (.resumePr 3) handling .H ∧ Legal (.resumeRg 3) handling .H ∧ Legal (.resumePr 2) handling .H ∧
    Legal (.resumeRg 2) handling .H ∧ Legal .abort handling .H ∧ Legal (.fctl 2) handling .H ∧ Legal (.rules 2) handling .H := by
  decide +kernel

theorem test_handler_words : ran (exec (.gstate 1 2 5) handling) (fun t => t.me.readReg .H 1 == 77) ∧
    ran (exec (.gstate 1 3 5) handling) (fun t => t.me.readReg .H 1 == 0) ∧
    ran (exec (.gset 3 2 5) handling) (fun t => (t.seq (.group 0 0 0)).readReg .S 5 == 1) ∧
    ran (exec .abort handling) killed ∧
    ran (exec (.fctl 4) (withReg handling 4 3)) (fun t => (t.group ⟨0, 0, 0⟩).fctl == 3) := by decide +kernel

theorem test_resume_meets : Handles handling ⟨0, 0, 0⟩ (.group 0 0 0) where
  run_eq := by decide +kernel
  none_waits := by decide +kernel
  slot_eq := by decide +kernel
  stream := ⟨(fun _ _ h => nomatch h), (fun _ h => nomatch h), by decide +kernel⟩
  stopped := by decide +kernel
  slot_stopped := by decide +kernel

theorem test_trap_resume_meets : let s := onWg handling fun x => { x with hcause := { cause := 0x17 } }
    Handles s ⟨0, 0, 0⟩ (.group 0 0 0) ∧ (s.wg ⟨0, 0⟩).hcause.cause = 0x17 :=
  ⟨⟨by decide +kernel, by decide +kernel, by decide +kernel, ⟨(fun _ _ h => nomatch h), (fun _ h => nomatch h), by decide +kernel⟩,
    by decide +kernel, by decide +kernel⟩, by decide +kernel⟩

/-- R310: the stream goes on at its word, and after TRAP (cause 0x17) at the next one. -/
theorem test_resume : ran (exec (.resumePr 2) handling) (fun t => (t.seq (.group 0 0 0)).pc == 0x10020 &&
      (t.seq (.group 0 0 0)).run == .running && (t.wg ⟨0, 0⟩).hrun == none) ∧
    ran (exec (.resumePr 2) (onWg handling fun x => { x with hcause := { cause := 0x17 } })) (fun t =>
      (t.seq (.group 0 0 0)).pc == 0x10024) ∧
    ran (exec (.resumeRg 2) (onGroup handling fun y => { y with regionPc := 0x10008 })) (fun t =>
      (t.seq (.group 0 0 0)).pc == 0x10008) := by decide +kernel

/-- A rule image at 0x10040: version 1 and `n` entries. -/
def imaged (n : Nat) : State := (withReg atH 2 0x10040).writeMem 0x10040 (toBytes 16 (1 + n * 2 ^ 16))

theorem test_rules_meet : Legal (.rules 2) (imaged 0) .H ∧
    (match (imaged 0).readChunks 0x10040 1 with
      | (s1, .ok [h]) => !ruleHeadBad h && bits h 23 16 == 0 && (match s1.readChunks 0x10050 0 with | (_, .ok []) => true | _ => false)
      | _ => false) = true ∧
    (match (imaged 65).readChunks 0x10040 1 with
      | (_, .ok [h]) => ruleHeadBad h
      | _ => false) = true := by decide +kernel

theorem test_rules : ran (exec (.rules 2) (onWg (imaged 0) fun x => { x with rules := [1] })) (fun t =>
      (t.wg ⟨0, 0⟩).rules == [] && t.me.pc == 0x10004) ∧
    ran (exec (.rules 2) (imaged 65)) killed ∧ ran (exec (.rules 2) (withReg atH 2 0x10041)) killed := by decide +kernel

/-! ### Exceptions -/

theorem test_illegal_meets : encodeControl (.shli 1 2 64) ≠ 0 ∧ laneCode (.shli 1 2 64) = none ∧ lvlOf atS.cur = some .S ∧
    ctlCheck .S (encodeControl (.shli 1 2 64)) = some (.illenc 0 8) ∧
    ctlCheck .S (encodeControl (.abort)) = some .priv ∧ ctlCheck .P (encodeControl (.raise 0 1 0 0)) = some .scopeClass ∧
    laneCode (.laneAdd { vc := 1 }) = some (0, 1, { vc := 1 }) ∧
    laneCheck 128 0 1 { vc := 1 } = some (.illenc 1 3) := by decide +kernel

theorem test_illegal : causes (.shli 1 2 64) atS 0x01 ∧ causes .abort atS 0x02 := by decide +kernel

theorem test_trap_meets : Legal (.trap 0xFFFFF) atS .S ∧ Legal (.trap 0) atG .G ∧ lvlOf atW.cur = some .W := by decide +kernel

theorem test_trap : causes (.trap 7) atS 0x17 ∧
    ran (exec (.trap 7) (onWg atS fun x => { x with htab := [(0, 0x10000), (0x17, 0x10010)] })) (fun t =>
      (t.seq (.handler 0 0)).pc == 0x10010 && (t.seq (.handler 0 0)).readReg .H 2 == 0x117 &&
        cget 0 (t.wg ⟨0, 0⟩).freg 2 == 7 && cget 0 (t.wg ⟨0, 0⟩).freg 1 == 0x10000) := by decide +kernel

/-- A handler for PROT. -/
def armed : State := onWg atS fun x => { x with htab := [(0, 0x10000), (0x0A, 0x1FFFC)] }

theorem test_entry_meets : (armed.wg (armed.wgId armed.cur)).hrun = none ∧
    (armed.wg (armed.wgId armed.cur)).handlerFor 0x0A = some 0x1FFFC ∧
    (onWg armed fun x => { x with htab := [(0, 0x10000), (0x0A, 0x20000)] }).wg ⟨0, 0⟩ ≠ armed.wg ⟨0, 0⟩ ∧
    ((onWg armed fun x => { x with htab := [(0, 0x10000), (0x0A, 0x20000)] }).wg ⟨0, 0⟩).handlerFor 0x0A = none := by
  decide +kernel

theorem test_other_faults_meet : (atH.wg (atH.wgId (.group 0 0 0))).hrun ≠ none ∧ (atS.wg (atS.wgId atS.cur)).hrun = none ∧
    (atS.wg (atS.wgId atS.cur)).handlerFor 0x0A = none ∧ (∀ c, (.group 0 0 0 : Agent) ≠ .grid c) ∧
    (∀ c v, (.group 0 0 0 : Agent) ≠ .handler c v) := by
  exact ⟨by decide +kernel, by decide +kernel, by decide +kernel, nofun, nofun⟩

theorem test_other_faults : ((atH.takeFault (.group 0 0 0) { cause := 0x0A }).wg ⟨0, 0⟩).hwait =
      [(.group 0 0 0, { cause := 0x0A }, none)] ∧
    killed (atS.takeFault (.group 0 0 0) { cause := 0x0A }) ∧ killed (atH.takeFault (.handler 0 0) { cause := 0x0A }) ∧
    ((atG.takeFault (.grid 0) { cause := 0x12 }).grid 0).scriptStop := by decide +kernel

/-! ### Steps and memory -/

/-- A control word placed for the next step, and the state and fetch of its turn. -/
def placed : State := State.reset.withFetchWord 32 0x04508300
def placedTurn : State := { placed with plan := [], clock := 1 }
def placedRun : State := { placedTurn.notFresh (.group 0 0 0) with cur := .group 0 0 0, stalled := false }

theorem test_step_control_meets : NextTurn placed (.word (.group 0 0 0)) placedTurn ∧ placedTurn.ready (.group 0 0 0) = true ∧
    lvlOf (.group 0 0 0) = some .S ∧ placedTurn.inSection (.group 0 0 0) 0x10000 = true ∧
    (match placedRun.fetch (.group 0 0 0) 0x10000 1 with
      | .ok (s1, n) =>
        n == 0x04508300 && ctlCheck .S n == none && (s1.seq (.group 0 0 0)).out == [] && s1.outs (.group 0 0 0) == [] &&
        decide (gateOf (s1.seq (.group 0 0 0)).out (ctlRefs .S (.add 5 2 3)).1 (ctlRefs .S (.add 5 2 3)).2
          (s1.ctlBytes (.group 0 0 0) .S (.add 5 2 3)) (s1.seq (s1.ownOf (.group 0 0 0))).dbg = .go) &&
        !s1.ctlLogFull (.group 0 0 0) (.add 5 2 3) && !endsBlock (.add 5 2 3) && !(placedTurn.seq (.group 0 0 0)).out.any (·.left == 0) &&
        s1.violOf (.group 0 0 0) (s1.seq (.group 0 0 0)).pc == none
      | _ => false) = true := by
  refine ⟨?_, by decide +kernel, rfl, by decide +kernel, by decide +kernel⟩
  unfold NextTurn
  decide +kernel

/-- A lane word: LANEID v1. -/
def lanePlaced : State := State.reset.withFetchWord 96 (0x43 + 2 ^ 16 + 6 * 2 ^ 46)
def laneTurn : State := { lanePlaced with plan := [], clock := 1 }
def laneRun : State := { laneTurn with cur := .lane 0 0 0 0, stalled := false }

theorem test_step_lane_meets : NextTurn lanePlaced (.word (.lane 0 0 0 0)) laneTurn ∧ laneTurn.ready (.lane 0 0 0 0) = true ∧
    laneTurn.inSection (.lane 0 0 0 0) 0x10000 = true ∧
    decode (toBytes 12 (0x43 + 2 ^ 16 + 6 * 2 ^ 46)) = .ok (.laneid { vd := 1, ty := 6 }) ∧
    laneCode (.laneid { vd := 1, ty := 6 }) = some (0, 0x43, { vd := 1, ty := 6 }) ∧ converges 0 0x43 = false ∧
    (match laneRun.fetch (.lane 0 0 0 0) 0x10000 3 with
      | .ok (s1, n) =>
        n == 0x43 + 2 ^ 16 + 6 * 2 ^ 46 && s1.group ⟨0, 0, 0⟩ == laneTurn.group ⟨0, 0, 0⟩ &&
        (match (s1.group ⟨0, 0, 0⟩).frag 0 with
          | some x => x.fid == 0 && x.out == [] && x.st == .runnable && x.pc == 0x10000
          | none => false) && (s1.group ⟨0, 0, 0⟩).log == [] && (s1.group ⟨0, 0, 0⟩).unretired == [] &&
        s1.violOf (.lane 0 0 0 0) 0x10000 == none && !s1.releaseWaits ⟨0, 0, 0⟩ (.laneid { vd := 1, ty := 6 }) &&
        !flushWord (s1.wg ⟨0, 0⟩).rules (laneEnvOf s1 ⟨0, 0, 0⟩ {} { vd := 1, ty := 6 }) (.laneid { vd := 1, ty := 6 }) 0 0x43 &&
        (s1.picked ⟨0, 0, 0⟩ 0).isSome
      | _ => false) = true := by
  refine ⟨?_, by decide +kernel, by decide +kernel, by decide +kernel, by decide +kernel, by decide, by decide +kernel⟩
  unfold NextTurn
  decide +kernel

theorem test_step_event_meets : NextTurn { State.reset with plan := [.event .wake] } (.event .wake) { State.reset with clock := 1 } := by
  unfold NextTurn
  decide +kernel

theorem test_steps : ran (step placed) (fun t => (t.seq (.group 0 0 0)).pc == 0x10004) ∧
    ran (step lanePlaced) (fun t => (t.group ⟨0, 0, 0⟩).vreg 1 31 == 31) ∧
    (match step { State.reset with trust := { State.reset.trust with bootStopped := true } } with
      | .fault .bootStopped => true
      | _ => false) = true ∧
    ran (step { State.reset with trust := { State.reset.trust with bootStopped := true }, plan := [.event (.wakeWrite 0 0 8 0)] })
      (fun t => t.fe.wakes == [] && t.plan == []) := by decide +kernel

theorem test_decoded_word_meets : decode (toBytes 4 0x04508300) = .ok (.add 5 2 3) := by decide +kernel

theorem test_invariant_meets : Inv placed ∧ Inv State.reset := by
  unfold Inv
  decide +kernel

/-- Group 0 of the resident workgroup has read the line of 0x10000 in its phase. -/
def inPhase : State := { atS with dir := [(0x10000 / 128, { st := .s, l1 := [(⟨0, 0, 0⟩, [0])] })] }

theorem test_snapshot_meets : inPhase.residentOn (inPhase.wg ⟨0, 0⟩).core = some ⟨0, 0⟩ ∧
    0 ∈ (inPhase.dirEnt (lineOf 0x10000)).bitsOf (inPhase.wg ⟨0, 0⟩).core ∧
    (0x1007C : Nat) / 128 = (0x1007C + 4 - 1) / 128 := by decide +kernel

theorem test_snapshot :
    ((inPhase.invalidate ⟨0, 0, 0⟩ (0x10000 / 128)).writeMem 0x10000 [9]).grpByte ⟨0, 0, 0⟩ 0x10000 = 0 ∧
    (((inPhase.invalidate ⟨0, 0, 0⟩ (0x10000 / 128)).writeMem 0x10000 [9]).acquire ⟨0, 0, 0⟩ 6).grpByte ⟨0, 0, 0⟩ 0x10000 = 9 := by
  decide +kernel

/-! ### Lane words -/

/-- Lane values of v2 and v4, and a mask. -/
def laneGroup : Group :=
  { blk := some {}, frags := [{ fid := 0, lanes := 0xFFFFFFFF, pc := wordAt }], slots := [0], nextId := 1,
    v := [(64, 0x7FFFFFFF), (65, 3), (128, 1), (129, 0xFFFFFFFF)], q := [(1, 0x00000003), (2, 0x80000001)] }

/-- A fragment of all lanes at its word; the scalar registers are those of `atS`. -/
def atL : State := { (atS.setGroup ⟨0, 0, 0⟩ laneGroup) with cur := .lane 0 0 0 0 }

/-- What fragment 0 sees. -/
def envOf (s : State) (w : LaneW) : LaneEnv :=
  let y := s.group ⟨0, 0, 0⟩
  let x := (y.frag 0).getD {}
  { g := ⟨0, 0, 0⟩, f := 0, y := y, x := x, stream := s.seq (.group 0 0 0)
    act := (List.range 32).filter fun j => x.lanes.getLsbD j && ((y.mask w.guard.toNat).getLsbD j == !w.gneg) }

/-- A register that is not in error. -/
def refClean (e : LaneEnv) : RegRef → Bool
  | .s n => !e.stream.badRegs.contains n
  | .q n => !e.y.badQ.contains n
  | .v n => !e.y.badV.contains n
  | _ => true

/-- The conditions of `LaneLegal`, evaluated. -/
def laneOk (i : Instr) (w : LaneW) (s : State) : Bool :=
  s.cur == .lane 0 0 0 0 && ((s.group ⟨0, 0, 0⟩).frag 0).isSome &&
    match laneCode i with
    | some (c, o, v) => v == w && laneCheck (s.grid 0).k.vregs c o w == none && (laneRefs c o w).1.all (refClean (envOf s w))
    | none => true

theorem laneLegal_of {i : Instr} {w : LaneW} {s : State} (h : laneOk i w s = true) : LaneLegal i w s (envOf s w) := by
  unfold laneOk at h
  simp only [Bool.and_eq_true, beq_iff_eq] at h
  obtain ⟨⟨h1, h2⟩, h3⟩ := h
  obtain ⟨x, hx⟩ := Option.isSome_iff_exists.1 h2
  refine ⟨h1, rfl, by simp [envOf, hx], rfl, ⟨List.Pairwise.filter _ List.pairwise_lt_range, fun j => ?_⟩, ?_, ?_⟩
  · simp only [envOf, LaneActs, List.mem_filter, List.mem_range, Bool.and_eq_true, beq_iff_eq]
    constructor
    · exact fun h => h.2
    · intro h
      refine ⟨Nat.lt_of_not_le fun hj => ?_, h⟩
      rw [BitVec.getLsbD_of_ge _ _ hj] at h
      exact absurd h.1 (by decide)
  · intro c o v hc
    rw [hc] at h3
    simp only [Bool.and_eq_true, beq_iff_eq] at h3
    exact ⟨h3.1.1, h3.1.2⟩
  · intro c o v hc r hr
    rw [hc] at h3
    simp only [Bool.and_eq_true, beq_iff_eq, List.all_eq_true] at h3
    have h4 := h3.2 r hr
    cases r <;> first | trivial | (simp [refClean] at h4; exact h4)

/-- Forms of a lane word: two or three registers, one, an immediate, a scalar, by type. -/
def forms : List LaneW :=
  [{ va := 2, vb := 4, vd := 6, ty := 6 }, { vb := 4, vd := 6, ty := 6 }, { va := 2, vb := 4, vc := 2, vd := 6, ty := 6 },
   { va := 2, vb := 4, vd := 6, ty := 13 }, { vb := 4, vd := 6, ty := 13 }, { va := 2, vb := 4, vc := 2, vd := 6, ty := 13 },
   { vb := 2, bsc := true, vd := 6, ty := 6 }, { vd := 6, ty := 6 }, { va := 2, vb := 4, vd := 6, ty := 10 },
   { vb := 4, vd := 6, ty := 10 }, { va := 2, vb := 4, vc := 2, vd := 6, ty := 10 }, { va := 2, vb := 4, vd := 3, ty := 6 },
   { vb := 4, vd := 6, ty := 6, fmt := 4 }, { va := 2, vb := 4, vd := 6, ty := 5 }, { va := 2, vb := 1, vd := 3 },
   { va := 1, vb := 2, vd := 3 }, { vb := 2, vd := 3 }, { vb := 2, vd := 6, ty := 6 }, { vb := 1, vd := 6 },
   { vb := 1, vd := 6, mod := 2 }, { vb := 1, vd := 3, mod := 0 }, { vb := 4, vd := 6, ty := 10, fmt := 10 },
   { va := 2, vb := 4, vc := 1, vd := 6, ty := 6 }, { vd := 6 }, { va := 2, vb := 4, vd := 3, ty := 10 },
   { vb := 4, vd := 6, ty := 14 }, { vd := 6, ty := 14, p2 := 5 }, { vb := 2, bsc := true, vd := 6, ty := 14 },
   { va := 2, vb := 4, vd := 6, ty := 14 }]

/-- A word of a list at some form that is legal at `atL`. -/
def someForm (n : Nat) (words : LaneW → List Instr) : Bool :=
  (List.range n).all fun k => forms.any fun w => match (words w)[k]? with
    | some i => laneOk i w atL
    | none => false

theorem test_lane_words_meet : someForm 27 (fun w => (integerWords w).map (·.1)) = true ∧
    someForm 19 (fun w => (floatWords w).map (·.1)) = true ∧
    someForm 14 (fun w => (moveWords w (envOf atL w) ++ packWords w (envOf atL w) {}).map (·.1)) = true ∧
    someForm 7 (fun w => (maskWords w (envOf atL w)).map (·.1)) = true ∧
    laneOk (.vote { vb := 1, vd := 6, mod := 2 }) { vb := 1, vd := 6, mod := 2 } atL = true ∧
    laneOk (.vote { vb := 1, vd := 3, mod := 1 }) { vb := 1, vd := 3, mod := 1 } atL = true ∧
    laneOk (.laneSel { va := 2, vb := 4, vc := 1, vd := 6, ty := 6 }) { va := 2, vb := 4, vc := 1, vd := 6, ty := 6 } atL = true := by
  decide +kernel

/-- Register `r` of lane `j` after `i`. -/
def laneGives (i : Instr) (s : State) (r j v : Nat) : Bool := ran (exec i s) fun t => (t.group ⟨0, 0, 0⟩).vreg r j == BitVec.ofNat 32 v

/-- R149: addition wraps, saturating addition does not; MULH of unsigned; guards leave other lanes. -/
theorem test_lane_arithmetic :
    laneGives (.laneAdd { va := 2, vb := 4, vd := 6, ty := 6 }) atL 6 0 0x80000000 ∧
    laneGives (.adds { va := 2, vb := 4, vd := 6, ty := 2 }) atL 6 0 0x7FFFFFFF ∧
    laneGives (.mulh { va := 2, vb := 4, vd := 6, ty := 6 }) atL 6 1 2 ∧
    laneGives (.laneAdd { va := 2, vb := 4, vd := 2, ty := 6, guard := 1, gneg := true }) atL 2 0 0x7FFFFFFF ∧
    laneGives (.div { va := 2, vb := 4, vd := 6, ty := 2 }) atL 6 1 0xFFFFFFFD ∧
    laneGives (.laneSar { va := 4, vb := 2, vd := 6, ty := 2 }) atL 6 1 0xFFFFFFFF ∧
    laneGives (.clz { vb := 4, vd := 6, ty := 6 }) atL 6 0 31 ∧
    laneGives (.laneid { vd := 6, ty := 6 }) atL 6 31 31 ∧
    laneGives (.qpop { vb := 2, vd := 6 }) atL 6 5 2 ∧
    laneGives (.laneMovi { vd := 6, ty := 14, p2 := 0xABCD1234 }) atL 6 31 0xABCD1234 := by decide +kernel

/-- Lanes of v2 and v4 as f32: 1.0 and 3.0; infinities of two signs; a quiet NaN. -/
def floats : State := onGroup atL fun y => { y with v := [(64, 0x3F800000), (65, 0x7F800000), (66, 0x7F800001), (128, 0x40400000), (129, 0xFF800000)] }

/-- R153, R154: 1 + 3 = 4; 1 / 3 rounds to nearest even and ∞ − ∞ is the default NaN with NV (R42 bit 0). -/
theorem test_lane_float :
    laneGives (.fadd { va := 2, vb := 4, vd := 6, ty := 10 }) floats 6 0 0x40800000 ∧
    laneGives (.fdiv { va := 2, vb := 4, vd := 6, ty := 10 }) floats 6 0 0x3EAAAAAB ∧
    laneGives (.fadd { va := 2, vb := 4, vd := 6, ty := 10 }) floats 6 1 0x7FC00000 ∧
    laneGives (.fma { va := 2, vc := 4, vb := 4, vd := 6, ty := 10 }) floats 6 0 0x40C00000 ∧
    ran (exec (.fadd { va := 2, vb := 4, vd := 6, ty := 10 }) floats) (fun t => (t.group ⟨0, 0, 0⟩).fflags == 1) ∧
    laneGives (.cvt { vb := 4, vd := 6, ty := 10, fmt := 2 }) floats 6 0 3 := by decide +kernel

theorem test_lane_masks :
    ran (exec (.laneCmp { va := 2, vb := 4, vd := 3, ty := 2, mod := 2 }) atL) (fun t => (t.group ⟨0, 0, 0⟩).mask 3 == 0) ∧
    ran (exec (.laneCmp { va := 2, vb := 4, vd := 3, ty := 6, mod := 2 }) atL) (fun t => (t.group ⟨0, 0, 0⟩).mask 3 == 2) ∧
    ran (exec (.qxor { va := 1, vb := 2, vd := 3 }) atL) (fun t => (t.group ⟨0, 0, 0⟩).mask 3 == 0x80000002) ∧
    ran (exec (.vote { vb := 1, vd := 3, mod := 1, guard := 1 }) atL) (fun t => (t.group ⟨0, 0, 0⟩).mask 3 == 3) := by
  decide +kernel

/-! ### Fragments and lane memory -/

/-- Two fragments under level 5, whose join is at 0x10060: fragment 0 holds lanes 0 to 15, fragment 1 the others and waits. -/
def split : State := onGroup atL fun y => { y with
  frags := [{ fid := 0, lanes := 0x0000FFFF, pc := 0x10054, level := some 5 },
            { fid := 1, lanes := 0xFFFF0000, pc := 0x10060, level := some 5, st := .waiting }]
  levels := [{ lid := 5, join := 0x10060, lanes := 0xFFFFFFFF, arrived := 0xFFFF0000 }]
  nextId := 6 }

/-- The same without the second fragment, whose lanes have not arrived. -/
def half (lanes : W32) : State := onGroup split fun y => { y with
  frags := y.frags.take 1, levels := y.levels.map fun z => { z with lanes := lanes, arrived := 0 } }

theorem test_join_meets : ((split.group ⟨0, 0, 0⟩).frag 0).map (·.level) = some (some 5) ∧
    ((split.group ⟨0, 0, 0⟩).level 5).map (·.join) = some 0x10060 ∧
    ((split.group ⟨0, 0, 0⟩).frag 1).map (·.st) = some .waiting ∧
    (∀ v ∈ (split.group ⟨0, 0, 0⟩).frags, v.fid ≠ 0 → v.level = some 5 → v.st = .waiting → v.fid = 1) ∧
    (∀ z ∈ ((half 0xFFFFFFFF).group ⟨0, 0, 0⟩).frags, z.fid ≠ 0 → z.level = some 5 → z.st ≠ .waiting) ∧
    (∀ z ∈ ((half 0x0000FFFF).group ⟨0, 0, 0⟩).frags, z.fid ≠ 0 → z.level = some 5 → z.st ≠ .waiting) := by decide +kernel

theorem test_join : (let y := (split.goTo ⟨0, 0, 0⟩ 0 0x10060).group ⟨0, 0, 0⟩
      y.frags.length = 1 ∧ (y.frag 1).map (·.lanes) = some 0xFFFFFFFF ∧ y.levels = []) ∧
    ((((half 0xFFFFFFFF).goTo ⟨0, 0, 0⟩ 0 0x10060).group ⟨0, 0, 0⟩).frag 0).map (·.st) = some .waiting ∧
    ((((half 0x0000FFFF).goTo ⟨0, 0, 0⟩ 0 0x10060).group ⟨0, 0, 0⟩).frag 0).map (·.level) = some none ∧
    (((split.goTo ⟨0, 0, 0⟩ 0 0x1006C).group ⟨0, 0, 0⟩).frag 0).map (·.pc) = some 0x1006C := by decide +kernel

/-- BR.ln q1 to two lane words on, joining at three. -/
def branch : LaneW := { va := 1, p2 := 0x00030002 }

theorem test_branch_ln_meets : laneOk (.brLn branch) branch atL = true ∧ laneOk (.join {}) {} split = true ∧
    laneOk (.lend {}) {} atL = true ∧ laneOk (.lend {}) {} split = true ∧ atL.reportOpen ⟨0, 0, 0⟩ = false ∧
    laneOk (.brLn { va := 1, p2 := 0x0003FFFF }) { va := 1, p2 := 0x0003FFFF } atL = true ∧
    laneAway 0x10000 (-1) = 0xFFF4 ∧ atL.inSection atL.cur 0xFFF4 = false ∧ atL.inSection atL.cur 0x10018 = true ∧
    (onWg atL fun x => { x with hrun := some (.group 0 0 0, true) }).reportOpen ⟨0, 0, 0⟩ = true := by decide +kernel

theorem test_branch_ln : ran (exec (.brLn branch) atL) (fun t => let y := t.group ⟨0, 0, 0⟩
      (y.frags.map fun x => (x.lanes, x.pc)) == [(0xFFFFFFFC, 0x1000C), (0x00000003, 0x10018)] &&
        (y.levels.map (·.join)) == [0x10024]) ∧
    ran (exec (.brLn { va := 1, p2 := 0x0003FFFF }) atL) killed ∧
    ran (exec (.lend {}) atL) (fun t => (t.group ⟨0, 0, 0⟩).blk == none) ∧ ran (exec (.lend {}) split) killed ∧
    ran (exec (.join {}) split) (fun t => (t.group ⟨0, 0, 0⟩).levels == []) := by decide +kernel

theorem test_lane_raise_meets : laneOk (.laneRaise { vb := 4, vd := 1, mod := 6, ty := 14 }) { vb := 4, vd := 1, mod := 6, ty := 14 } atL = true ∧
    (agetD {} (atL.seq (.group 0 0 0)).e 1).mask = [] ∧
    (agetD {} ((atL.modSeq (.group 0 0 0) fun q => { q with e := [(1, { mask := [0] })] }).seq (.group 0 0 0)).e 1).mask ≠ [] := by
  decide +kernel

theorem test_lane_raise : ran (exec (.laneRaise { vb := 4, vd := 1, mod := 6, ty := 14, guard := 1 }) atL) (fun t =>
      (agetD {} (t.seq (.group 0 0 0)).e 1).vals == [(0, 1, false), (1, 0xFFFFFFFFFFFFFFFF, false)] &&
        ((t.group ⟨0, 0, 0⟩).frag 0).map (·.pc) == some 0x1000C) ∧
    ran (exec (.laneRaise { vb := 4, vd := 1, mod := 6, ty := 14 })
      (atL.modSeq (.group 0 0 0) fun q => { q with e := [(1, { mask := [0] })] })) (fun t => t.stalled) := by decide +kernel

/-- s2 is 0x10040, or an address of the scratchpad; the offsets of lanes 0 and 1 are `a` and `b`. -/
def offsets (a b : W32) : State :=
  onGroup (atL.modSeq (.group 0 0 0) fun q => { q with s := [(2, 0x10040)] }) fun y => { y with v := [(32, a), (33, b), (64, 7), (65, 9)] }

/-- A memory word of the two lanes of q1, by scalar base and by scratchpad. -/
def byBase (m : BitVec 4) : LaneW := { va := 1, vb := 2, bsc := true, mod := 1 + m, ty := 6, guard := 1 }
def byScratch (m : BitVec 4) : LaneW := { va := 1, mod := 2 + m, ty := 6, guard := 1 }

theorem test_lane_memory_meets :
    laneOk (.ld { byBase 0 with vd := 3 }) { byBase 0 with vd := 3 } (offsets 0 4) = true ∧
    laneOk (.st { byBase 8 with vc := 2 }) { byBase 8 with vc := 2 } (offsets 0 4) = true ∧
    laneOk (.lds { byScratch 4 with vd := 3 }) { byScratch 4 with vd := 3 } (scratched (offsets 0 60)) = true ∧
    laneOk (.sts { byScratch 0 with vc := 2 }) { byScratch 0 with vc := 2 } (scratched (offsets 0 60)) = true ∧
    laneOk (.atom { byBase 12 with vc := 2, vd := 3 }) { byBase 12 with vc := 2, vd := 3 } (offsets 0 0) = true ∧
    laneOk (.atoms { byScratch 0 with vc := 2, vd := 3 }) { byScratch 0 with vc := 2, vd := 3 } (scratched (offsets 0 0)) = true ∧
    laneOk (.prf { byBase 0 with ty := 0 }) { byBase 0 with ty := 0 } (offsets 0 4) = true ∧
    (let e := envOf (offsets 0 4) (byBase 0)
     let r := ((offsets 0 4).laneChecks (offsets 0 4).cur (byBase 0) (e.y.window 0) 4 .atomic (e.act.map fun j => (j, e.lops 1 (byBase 0) j)))
     r.2.bad == [] && r.2.page == [] && !r.2.wait && r.2.ok.length == 2 &&
       r.2.ok.all fun x => !(offsets 0 4).notifyHit x.2 4) = true := by decide +kernel

theorem test_lane_memory :
    ran (exec (.ld { byBase 0 with vd := 3 }) ((offsets 0 4).writeMem 0x10040 [1, 0, 0, 0, 2])) (fun t =>
      (t.group ⟨0, 0, 0⟩).vreg 3 0 == 1 && (t.group ⟨0, 0, 0⟩).vreg 3 1 == 2) ∧
    ran (exec (.sts { byScratch 0 with vc := 2 }) (scratched (offsets 0 60))) (fun t =>
      t.spBytes ⟨0, 0⟩ 60 4 == [9, 0, 0, 0] && t.spBytes ⟨0, 0⟩ 0 1 == [7]) ∧
    ran (exec (.atom { byBase 0 with vc := 2, vd := 3 }) (offsets 0 0)) (fun t =>
      (t.group ⟨0, 0, 0⟩).vreg 3 0 == 0 && (t.group ⟨0, 0, 0⟩).vreg 3 1 == 7 && t.memNat 0x10040 4 == 16) ∧
    ran (exec (.lds { byScratch 0 with vd := 3 }) (scratched (offsets 0 64))) killed := by decide +kernel

/-- Lane 1 reads a page that is not mapped. -/
theorem test_lane_page_meets : (let e := envOf (offsets 0 0x10000) (byBase 0)
     let r := ((offsets 0 0x10000).laneChecks atL.cur (byBase 0) (e.y.window 0) 4 .read (e.act.map fun j => (j, e.lops 1 (byBase 0) j))).2
     r.bad == [] && r.page == [(1, 0x20040)] && (r.ok.map Prod.fst) == [0] && !r.wait) = true ∧
    (∀ v ∈ ((offsets 0 0x10000).group ⟨0, 0, 0⟩).frags, v.fid < 1) ∧
    laneOk (.ld { byBase 0 with vd := 3 }) { byBase 0 with vd := 3 } (offsets 0 0x10000) = true := by decide +kernel

theorem test_lane_page : ran (exec (.ld { byBase 0 with vd := 3 }) (offsets 0 0x10000)) (fun t =>
      ((t.group ⟨0, 0, 0⟩).frags.map fun x => (x.lanes, x.pc, x.st)) ==
        [(0xFFFFFFFD, 0x1000C, .runnable), (0x00000002, 0x10000, .asleep)] && t.holds.length == 1) := by decide +kernel

/-! ### Tiles and the matrix window -/

/-- A shape record (R218): format, rows and columns, unit column stride, row stride 64. -/
def shapeOf (fmt rows cols : Nat) : Nat := fmt * 2 ^ 105 + cols * 2 ^ 96 + rows * 2 ^ 88 + 2 ^ 64 + 64 * 2 ^ 32

/-- Group 0 holds slots 0 and 1 and tile 0; slot 0 is 1 by 2 of f16, [1, 2]; bank 0 holds 2 rows of 64 ones. -/
def tiled : State :=
  let s := atL.modGrid 0 fun g => { g with dgrant := 1600, k := { g.k with
    scratch := 4096, shapes := [shapeOf 3 2 2, shapeOf 0 1 2, shapeOf 3 1 4] } }
  onWg (s.modSeq (.group 0 0 0) fun q => { q with s := [(2, 1), (3, 0x10040)] }) fun x => { x with
    drawn := 1600
    slots := [(0, { holder := some 0, tag := some (3, 1, 2), rows := [(0, 0x40003C00)] }), (1, { holder := some 0 })]
    accs := [(0, { holder := some 0 })]
    banks := [(0, { loaded := true, fmt := 3, n := 64, rv := 2, cv := 64
                    rows := [(0, (List.range 64).foldl (fun m i => m + 0x3C00 * 2 ^ (16 * i)) 0),
                             (1, (List.range 64).foldl (fun m i => m + 0x3C00 * 2 ^ (16 * i)) 0)] })] }

/-- The runs that the claims and releases name: slot or tile `m`, and `n`. -/
def slotRun (m n : Nat) : LaneW := { p2 := BitVec.ofNat 32 (m * 2 ^ 12 + (n - 1) * 2 ^ 8) }
def accRun (m n : Nat) : LaneW := { p2 := BitVec.ofNat 32 (m * 2 ^ 16 + (n - 1) * 2 ^ 8) }

theorem test_claims_meet :
    (∀ p ∈ claimWords (slotRun 15 1), p.2 = false → laneOk p.1 (slotRun 15 1) tiled = true) ∧
    (∀ p ∈ releaseWords (slotRun 0 2), p.2 = false → laneOk p.1 (slotRun 0 2) tiled = true) ∧
    laneOk (.aclaim (accRun 1 15)) (accRun 1 15) tiled = true ∧ laneOk (.arel (accRun 0 1)) (accRun 0 1) tiled = true ∧
    (envOf tiled (slotRun 15 1)).x.lanes = BitVec.allOnes 32 ∧ (envOf split (slotRun 15 1)).x.lanes ≠ BitVec.allOnes 32 ∧
    laneOk (.sclaim (slotRun 15 1)) (slotRun 15 1) split = true ∧
    (let x := tiled.wg ⟨0, 0⟩
     (∀ i, i < 15 → holder x true (1 + i) = none) ∧ holder x false 1 = some 0 ∧ holder x false 2 = none ∧ x.claims = [] ∧
       x.heldSlots.length + 14 ≤ x.phys ∧ x.chitSlots = []) ∧
    namesRun (tiled.grid 0).k false [0, 1] (tiled.wg ⟨0, 0⟩).pred ((tiled.group ⟨0, 0, 0⟩).cmds.flatMap TileCmd.allOps) = false := by
  decide +kernel

theorem test_claims : ran (exec (.sclaim (slotRun 2 14)) tiled) (fun t => (t.wg ⟨0, 0⟩).heldSlots.length == 16) ∧
    causes (.sclaim (slotRun 1 2)) tiled 0x0B ∧ causes (.arel (accRun 0 2)) tiled 0x0C ∧
    ran (exec (.arel (accRun 0 1)) tiled) (fun t => ((t.wg ⟨0, 0⟩).acc 0).holder == none) ∧
    ran (exec (.sclaim (slotRun 2 1)) (onWg tiled fun x => { x with slots := [(2, { holder := some 1 })] })) (fun t =>
      (t.wg ⟨0, 0⟩).claims == [{ grp := 0, acc := false, m := 2, n := 1 }] && ((t.group ⟨0, 0, 0⟩).frag 0).map (·.pc) == some 0x10000) ∧
    causes (.sclaim (slotRun 2 1)) split 0x05 := by decide +kernel

/-- The claim of slot 2 has waited and may be granted. -/
def claiming : State := onWg tiled fun x => { x with claims := [{ grp := 0, acc := false, m := 2, n := 1 }] }

theorem test_claim_grant_meets : (claiming.wg ⟨0, 0⟩).claims[0]? = some { grp := 0, acc := false, m := 2, n := 1 } ∧
    (claiming.wg ⟨0, 0⟩).place = .resident ∧
    (claiming.wg ⟨0, 0⟩).grantable ((claiming.wg ⟨0, 0⟩).claims.take 0) { grp := 0, acc := false, m := 2, n := 1 } = true ∧
    ((claiming.group ⟨0, 0, 0⟩).frags.find? (fun f => f.lanes == 0xFFFFFFFF)).isSome ∧
    ran (exec (.claimGrant 0 0 0) claiming) (fun t => ((t.wg ⟨0, 0⟩).slot 2).holder == some 0 && (t.wg ⟨0, 0⟩).claims == []) := by
  decide +kernel

/-- Forms of the ten numbered words over slots 0 and 1, tile 0, and bank 1 or 0. -/
def tileForms : List LaneW :=
  [{ vb := 2, bsc := true, p2 := 0x1000 }, { vb := 2, bsc := true }, {}, { va := 3 }, { p2 := 0x80 },
   { vd := 1 }, { vb := 2, bsc := true, vd := 1, fmt := 0 }, { vd := 8, vc := 127, mod := 1 }, { vd := 2 }]

/-- A word of the list at a form that passes its checks and those of entry. -/
def entersAt (k : Nat) (w : LaneW) : Bool :=
  match (windowWords w (envOf tiled w))[k]? with
  | some p => laneOk p.1 w tiled && tiled.entryFault ⟨0, 0, 0⟩ p.2.2.1 == none
  | none => false

theorem test_window_meets : ((List.range 10).all fun k => tileForms.any (entersAt k)) = true ∧
    (match (windowWords { vd := 9 } (envOf tiled {}))[1]? with
      | some p => laneOk p.1 { vd := 9 } tiled && (tiled.entryFault ⟨0, 0, 0⟩ p.2.2.1).isSome
      | none => false) = true ∧
    ((tiled.group ⟨0, 0, 0⟩).crowded = false) ∧ (TileOp.trans 0).flushes [] = false ∧
    laneOk (.scale { vc := 0 }) {} tiled = true := by decide +kernel

theorem test_window : ran (exec (.trans {}) tiled) (fun t => (t.group ⟨0, 0, 0⟩).lastNum == 1 &&
      ((t.group ⟨0, 0, 0⟩).cmds.map (·.ops)) == [[.trans 0]] && ((t.group ⟨0, 0, 0⟩).frag 0).map (·.pc) == some 0x1000C) ∧
    causes (.trans { p2 := 0x3000 }) tiled 0x0B ∧ causes (.scale {}) tiled 0x07 := by decide +kernel

/-- Command 1 stands decided in the window. -/
def commanded (op : TileOp) : State := onGroup tiled fun y => { y with
  lastNum := 1, cmds := [{ origins := [{ num := 1, waddr := 0x10000, op := op }], ops := [op], st := .decided }] }

/-- The conditions of `CommandReady`. -/
def readyNow (s : State) (op : TileOp) : Bool :=
  match (s.group ⟨0, 0, 0⟩).cmd 1 with
  | some k => (s.wg ⟨0, 0⟩).place == .resident && (s.group ⟨0, 0, 0⟩).predsDone k && (k.st == .decided || k.st == .issued) && k.move == 0 &&
        !(s.group ⟨0, 0, 0⟩).behindOrigin k &&
      k.ops == [op] && k.hold == none && !s.issueBlocked ⟨0, 0, 0⟩ k
  | none => false

def mmaOp : TileOp := .mma 0 0 0 0 1 false false true none

theorem test_commands_meet : readyNow (commanded (.ldslot 1 0 0 2)) (.ldslot 1 0 0 2) = true ∧
    readyNow (commanded (.tblw 0 2 0)) (.tblw 0 2 0) = true ∧ (commanded (.tblw 0 2 0)).genBusy ⟨0, 0⟩ 0 = false ∧
    (onWg (commanded (.tblw 0 2 0)) fun x => { x with banks := [(0, { loaded := true, ct := 0, gen := 1 })] }).genBusy ⟨0, 0⟩ 0 = true ∧
    readyNow (commanded mmaOp) mmaOp = true ∧
    readyNow (onGroup (commanded mmaOp) fun y => { y with cmds := y.cmds.map fun k => { k with st := .issued } }) mmaOp = true ∧
    (let x := (commanded mmaOp).wg ⟨0, 0⟩
     x.mmaFault 0 0 0 0 = none ∧ x.drawWait = [] ∧ x.mmaCost mmaOp ≤ 1600 ∧
       (commanded mmaOp).drawCovers ⟨0, 0⟩ (x.mmaCost mmaOp) = true ∧ x.mmaPoison 0 0 0 1 true = none) ∧
    ((tiled.grid 0).k.shape 0).isSome ∧ ((tiled.wg ⟨0, 0⟩).slot 0).tag = some (3, 1, 2) ∧ transposable 3 = true ∧
    ((tiled.wg ⟨0, 0⟩).slot 0).badIn (rowPitch 3) 1 32 = none := by decide +kernel

/-- The MMA stands in the array: `n` of its rows have entered. -/
def arrayed (n : Nat) : State := onGroup (commanded mmaOp) fun y => { y with
  cmds := y.cmds.map fun k => { k with st := .inArray, cursor := n, rs := [[]], bank := [0] } }

/-- 1 × 1 + 2 × 1 = 3 in every column; [1, 2] transposed; row 0 of tile 0 retired into registers. -/
theorem test_commands : ran (exec (.mmaRowEntry 0 0 0 1 128) (arrayed 0)) (fun t =>
      cget 0 ((t.wg ⟨0, 0⟩).acc 0).el 0 == 0x40400000 && cget 0 ((t.wg ⟨0, 0⟩).acc 0).el 63 == 0x40400000 &&
        cget 0 ((t.wg ⟨0, 0⟩).acc 0).el 64 == 0) ∧
    ran (exec (.matrixIssue 0 0 0 1) (commanded (.trans 0))) (fun t => ((t.wg ⟨0, 0⟩).slot 0).tag == some (3, 2, 1) &&
      elemAt ((t.wg ⟨0, 0⟩).slot 0).rows 16 1 0 == 0x4000) := by decide +kernel

theorem test_retire_meets : (let s := onGroup (commanded (.trans 0)) fun y => { y with
      cmds := y.cmds.map fun k => { k with st := .done, vals := [(32, 5)] } }
    ((s.group ⟨0, 0, 0⟩).cmd 1).isSome ∧ (s.wg ⟨0, 0⟩).place = .resident ∧
      ran (exec (.commandRetire 0 0 0 1) s) (fun t => (t.group ⟨0, 0, 0⟩).cmds == [] && (t.group ⟨0, 0, 0⟩).vreg 1 0 == 5)) ∧
    (let s := onGroup (commanded mmaOp) fun y => { y with cmds := y.cmds.map fun k => { k with st := .inArray, cursor := 100 } }
     ran (exec (.mmaRowEntry 0 0 0 1 50) s) (fun t => ((t.group ⟨0, 0, 0⟩).cmd 1).map (·.cursor) == some 128)) ∧
    (let s := onGroup (commanded (.tblw 0 2 0)) fun y => { y with cmds := y.cmds.map fun k => { k with st := .genWait } }
     ((s.group ⟨0, 0, 0⟩).cmd 1).map (·.st) = some .genWait ∧
       ran (exec (.tblwGenerationFree 0 0 0 1) s) (fun t => ((t.group ⟨0, 0, 0⟩).cmd 1).map (·.st) == some .done)) := by decide +kernel

/-! ### Events of the sequencers -/

/-- The executing sequencer waits at `i`. -/
def waitAt (s : State) (i : Instr) (vals : List Word := []) (bar : Option Nat := none) : State :=
  onMe s fun q => { q with run := .waiting, held := some i, vals := vals, barAt := bar }

/-- The SWAITA.eq of 8 bytes at 0x10040 for the value `v`, as it issued. -/
def watching (v : Nat) : OutKind :=
  .swaita { word := .swaita 3 2 0 3 0 0, waddr := 0x10000, ops := [(64, v), (96, 0x10040)], base := 0x10040 }

/-- One word of the executing sequencer is outstanding. -/
def outstanding (s : State) (k : OutKind) : State := onMe s fun q => { q with out := [{ pc := 0x10000, left := 0, kind := k }] }

/-- An SLD of s1 that has performed and read `v`. -/
def loaded (v : Nat) : OutKind := .deferred .read { word := .sld 1 2 0 3 1, waddr := 0x10000 } 8 0 [] [(0, v)]

theorem test_waits_with : WaitsWith (waitAt waiting (.waitb 1)) (.group 0 0 0) (.waitb 1) .S ∧
    WaitsWith (waitAt atW (.bar 3) [] (some 3)) (.wg 0 0) (.bar 3) .W ∧
    WaitsWith (waitAt (addressed atS) (.signalAdd 2 3 5) [0x10040, 7]) (.group 0 0 0) (.signalAdd 2 3 5) .S ∧
    WaitsWith (waitAt atS .region) (.group 0 0 0) .region .S ∧ WaitsWith (waitAt atH (.phase 5 2)) (.handler 0 0) (.phase 5 2) .H ∧
    WaitsWith (waitAt atS .seal) (.group 0 0 0) .seal .S ∧ WaitsWith (waitAt atW (.down 5) [5, 0, 0]) (.wg 0 0) (.down 5) .W ∧
    WaitsWith (waitAt atS (.run 0)) (.group 0 0 0) (.run 0) .S ∧ WaitsWith (waitAt granted (.draw 60)) (.wg 0 0) (.draw 60) .W ∧
    WaitsWith (waitAt (addressed atS) (.bind 7 2) [0x10040, 0]) (.group 0 0 0) (.bind 7 2) .S :=
  ⟨⟨by decide +kernel, by decide +kernel, by decide +kernel, rfl⟩, ⟨by decide +kernel, by decide +kernel, by decide +kernel, rfl⟩,
    ⟨by decide +kernel, by decide +kernel, by decide +kernel, rfl⟩, ⟨by decide +kernel, by decide +kernel, by decide +kernel, rfl⟩,
    ⟨by decide +kernel, by decide +kernel, by decide +kernel, rfl⟩, ⟨by decide +kernel, by decide +kernel, by decide +kernel, rfl⟩,
    ⟨by decide +kernel, by decide +kernel, by decide +kernel, rfl⟩, ⟨by decide +kernel, by decide +kernel, by decide +kernel, rfl⟩,
    ⟨by decide +kernel, by decide +kernel, by decide +kernel, rfl⟩, ⟨by decide +kernel, by decide +kernel, by decide +kernel, rfl⟩⟩

/-- The other premises of the events of waiting words. -/
theorem test_events_meet : (outstanding atS (loaded 9)).onCore (.group 0 0 0) = true ∧
    (waitMet (seenBy (waitAt waiting (.waitb 1)) (.group 0 0 0)) (fun _ => 0) (.waitb 1)) ∧
    ((outstanding (addressed atS) (watching 7)).seq (.group 0 0 0)).out.length = 1 ∧
    ((twoRaised 6 1 2).raiseFull (.wg 0 0) (agetD {} ((twoRaised 6 1 2).seq (.wg 0 0)).e 1) = true) ∧
    (∀ m ∈ (waitAt atW (.bar 3) [] (some 3)).barMembers (.wg 0 0) 3, ((waitAt atW (.bar 3) [] (some 3)).seq m).reached 3 0 = true) ∧
    (waitAt (addressed atS) (.signalAdd 2 3 5) [0x10040, 7]).waitHeld (.group 0 0 0) .atomic = false ∧
    (waitAt (addressed atS) (.signalAdd 2 3 5) [0x10040, 7]).allDone (.group 0 0 0) = true ∧
    (waitAt atS .region).drainedFor (.group 0 0 0) = true ∧ (waitAt atS .region).stalled = false ∧
    (waitAt atW (.down 5) [5, 0, 0]).room (.wg 0 0) = .room ∧ (waitAt atS (.run 0)).lead (.group 0 0 0) < 16 ∧
    (waitAt (addressed atS) (.bind 7 2) [0x10040, 0]).waitHeld (.group 0 0 0) .bindOnly = false := by
  refine ⟨by decide +kernel, ?_, by decide +kernel⟩
  simp only [waitMet]
  decide +kernel

theorem test_events : ran (exec (.longLatencyComplete (.group 0 0 0) 0) (outstanding atS (loaded 9))) (fun t =>
      t.me.readReg .S 1 == 9 && t.me.out == []) ∧
    ran (exec (.waitComplete (.group 0 0 0)) (waitAt waiting (.waitb 1))) (fun t => t.me.pc == 0x10004 && t.me.run == .running) ∧
    ran (exec (.barComplete (.wg 0 0)) (waitAt atW (.bar 3) [] (some 3))) (fun t => t.me.barCount == [(3, 1)] && t.me.pc == 0x10004) ∧
    ran (exec (.signalWrite (.group 0 0 0)) (waitAt (addressed atS) (.signalAdd 2 3 5) [0x10040, 7])) (fun t => t.memNat 0x10040 8 == 7) ∧
    ran (exec (.queuedBlocksDrained (.group 0 0 0)) (waitAt atS .region)) (fun t => (t.group ⟨0, 0, 0⟩).rgn == 1) ∧
    ran (exec (.queuedBlocksDrained (.group 0 0 0)) (waitAt atS .seal)) (fun t => (t.group ⟨0, 0, 0⟩).sealed == 1) ∧
    ran (exec (.linkRoom (.wg 0 0)) (waitAt atW (.down 5) [5, 0, 0])) (fun t => t.me.sent == 1 && t.me.pc == 0x10004) ∧
    ran (exec (.linkRoom (.group 0 0 0)) (waitAt atS (.run 3))) (fun t => ((t.group ⟨0, 0, 0⟩).laneQ.map (·.off)) == [3]) ∧
    ran (exec (.bindComplete (.group 0 0 0)) (waitAt (addressed atS) (.bind 7 2) [0x10040, 0])) (fun t =>
      (agetD {} (t.group ⟨0, 0, 0⟩).win 7).st == .bound) ∧
    ran (exec (.awaitComplete (.wg 0 0)) (outstanding (twoRaised 6 1 2) (.await 4 1))) (fun t => t.me.readReg .W 4 == 3) ∧
    ran (exec (.swaitaComplete (.group 0 0 0)) (outstanding (addressed atS) (watching 0))) (fun t => t.me.out == []) ∧
    ran (exec (.swaitaComplete (.group 0 0 0)) (outstanding (addressed atS) (watching 7))) (fun t => t.me.out.length == 1) := by decide +kernel

/-- A DRAW waits first in the die's queue. -/
def drawQueued : State := (waitAt granted (.draw 60)).modDie 0 fun d => { d with drawQ := [⟨0, 0⟩] }

theorem test_draw_grant_meets : (drawQueued.die 0).drawQ = [⟨0, 0⟩] ∧
    ((60 : Nat) : Int) - (drawQueued.wg ⟨0, 0⟩).drawn ≤ (drawQueued.die 0).poolFree ∧
    ran (exec (.drawGrant 0) drawQueued) (fun t => (t.wg ⟨0, 0⟩).drawn == 60 && (t.die 0).drawQ == [] && t.me.pc == 0x10004) := by
  decide +kernel

/-- A receipt waits at the idle group stream, and a queued lane block at the idle engine. -/
def received : State := (queued.modSeq (.wg 0 0) id).modSeq (.group 0 0 0) fun q =>
  { q with run := .idle, inq := [{ off := 2, h0 := 9 }] }

theorem test_blocks_meet : takes (.group 0 0 0) ∧ received.nextReceipt (.group 0 0 0) = some { off := 2, h0 := 9 } ∧
    (received.grid 0).failing = [] ∧ (received.wg ⟨0, 0⟩).place = .resident ∧ (received.seq (.group 0 0 0)).run = .idle ∧
    (received.group ⟨0, 0, 0⟩).laneQ = [{}] ∧
    (received.group ⟨0, 0, 0⟩).blk = none := ⟨trivial, by decide +kernel⟩

theorem test_blocks : ran (exec (.receiptTake (.group 0 0 0)) received) (fun t => (t.seq (.group 0 0 0)).pc == 0x10008 &&
      (t.seq (.group 0 0 0)).readReg .S 62 == 9 && (t.group ⟨0, 0, 0⟩).regionPc == 0x10008) ∧
    ran (exec (.receiptTake (.group 0 0 0)) (received.modSeq (.group 0 0 0) fun q => { q with inq := [{ off := 2, bad := true }] })) killed ∧
    ran (exec (.laneBlockStart 0 0 0) received) (fun t => ((t.group ⟨0, 0, 0⟩).frags.map fun x => (x.lanes, x.pc)) ==
      [(0xFFFFFFFF, 0x10000)]) := by decide +kernel

/-- Three runnable fragments, two of them in slots. -/
def three : State := onGroup atL fun y => { y with
  frags := [{ fid := 0, lanes := 1 }, { fid := 1, lanes := 2 }, { fid := 2, lanes := 4 }], slots := [0, 1], nextId := 3 }

theorem test_rotation_meets : (three.wg ⟨0, 0⟩).place = .resident ∧
    ((three.group ⟨0, 0, 0⟩).frags.map (·.st)) = [.runnable, .runnable, .runnable] ∧ (three.group ⟨0, 0, 0⟩).slots = [0, 1] ∧
    ran (exec (.fragmentRotation 0 0 0) three) (fun t => (t.group ⟨0, 0, 0⟩).slots == [1, 2]) := by decide +kernel

/-- A grid that has halted, its only pitch idle. -/
def ending : State := ((((atG.modSeq (.grid 0) fun q => { q with run := .halted }).modSeq (.group 0 0 0) id).modSeq (.wg 0 0) id).modSeq
  (.pitch 0 0) id).modGrid 0 fun g => { g with placed := 1 }

theorem test_finish_meets : (aget? ending.pitches (0, 0)).isSome ∧ (ending.pitch 0 0).finished = false ∧
    (ending.seq (.pitch 0 0)).run = .idle ∧ (ending.seq (.grid 0)).run = .halted ∧
    (ending.seq (.pitch 0 0)).ended = (ending.seq (.grid 0)).sent ∧ (ending.grid 0).failing = [] ∧
    (∀ w ∈ ending.wgsOf 0 0, ending.wgIdle w = true ∧ ending.firstReport w = none) ∧ (ending.seq (.pitch 0 0)).noRaise = true ∧
    ran (exec (.pitchFinish 0 0) ending) (fun t => (t.pitch 0 0).finished && (t.wg ⟨0, 0⟩).place == .killed) := by decide +kernel

/-! ### The copy engine, page service and coherence -/

/-- A layout record (R202): one row of four i8 elements at 0x10040. -/
def rowLayout : Nat := 2 * 2 ^ 480 + 2 ^ 464 + 4 * 2 ^ 448 + 16 * 2 ^ 256 + 2 ^ 96 + 4 * 2 ^ 64 + 0x11 * 2 ^ 57 + 0x10040

/-- A g2s chit (R197) of lap 1: tag 3 with TE, one valid row, to scratchpad offset 0. -/
def g2s : Nat := 1 + 3 * 2 ^ 16 + 2 ^ 22 + 2 ^ 40

/-- A ring of two entries; RESERVE is 5; the entry and the layout record stand in the reservation. -/
def engined : State :=
  let s := atS.modGrid 0 fun g => { g with dgrant := 1600, k := { g.k with scratch := 64, ring := 2, copyq := 2, layouts := [0] } }
  (onWg s fun x => { x with
    drawn := 1600
    sp := csetList 0 (csetList 0 (csetList 0 [] 64 (toBytes 8 5)) 192 (toBytes 32 g2s)) 256 (toBytes 64 rowLayout) }).writeMem
      0x10040 [1, 2, 3, 4]

def notified (v : Nat) : State := onWg engined fun x => { x with notifyQ := [{ hid := 1, who := .group 0 0 0, opnd := v }] }

theorem test_notify_meets : (∀ v ∈ ([1, 2] : List Nat), v < 2 ^ 52 ∧ v / 2 ^ 48 < 1 ∧
      v % 2 ^ 48 ≤ ofBytes (engined.spBytes ⟨0, 0⟩ 64 8) ∧ max (published engined ⟨0, 0⟩) v ≤ 2) ∧
    (engined.grid 0).k.groups ≤ 2 ^ 48 / 2 ^ 48 ∧ (engined.group (engined.grpId (.group 0 0 0))).reports.length < 8 ∧
    engined.grpId (.group 0 0 0) ∈ engined.groupsOf ⟨0, 0⟩ := by decide +kernel

theorem test_notify : ran (exec (.notifyRecord 0 0) (notified 2)) (fun t => cget 0 (t.wg ⟨0, 0⟩).ends 0 == 2 && (t.wg ⟨0, 0⟩).notify == 2) ∧
    ran (exec (.notifyRecord 0 0) (notified (2 ^ 48))) (fun t => (t.wg ⟨0, 0⟩).ends == [] &&
      ((t.group ⟨0, 0, 0⟩).reports.map fun r => (r.fr.cause, r.fr.info)) == [(0x95, 8)]) := by decide +kernel

/-- Two entries are published, the first written. -/
def publishing : State := onWg engined fun x => { x with ends := [(0, 2)] }

theorem test_consume_meets : (publishing.grid 0).k.ring ≠ 0 ∧ (publishing.wg ⟨0, 0⟩).cons < published publishing ⟨0, 0⟩ ∧
    ofBytes (publishing.spBytes ⟨0, 0⟩ 192 32) % 256 = 1 ∧ publishing.spPoisonAt ⟨0, 0⟩ 192 32 = none ∧
    (let s := onWg publishing fun x => { x with cons := 1 }
     let b := ofBytes (s.spBytes ⟨0, 0⟩ 224 32)
     b % 256 ≠ 1 ∧ b % 256 ≠ 2) := by decide +kernel

theorem test_consume : ran (exec (.entryConsume 0 0) publishing) (fun t => (t.wg ⟨0, 0⟩).cons == 1 &&
      ((t.wg ⟨0, 0⟩).chits.map fun q => (q.idx, q.bits)) == [(0, g2s)]) ∧
    ran (exec (.entryConsume 0 0) (onWg publishing fun x => { x with cons := 1 })) (fun t => (t.wg ⟨0, 0⟩).cons == 1) := by
  decide +kernel

/-- A chit consumed, started or finished. -/
def chitted (q : Chit) : State := onWg publishing fun x => { x with cons := 1, chits := [q] }
def begun : Chit := { bits := g2s, started := true, lay := rowLayout }

theorem test_chits_meet : (chitted { bits := g2s }).engineCovered ⟨0, 0⟩ = true ∧
    (onWg (chitted { bits := g2s }) fun x => { x with drawn := 2 }).engineCovered ⟨0, 0⟩ = false ∧
    ((chitted { bits := g2s }).wg ⟨0, 0⟩).engineRuns = false ∧
    (chitted { bits := g2s }).chitCheck ⟨0, 0⟩ { bits := g2s } = none ∧
    (chitted { bits := g2s + 8 * 2 ^ 8 }).chitCheck ⟨0, 0⟩ { bits := g2s + 8 * 2 ^ 8 } = some (0x15, 1) ∧
    (chitted { bits := g2s }).spPoisonAt ⟨0, 0⟩ ((chitted {}).grid 0 |>.k.layAt 0) 64 = none ∧
    begun.rows = 1 ∧ layTw rowLayout = 4 ∧
    (match (chitted begun).chitSource ⟨0, 0⟩ begun 0 0 4 with
      | (s1, .ok (vs, p)) => (vs.map Prod.fst) == [1, 2, 3, 4] && p == none && (match s1.chitDest ⟨0, 0⟩ begun 0 0 vs with
        | (_, .ok _) => true
        | _ => false)
      | _ => false) = true := by decide +kernel

theorem test_chits : ran (exec (.chitStart 0 0 0) (chitted { bits := g2s })) (fun t =>
      ((t.wg ⟨0, 0⟩).chits.map fun q => (q.started, q.lay)) == [(true, rowLayout)]) ∧
    ran (exec (.chitStart 0 0 0) (chitted { bits := g2s + 8 * 2 ^ 8 })) (fun t =>
      ((t.wg ⟨0, 0⟩).chits.map fun q => (q.finished, q.report.isSome)) == [(true, true)]) ∧
    ran (exec (.chitStep 0 0 0) (chitted begun)) (fun t => t.spBytes ⟨0, 0⟩ 0 4 == [1, 2, 3, 4] &&
      ((t.wg ⟨0, 0⟩).chits.map (·.finished)) == [true]) ∧
    ran (exec (.chitComplete 0 0 0) (chitted { begun with finished := true })) (fun t => (t.wg ⟨0, 0⟩).chits == [] &&
      (t.wg ⟨0, 0⟩).doneCnt == 1 && (t.wg ⟨0, 0⟩).tags == 8) := by decide +kernel

/-- An access held for service. -/
def serving (who : Holder) : State := { atS with
  holds := [(1, { who := who, va := 0x20000, asid := 1, ctx := 0 })], nextHandle := 2 }

/-- Its context is away. -/
def away (who : Holder) : State := onWg (serving who) fun x => { x with place := .saved }

theorem test_replay_meets :
    (∀ w ∈ ([.tile ⟨0, 0, 0⟩ 1, .chit ⟨0, 0⟩ 0, .fetch (.group 0 0 0)] : List Holder),
      (serving w).holderHere { who := w, va := 0x20000, asid := 1, ctx := 0 } = true ∧
      (away w).holderHere { who := w, va := 0x20000, asid := 1, ctx := 0 } = false ∧
      aget? (serving w).holds 1 = some { who := w, va := 0x20000, asid := 1, ctx := 0 }) := by decide +kernel

theorem test_replay : ran (exec (.replayServiced 1 false) (serving (.tile ⟨0, 0, 0⟩ 1))) (fun t => t.holds == []) ∧
    ran (exec (.replayServiced 1 true) (away (.chit ⟨0, 0⟩ 0))) (fun t => (t.holds.map fun x => (x.2.ready, x.2.trickle)) == [(true, true)]) ∧
    ran (exec (.replayDeclined 1) (serving (.fetch (.group 0 0 0)))) killed ∧
    ran (exec (.replayNoframe 1) (serving (.fetch (.group 0 0 0)))) (fun t => (t.holds.map (·.2.noframe)) == [true] &&
      (t.wg ⟨0, 0⟩).place == .noframe) := by decide +kernel

/-- A page-table line with a translation sharer, and a store to it that waits. -/
def sharing : State := { storing atS with
  dir := [(0x10100 / 128, { tsh := [.block 0 0], want := true })]
  tlb := [(.block 0 0, [{ asid := 1, lines := [0x10100 / 128] }])] }

theorem test_coherence_meets : (storing atS).mayPerform 0 = true ∧ sharing.storeWaits (0x10100 / 128) = true ∧
    (.block 0 0 : TAgent) ∈ (sharing.dirEnt (0x10100 / 128)).tsh ∧
    (let s := { sharing with tlb := [], dir := [(0x10100 / 128, { want := true })] }; s.mayPerform 0 = true) ∧
    (let s := { storing atS with dir := [(0x10100 / 128, { st := .s, l1 := [(⟨0, 1, 0⟩, [])] })] }
     (∃ p ∈ s.pend, lineOf p.pa = 0x10100 / 128 ∧ (s.wg p.src).core ≠ ⟨0, 1, 0⟩) ∧ s.mayInvalidate ⟨0, 1, 0⟩ (0x10100 / 128) = true) ∧
    atS.residentOn ⟨0, 1, 0⟩ = none ∧ atS.residentOn ⟨0, 0, 0⟩ = some ⟨0, 0⟩ ∧ atS.inPhase ⟨0, 0⟩ 5 = [] ∧
    atS.lineFree none 5 = true ∧ atS.storeWaits 5 = false ∧ (2 ^ 44 + 5) / 2 ^ 44 % 2 = 1 ∧ atS.lineFree none (2 ^ 44 + 5) = true ∧
    (let s := { atS with hostPend := [{ agent := 1, pa := 0x10100, data := [1] }] }; s.mayHost 0 = true) := by decide +kernel

theorem test_coherence : ran (exec (.writePerform 0) (storing atS)) (fun t => t.memNat 0x10100 1 == 1 && t.pend == []) ∧
    ran (exec (.tinval (.block 0 0) (0x10100 / 128)) sharing) (fun t => agetD [] t.tlb (.block 0 0) == []) ∧
    ran (exec (.asidkill 1) sharing) (fun t => agetD [] t.tlb (.block 0 0) == []) ∧
    ran (exec (.hostRequest (.write 0 0 0x10100 1 9 .rel)) atS) (fun t => t.hostPend == [{ agent := 1, rel := true, pa := 0x10100, data := [9] }]) ∧
    ran (exec (.remoteTransferArrival 0 (8 * 0x10040) 1 false [(0x01020304, false)]) atS) (fun t => t.memNat 0x10040 4 == 0x01020304) ∧
    ran (exec (.footfallThreshold 0 3) { atS with fe := { atS.fe with fthr := 10, foot := [(3, 11)] } }) (fun t =>
      cget 0 t.fe.foot 3 % 65536 == 5) := by decide +kernel

/-! ### The front end and the porter -/

/-- Queue 1 of virtual function 0, enabled, reached by identifier 5; its front-end space maps the page at 0x10000; the
last record consumed is at 0x10080. -/
def fronted : State :=
  let s := State.reset.mapWord
  { s with fe := { s.fe with
      vfs := [(0, { troot := 1, asid := 2 })], stage2 := [((0, 5), 2 ^ 31 + 1)]
      queues := [(1, { en := true, last := 0x10080, argwin := 0x10800 })] } }

theorem test_wakes_meet : fronted.stageOne 0 5 = some 5 ∧ stageEntry (agetD 0 fronted.fe.stage2 (0, 5)) = some 1 ∧
    (let s := { fronted with fe := { fronted.fe with vfs := [(0, { s1en := true })] } }; s.stageOne 0 5 = none) ∧
    fronted.heldFor (.front true 1) = false ∧ fronted.waitingNodes < Config.waitingNodes ∧ fronted.choices = [] ∧
    (match ({ fronted with fe := { fronted.fe with wakes := [] } } : State).feGet (.front true 1) 0 (rangePieces 0x10080 8) with
      | .ok _ bs => bs == List.replicate 8 0
      | _ => false) = true := by decide +kernel

theorem test_wakes : ran (exec (.wakeWrite 0 40 8 0x10100) fronted) (fun t => t.fe.wakes == [(1, 0x10100)]) ∧
    ran (exec (.wakeWrite 0 40 4 0x10100) fronted) (fun t => t.fe.wakes == []) ∧
    ran (exec (.wakeWrite 0 32760 8 0x10100) fronted) (fun t => t.fe.wakes == []) ∧
    (∀ w ∈ ([0x10080, 0x10100, 0x10001] : List Nat),
      ran (exec .wake { fronted with fe := { fronted.fe with wakes := [(1, w)] } }) (fun t => t.fe.wakes == [])) := by
  decide +kernel

/-- A node of the pool whose code object, a header, one section header and a descriptor, stands at 0x10000. -/
def pooledNode : Node := { nid := 3, pq := 1, st := .pooled, bits := 0x10000 * 2 ^ 64 + 2 ^ 320 + 2 ^ 340 + 2 ^ 360 }

def codeObject : List Byte :=
  toBytes 16 0x10102464C457F ++ toBytes 4 0x9D470003 ++ toBytes 4 1 ++ toBytes 16 0 ++ toBytes 8 64 ++ toBytes 4 1 ++ toBytes 6 0 ++
    toBytes 4 (64 + 65536) ++ toBytes 2 0 ++
    toBytes 4 0 ++ toBytes 4 (drk 6) ++ toBytes 16 0 ++ toBytes 8 128 ++ toBytes 8 16 ++ toBytes 24 0 ++ toBytes 16 0

def queuedNode (code : List Byte) : State :=
  let s := fronted.writeMem 0x10000 code
  { s with fe := { s.fe with nodes := [pooledNode] } }

/-- What the loader answers for the node. -/
def loads (s : State) : Option (Except Nat Unit) :=
  match s.readObject (.front false 3) 0 0x10000 false with
  | .ok s3 (f, ss) => match loadObject f ss (s3.launchOf pooledNode) (codeArea 0) with
    | .error c => some (.error c)
    | .ok (_, laid) => if laid = [] then some (.ok ()) else none
  | _ => none

theorem test_dispatch_meets : (queuedNode codeObject).freeCtx = some 0 ∧ (queuedNode codeObject).poolHead = some pooledNode ∧
    (queuedNode codeObject).heldFor (.front false 3) = false ∧ pooledNode.bits / 2 ^ 469 % 64 = 0 ∧
    pooledNode.bits / 2 ^ 64 % 2 ^ 57 = 0x10000 ∧
    (match loads (queuedNode codeObject) with | some (.ok _) => true | _ => false) = true ∧
    (match loads (queuedNode []) with | some (.error 1) => true | _ => false) = true := by decide +kernel

theorem test_dispatch : ran (exec .dispatch (queuedNode codeObject)) (fun t => (t.seq (.grid 0)).run == .running &&
      (t.grid 0).node == 3) ∧
    ran (exec .dispatch (queuedNode [])) (fun t => (t.fe.nodes.map (·.st)) == [.failed]) := by decide +kernel

/-- A grid with a pitch to place; frames 1 and 2 belong to its function. -/
def toPlace : State := ({ fronted with fe := { fronted.fe with owner := [(1, 1), (2, 1)] } } : State).setGrid 0 { k := { groups := 2, base := [0, 0, 0, 0, 0] }, vf := 0 }

theorem test_placing_meets : (aget? toPlace.grids 0).map Grid.asks = some true ∧ toPlace.earlierFirst (toPlace.grid 0) = false ∧
    toPlace.findPlace 0 (toPlace.grid 0) = some ⟨0, 0, 0⟩ ∧
    ((pitchPut toPlace 0 (toPlace.grid 0) ⟨0, 0, 0⟩).bind fun u => toPlace.splitBack u [⟨0, 0, 0⟩]).isSome = true ∧
    (pitchPut fronted 0 (toPlace.grid 0) ⟨0, 0, 0⟩).isNone = true := by decide +kernel

theorem test_placing : ran (exec (.pitchPlace 0) toPlace) (fun t => (t.grid 0).placed == 1 && (t.wg ⟨0, 0⟩).core == ⟨0, 0, 0⟩ &&
      (t.seqs.map Prod.fst).length == 5 && (t.wg ⟨0, 0⟩).place == .resident) ∧
    ran (exec (.placeWaitExpiry 0) toPlace) (fun t => (t.grid 0).reqOld) := by decide +kernel

/-- A running node whose grid is done, with a completion signal at `va`: value 7, set. -/
def finishing (va : Nat) : State :=
  let s := fronted.setGrid 0 { npitch := 1, placed := 1 }
  let s1 := (s.setPitch 0 0 { finished := true }).setSeq (.grid 0) { run := .halted }
  { s1 with fe := { s1.fe with nodes := [{ nid := 3, pq := 1, st := .running, ctx := some 0, bits := va * 2 ^ 512 + 7 * 2 ^ 576 }] } }

theorem test_completion_meets : (finishing 0x10040).gridDone 0 = true ∧ (finishing 0x10040).stored 0 = true ∧
    ((finishing 0x10040).grid 0).failing = [] ∧ ((finishing 0x10040).nodeOf 3).map signalOf = some (0x10040, 7, false) ∧
    ((finishing 0).nodeOf 3).map signalOf = some (0, 7, false) ∧ (finishing 0x10040).heldFor (.front false 3) = false ∧
    (match (finishing 0x10040).access ((finishing 0x10040).feSpace 0) 0x10040 .atomic with
      | (s1, .ok tr) => s1.poisonAt (tr.pa 0x10040) 8 == none && (s1.homeWrite? .device tr.trk (tr.pa 0x10040) (toBytes 8 7)).isSome
      | _ => false) = true := by decide +kernel

theorem test_completion : ran (exec (.nodeComplete 3) (finishing 0x10040)) (fun t => t.memNat 0x10040 8 == 7 && t.fe.nodes == [] &&
      t.grids == []) ∧
    ran (exec (.nodeComplete 3) ((finishing 0).modGrid 0 fun g => { g with failing := [(3, {})] })) (fun t => (t.grid 0).killed) ∧
    ran (exec (.nodeComplete 3) ((finishing 0).modGrid 0 fun g => { g with failing := [(3, {})], killed := true }))
      (fun t => (t.fe.nodes.map (·.st)) == [.failed]) ∧
    ran (exec (.drawPoolChange 0 (-100)) fronted) (fun t => (t.die 0).poolTotal == 1500 && (t.die 0).poolFree == 1500) ∧
    ran (exec (.scriptResume 0) (((finishing 0).modGrid 0 fun g => { g with scriptStop := true }).modSeq (.grid 0) fun q =>
      { q with run := .stopped, prior := .running })) (fun t => (t.seq (.grid 0)).run == .running) ∧
    ran (exec .deviceReset (storing atS)) (fun t => t.memNat 0x10100 1 == 1 && t.pend == [] && t.seqs == []) ∧
    ran (exec (.poolAging 3) (queuedNode [])) (fun t => (t.fe.nodes.map (·.cls)) == [1]) := by decide +kernel

/-- The low half of a porter command: OP, TAG 9, a 1 by 1 rectangle at core (0, 0) of die 0. -/
def cmdLow (op : Nat) : Nat := op + 9 * 2 ^ 10 + 2 ^ 18 + 2 ^ 22
def portered (op : Nat) (s : State) : State := s.modDie 0 fun d => { d with porterLow := cmdLow op }

/-- The image table at 0x20000 names an image at 0x40000 whose header firmware has prepared (R377). -/
def tabled (s : State) : State :=
  let s1 := s.modGrid 0 fun g => { g with k := { g.k with vregs := 16 } }
  (s1.writeMem 0x20000 (toBytes 8 0x40000)).writeMem 0x40000
    (toBytes 128 (1 + 2 ^ 23 + (s1.grid 0).k.imageB true * 2 ^ 320))

/-- The command that stands in a die's register, with high half `hi`. -/
def commandOf (s : State) (hi : Nat) : PCmd := ⟨(s.die 0).porterLow % 2 ^ 64 + hi % 2 ^ 64 * 2 ^ 64⟩

theorem takes_of {s : State} {hi op : Nat} (h1 : 0 < s.dies.length)
    (h2 : (s.die 0).porterPost = none ∧ (s.die 0).porterQ = []) (h3 : (commandOf s hi).op = op) (h4 : (commandOf s hi).bad = false)
    (h5 : (commandOf s hi).lead.die = 0 ∧ (commandOf s hi).pw * (commandOf s hi).ph ≠ 0 ∧
      (commandOf s hi).pw * (commandOf s hi).ph ≤ 24 ∧ ∀ c ∈ (commandOf s hi).cores, s.inService c = true) :
    PorterTakes s 0 hi op (commandOf s hi) := ⟨rfl, h1, h2, h3, h4, h5⟩

/-- The pitch's context in another place, with its image. -/
def placeAs (p : Place) (s : State) : State := onWg s fun x => { x with place := p, image := 0x40000 }

theorem test_porter_meets :
    PorterTakes (portered 1 (placeAs .saved (tabled atS))) 0 0x20000 1 (commandOf (portered 1 (placeAs .saved (tabled atS))) 0x20000) ∧
    PorterTakes (portered 2 (placeAs .staged atS)) 0 0 2 (commandOf (portered 2 (placeAs .staged atS)) 0) ∧
    PorterTakes (portered 3 (tabled atS)) 0 0x20000 3 (commandOf (portered 3 (tabled atS)) 0x20000) ∧
    PorterTakes (portered 4 (placeAs .staged atS)) 0 0 4 (commandOf (portered 4 (placeAs .staged atS)) 0) ∧
    PorterTakes (portered 5 atS) 0 0 5 (commandOf (portered 5 atS) 0) :=
  ⟨takes_of (by decide +kernel) (by decide +kernel) (by decide +kernel) (by decide +kernel) (by decide +kernel),
   takes_of (by decide +kernel) (by decide +kernel) (by decide +kernel) (by decide +kernel) (by decide +kernel),
   takes_of (by decide +kernel) (by decide +kernel) (by decide +kernel) (by decide +kernel) (by decide +kernel),
   takes_of (by decide +kernel) (by decide +kernel) (by decide +kernel) (by decide +kernel) (by decide +kernel),
   takes_of (by decide +kernel) (by decide +kernel) (by decide +kernel) (by decide +kernel) (by decide +kernel)⟩

theorem test_porter_others_meet :
    (let s := portered 1 (placeAs .saved (tabled atS))
     s.asPitch (s.namedBy (commandOf s 0x20000)) = some [⟨0, 0⟩]) ∧
    (let s := portered 2 (placeAs .staged atS)
     s.pitchOn (commandOf s 0).cores .staged = some [⟨0, 0⟩] ∧ s.pitchOn (commandOf s 0).cores .resident = none ∧
       (∀ c ∈ (commandOf s 0).cores, s.residentOn c = none) ∧ (∀ x ∈ s.holds, x.2.ready = false) ∧
       (0 : Int) + ((s.wg ⟨0, 0⟩).drawn : Int) ≤ (s.die 0).poolFree) ∧
    (let s := portered 3 (tabled atS)
     s.pitchOn (commandOf s 0x20000).cores .resident = some [⟨0, 0⟩] ∧ s.imagesOk (commandOf s 0x20000) [⟨0, 0⟩] = true) ∧
    (let s := portered 5 atS
     s.asPitch (s.namedBy (commandOf s 0)) = none ∧ s.pitchOn (commandOf s 0).cores .staged = none) := by decide +kernel

/-- A pitch in a place, with its image, before STAGE; the porter holds the command. -/
def toStage (p : Place) : State := portered 1 (placeAs p (tabled atS))

theorem test_stage_meets : let s := toStage .saved
    let p := commandOf s 0x20000
    let u := holding s 0 [p.n]
    u.asPitch (u.namedBy p) = some [⟨0, 0⟩] ∧ (match u.stageSaved p [⟨0, 0⟩] with
      | .done t => (t.wg ⟨0, 0⟩).place == .staged
      | _ => false) = true := by decide +kernel

theorem test_stage_fails_meets : let s := toStage .resident
    let p := commandOf s 0x20000
    let u := holding s 0 [p.n]
    u.asPitch (u.namedBy p) = some [⟨0, 0⟩] ∧ u.stageSaved p [⟨0, 0⟩] = .fail 1 := by decide +kernel

theorem test_porter : ran (exec (.porterSwap 0 0) (portered 2 (placeAs .staged atS))) (fun t => (t.wg ⟨0, 0⟩).place == .resident) ∧
    ran (exec (.porterUnstage 0 0) (portered 4 (placeAs .staged atS))) (fun t => (t.wg ⟨0, 0⟩).place == .saved) ∧
    ran (exec (.porterKill 0 0) (portered 5 atS)) (fun t => (t.wg ⟨0, 0⟩).place == .killed) ∧
    ran (exec (.porterKill 0 0) (portered 7 atS)) (fun t => (t.wg ⟨0, 0⟩).place == .resident) := by decide +kernel

/-! ### Partitions, repair, the monitor and registers -/

/-- Way 3 of slice 0 belongs to partition 1. -/
def parted : State := State.reset.modDie 0 fun d => { d with pmask := [(1, 8)] }

theorem test_partitions_meet : (parted.die 0).rways < 8 ∧ 0 < parted.dies.length ∧
    (List.range 16).all (fun w => !(Nat.testBit 0x18 w && !(decide (w < 16 - (parted.die 0).rways) &&
      !(parted.die 0).retiredWays.contains (0, w) && (List.range 16).all fun q => q == 1 || !hasWay (parted.die 0) 0 q w))) = true ∧
    hasWay (parted.die 0) 0 1 3 = true ∧ Nat.testBit 0x18 3 = true ∧ hasWay (parted.die 0) 0 2 3 = false ∧
    State.reset.residentOn ⟨0, 9, 9⟩ = none ∧ State.reset.stagedOn ⟨0, 9, 9⟩ = none ∧ (State.reset.die 0).errRing.lg = 0 ∧
    (aget? atS.wgs ⟨0, 0⟩).isSome = true ∧ 0xFFFFFFFFFF / 2 ^ 38 % 4 < State.reset.dies.length ∧
    (State.reset.die (0xFFFFFFFFFF / 2 ^ 38 % 4)).errRing.lg = 0 := by decide +kernel

theorem test_partitions : ran (exec (.pmaskWrite 0 0 1 0x18) parted) (fun t => cget 0 (t.die 0).pmask 1 == 0x18) ∧
    ran (exec (.pmaskWrite 0 0 2 0x18) parted) (fun t => cget 0 (t.die 0).pmask 2 == 0) ∧
    ran (exec (.rwaysWrite 0 8) (parted.modDie 0 fun d => { d with pmask := [(1, 0xFFF)] }))
      (fun t => cget 0 (t.die 0).pmask 1 == 0xFF && (t.die 0).rways == 8) ∧
    ran (exec (.l2WayRetire 0 0 3) parted) (fun t => cget 0 (t.die 0).pmask 1 == 0) ∧
    ran (exec (.coreGating ⟨0, 9, 9⟩) parted) (fun t => (t.die 0).gatedCores == [(9, 9)]) ∧
    ran (exec (.cacheChipletGating 0 1) parted) (fun t => (t.die 0).gatedChiplets == [1]) ∧
    ran (exec (.hbmRowRepair 0 77) parted) (fun t => (t.die 0).repairedRows == [77]) ∧
    ran (exec (.utilityInterval 0 0) parted) (fun t => (t.die 0).rways == 0) := by decide +kernel

theorem test_errors : ran (exec (.eccError (.mem 0x140) false) State.reset) (fun t => t.poison == [10]) ∧
    ran (exec (.eccError (.mem 0x140) true) State.reset) (fun t => t.poison == []) ∧
    ran (exec (.eccError (.scratch 0 0 32) false) (scratched atS)) (fun t => (t.wg ⟨0, 0⟩).spPoison == [1]) ∧
    ran (exec (.linkFail 0 1 2 [5]) State.reset) (fun t => t.poison.contains 20 && t.poison.contains 23) ∧
    ran (exec (.scrub 7) { State.reset with choices := [2] }) (fun t => (t.die 0).scrubs == 1 && t.poison == [29]) ∧
    ran (exec (.partitionReset 0) { queuedNode [] with grids := atS.grids }) (fun t => t.grids == [] && t.fe.nodes == []) := by
  decide +kernel

/-- A code object at 0x10000 for the monitor; frame 3 belongs to virtual function 5 and frame 4 to firmware. -/
def monitored : State :=
  let s := queuedNode codeObject
  { s with fe := { s.fe with owner := [(0, 1), (3, 6), (4, 0xFF)] } }

/-- An image of KIND 1 of one 128-byte body, SVN 63, and its flash slot as the running one. -/
def imageOf : List Byte := toBytes 128 (0x0D1A4E57 + 2 ^ 32 + 2 ^ 48 + 63 * 2 ^ 64 + 128 * 2 ^ 128) ++ List.replicate 1848 0

def flashed : State := { State.reset with trust := { State.reset.trust with running := [(1, 1)], slots := [((1, 0), { image := .given imageOf })] } }

/-- What the loader answers to the monitor for the object. -/
def checks (s : State) : Option Nat :=
  match s.readObject (.front false (2 ^ 64 + 1)) (s.queue 1).vf 0x10000 false with
  | .ok _ (f, ss) =>
    match loadObject f ss { vf := (s.queue 1).vf, total := 1, pw := 1, ph := 1, dgrant := 1600
                            key := (agetD {} s.fe.vfs (s.queue 1).vf).key, dies := s.dies } (codeArea 0) with
    | .error c => some c
    | .ok _ => some 0
  | _ => none

theorem test_monitor_meets : monitored.frameOk 5 (3 * 4096 * 512) 4096 = true ∧ monitored.frameOk 5 (4 * 4096 * 512) 4096 = false ∧
    monitored.frameOk 5 (4 * 4096 * 512 - 360) 360 = true ∧ monitored.held? 5 = false ∧
    checks monitored = some 0 ∧ checks (queuedNode []) = some 1 ∧
    (flashOf 1 imageOf (keysOf [])).map (·.svn) = some 63 ∧ flashed.trust.checking = none ∧ cget 0 flashed.trust.running 1 = 1 ∧
    (aget? flashed.trust.slots (1, 0)).isSome = true ∧ (aget? flashed.trust.slots (1, 1)).isNone = true ∧
    flashed.inService ⟨0, 0, 0⟩ = true ∧ flashed.residentOn ⟨0, 0, 0⟩ = none ∧ atS.residentOn ⟨0, 0, 0⟩ = some ⟨0, 0⟩ ∧
    cget 0 monitored.fe.owner ((4 * 0x200000 + 148) / 0x200000) = 0xFF ∧ (2 ^ 51 + 0x200000) / 2 ^ 51 % 2 = 1 := by decide +kernel

theorem test_monitor : ran (exec (.setStage2Entry 5 4095 0x80000001) monitored) (fun t => t.trust.result == 2) ∧
    ran (exec (.setTroot 5 63 (3 * 512)) monitored) (fun t => t.trust.result == 0 && agetD (1, 1) t.fe.troots 63 == (0, 3 * 512)) ∧
    ran (exec (.assignFrame 3 0) monitored) (fun t => t.trust.result == 0 && cget 0 t.fe.owner 3 == 0) ∧
    ran (exec (.setHostRange 5 7 (2 ^ 51 + 0x200000) 0x200000) monitored) (fun t => t.trust.result == 0) ∧
    ran (exec (.setHostRange 5 7 0x200000 0x200000) monitored) (fun t => t.trust.result == 1) ∧
    ran (exec (.checkCodeObject 1 0x10000) monitored) (fun t => t.trust.result == 0) ∧
    ran (exec (.checkCodeObject 1 0x10000) (queuedNode [])) (fun t => t.trust.result == 2 && t.trust.refusal == 1) ∧
    ran (exec (.commitUpdate 1) flashed) (fun t => t.trust.result == 0 && cget 0 t.trust.minSvn 1 == 63) ∧
    ran (exec (.retireCore ⟨0, 0, 0⟩) flashed) (fun t => t.trust.result == 0 && t.inService ⟨0, 0, 0⟩ == false) ∧
    ran (exec (.retireCore ⟨0, 0, 0⟩) atS) (fun t => t.trust.result == 2) ∧
    ran (exec (.stageUpdate 4 imageOf) flashed) (fun t => t.trust.result == 1) ∧
    ran (exec (.attest 5 1 (4 * 0x200000)) monitored) (fun t => t.trust.result == 2) ∧
    ran (exec (.registerCodeKey 5 (4 * 0x200000)) monitored) (fun t => t.trust.result == 0) := by decide +kernel

theorem test_registers_meet : (fronted.queue 1).en = true ∧ (fronted.queue 4095).en = false ∧ fronted.holds = [] ∧
    Nat.testBit 0 18 = false ∧ (aget? atS.wgs ⟨0, 0⟩).isSome = true := by decide +kernel

theorem test_registers : ran (exec (.registerWrite (.desc 1 0) 0x777) fronted) (fun t => (t.queue 1).last == 0x10080) ∧
    ran (exec (.registerWrite (.desc 9 0) 0x777) fronted) (fun t => (t.queue 9).last == 0x777) ∧
    ran (exec (.registerWrite (.pway 0 1) (2 ^ 16 + 17 * 256 + 20)) fronted)
      (fun t => (agetD {} (t.die 0).pway 1) == { mon := true, ceil := 16, floor := 16 }) ∧
    ran (exec (.registerWrite (.handlerTable 0 0 127) 0x1234) atS) (fun t => cget 0 (t.wg ⟨0, 0⟩).htab 127 == 0x1234) := by
  decide +kernel

/-! ### Witnesses of the waits, reports and the handler -/

/-- A failed chit of tag `t`, reported or kept back. -/
def chitRep (t : Nat) : Report := { key := .chit 1 true t none, fr := { cause := 0x89 }, order := t }

/-- A handler for PAGE. -/
def handled (s : State) : State := onWg s fun x => { x with htab := [(0, 0x10000), (9, 0x10010)] }

/-- A held report of a chit with tag 3, or eight reports beside a chit of batch 1 that is kept back. -/
def reported : State := onGroup (handled waiting) fun y => { y with reports := [chitRep 5, chitRep 3] }
def fullOf : State := onWg (onGroup (handled waiting) fun y => { y with reports := (List.range 8).map fun k => chitRep (9 + k) }) fun x =>
  { x with chits := [{ grp := 0, report := some (chitRep 3) }] }

theorem test_covering_meets : (let r : BitVec 6 → Word := fun f => reported.me.readReg .S f.toNat
     waitMet reported r (.waitany 2) ∧ (reported.group (own reported)).reports = [chitRep 5] ++ chitRep 3 :: [] ∧
        ¬coveredBy reported 8 (.waitany 2) (chitRep 5).key ∧ coveredBy reported 8 (.waitany 2) (chitRep 3).key) ∧
    (let r : BitVec 6 → Word := fun f => fullOf.me.readReg .S f.toNat
     ¬waitMet fullOf r (.waitb 0) ∧ keptBackKey fullOf (chitRep 3).key ∧ awaited fullOf 0 (.waitb 0) (chitRep 3).key ∧
        (fullOf.group (own fullOf)).reports = chitRep 9 :: (List.range 7).map fun k => chitRep (10 + k)) ∧
    ∀ k, ¬keptBackKey waiting k := by
  refine ⟨⟨by simp only [waitMet]; decide +kernel, by decide +kernel, fun h => absurd h.1.2 (by decide),
      ⟨⟨rfl, by decide⟩, by simp only [chitRep]; decide +kernel⟩⟩,
    ⟨by simp only [waitMet]; decide +kernel, ⟨by decide +kernel, chitRep 3, rfl, .inr ⟨_, List.mem_cons_self, by decide +kernel, rfl⟩⟩,
      by simp only [awaited, chitRep]; decide +kernel, by decide +kernel⟩, fun k h => absurd h.1 (by decide +kernel)⟩

theorem test_covering : ran (exec (.waitany 2) reported) (fun t => ((t.group ⟨0, 0, 0⟩).reports.map (·.key)) == [(chitRep 5).key]) ∧
    ran (exec (.waitb 0) fullOf) (fun t => (t.group ⟨0, 0, 0⟩).reports.length == 7) := by decide +kernel

/-- An ADRAIN of the window that has not completed. -/
def draining (s : State) : State := onGroup s fun y => { y with
  lastNum := 1, cmds := [{ origins := [{ num := 1, op := .adrainReg 0 0 1 0 0 false }], ops := [.adrainReg 0 0 1 0 0 false] }] }

theorem test_flags_wait_meets : flagsWait queued 0x031 ∧ flagsWait (draining atS) 0x030 ∧ ¬flagsWait atS 0x031 ∧
    ¬flagsWait queued 0x012 ∧ flagsWait (draining atH) 0x030 ∧ ¬flagsWait atG 0x030 := by
  refine ⟨⟨by decide, by decide +kernel, .inl (by decide +kernel)⟩, ⟨by decide, by decide +kernel, .inr (.inr
    ⟨_, List.mem_cons_self, _, List.mem_cons_self, .inr ⟨_, _, _, _, _, _, rfl⟩⟩)⟩, ?_, ?_, ⟨by decide, by decide +kernel,
    .inr (.inr ⟨_, List.mem_cons_self, _, List.mem_cons_self, .inr ⟨_, _, _, _, _, _, rfl⟩⟩)⟩, ?_⟩
  · rintro ⟨-, -, h | h | ⟨c, h, -⟩⟩
    · exact h (by decide +kernel)
    · exact h (by decide +kernel)
    · exact absurd h (by rw [show (atS.group (own atS)).cmds = [] by decide +kernel]; exact List.not_mem_nil)
  · exact fun h => absurd h.1 (by decide)
  · exact fun h => absurd h.2.1 (by decide +kernel)

theorem test_flags_wait : ran (exec (.rdsr 1 0x030) (draining atH)) (fun t => t.me.run == .waiting) := by decide +kernel

/-- Two groups; the handler stands in the slot of group 0 for its stream, and group 1 has been stopped by GSTATE; s3 = 1. -/
def handlingTwo : State :=
  ((handling.modGrid 0 fun g => { g with k := { g.k with groups := 2 } }).setGroup ⟨0, 0, 1⟩
    { regionPc := 0x10010, log := [] }).setSeq (.group 0 0 1) { pc := 0x10040, run := .stopped, prior := .waiting }

theorem test_release_meets : Legal (.resumePr 3) handlingTwo .H ∧ Legal (.resumeRg 3) handlingTwo .H ∧
    (handlingTwo.wg ⟨0, 0⟩).hrun = some (.group 0 0 0, false) ∧ own handlingTwo ≠ ⟨0, 0, 1⟩ ∧ own handlingTwo = ⟨0, 0, 0⟩ ∧
    (handlingTwo.wg ⟨0, 0⟩).ownFault 1 = none ∧ (handlingTwo.group ⟨0, 0, 1⟩).log = [] ∧ (handlingTwo.wg ⟨0, 0⟩).hwait = [] ∧
    (handlingTwo.seq (.group 0 0 1)).run = .stopped ∧ (handlingTwo.seq (.group 0 0 1)).prior ≠ .idle ∧
    (handlingTwo.seq (.group 0 0 0)).run = .stopped ∧ (handlingTwo.seq (.group 0 0 0)).prior ≠ .idle ∧
    1 < (handlingTwo.grid 0).k.groups := by decide +kernel

theorem test_release : ran (exec (.resumePr 3) handlingTwo) (fun t => (t.seq (.group 0 0 1)).run == .waiting && t.me.pc == 0x10004) ∧
    ran (exec (.resumeRg 3) handlingTwo) (fun t => (t.seq (.group 0 0 1)).run == .running && (t.seq (.group 0 0 1)).pc == 0x10010) := by
  decide +kernel

/-- Scalar memory words of every kind may perform at a cached address, and in the scratchpad. -/
theorem test_performs_now : (∀ k ∈ [SKind.load 1, .store, .atomic 0 1, .waitv 0 false],
      performsNow (cachedAt (addressed atS)) (cachedAt (addressed atS)) 0 8 k (.mem 0x10040 true []) ∧
      performsNow (scratched atS) (scratched atS) 2 4 k (.sp ⟨0, 0⟩ 60)) := by
  have h : ∃ u, (cachedAt (addressed atS)).inOrder? ⟨0, 0, 0⟩ (.mem 0x10040 true []) 8 = some u ∧
      homeFree u ⟨0, 0, 0⟩ 8 (.mem 0x10040 true []) :=
    ⟨cachedAt (addressed atS), by decide +kernel, by unfold plainRun; decide +kernel, by unfold quiet; decide +kernel, by decide +kernel,
      by decide +kernel⟩
  have h2 : ∃ u, (scratched atS).inOrder? ⟨0, 0, 0⟩ (.sp ⟨0, 0⟩ 60) 4 = some u := ⟨scratched atS, by decide +kernel⟩
  obtain ⟨u, hu, hf⟩ := h
  obtain ⟨v, hv⟩ := h2
  exact fun k _ => ⟨⟨.inr (by decide +kernel), u, hu, fun _ _ => hf⟩, ⟨.inr (by decide +kernel), v, hv, fun _ h => absurd h (by decide)⟩⟩

/-- A SATOM that releases: with nothing to wait for, with a queued block, and with a store of its core that is pending. -/
theorem test_ordered_atomics_meet : Legal (.satom 1 2 0 0 2 2 1) (addressed atS) .S ∧ drained atS ∧ ¬drained queued ∧ drained atH ∧
    atS.released (own atS).wg (scScope 2) = true ∧ (storing atS).released (own atS).wg (scScope 2) = false ∧
    Legal (.satom 1 2 0 0 1 3 0) queued .S ∧ atS.stalled = false ∧
    (let v := (addressed atS).modSeq atS.cur fun q => { q with run := .running, held := none, vals := [], decided := false }
     v = addressed atS ∧ (v.me.sops .S (.satom 1 2 0 0 2 2 1)).addr = 0x10040) := by
  refine ⟨by decide +kernel, ⟨by decide +kernel, .inr ⟨by decide +kernel, by decide +kernel⟩⟩, ?_, ⟨by decide +kernel, .inl ⟨0, 0, rfl⟩⟩,
    by decide +kernel⟩
  rintro ⟨-, ⟨c, w, h⟩ | ⟨h, -⟩⟩
  · exact absurd h (by rw [show queued.cur = .group 0 0 0 by decide +kernel]; nofun)
  · exact absurd h (by decide +kernel)

theorem test_ordered_atomics : ran (exec (.satom 1 2 0 0 2 2 1) (cachedAt (addressed atS))) (fun t => t.me.pc == 0x10004 && t.memNat 0x10040 8 == 0) ∧
    ran (exec (.satom 1 2 0 0 2 2 1) (storing (addressed atS))) (fun t => t.me.run == .waiting && t.me.vals.length == 4) := by decide +kernel

theorem test_own_store_meets : (0x1007C : Nat) / 128 = (0x1007C + 4 - 1) / 128 ∧ plainRun atS 0 ∧ atS.aperture? 0x1007C = none := by
  unfold plainRun
  decide +kernel

/-- Node 0 runs again: its first DRAW is that of workgroup 1, its first claim one of group 1. -/
def rerunning (evs : List CapEv) (s : State) : State := s.modGrid 0 fun g => { g with rerun := some (0, evs) }

theorem test_draw_order_meets : Legal (.draw 100) (rerunning [.draw 1] granted) .W ∧
    (rerunning [.draw 1] granted).ordered 0 (.draw 0) = none ∧ (rerunning [.draw 0] granted).ordered 0 (.draw 0) ≠ none ∧
    plainRun granted 0 := by
  unfold plainRun
  decide +kernel

theorem test_claim_order_meets : laneOk (.sclaim (slotRun 15 1)) (slotRun 15 1) (rerunning [.claim 0 1 false 0 1] tiled) = true ∧
    (rerunning [.claim 0 1 false 0 1] tiled).ordered 0 (.claim 0 0 false 15 1) = none ∧ plainRun tiled 0 ∧
    (let s := onGroup tiled fun y => { y with cmds := [{ ops := [.trans 1] }] }
     namesRun (s.grid 0).k false [0, 1] (s.wg ⟨0, 0⟩).pred ((s.group ⟨0, 0, 0⟩).cmds.flatMap TileCmd.allOps) = true ∧
     laneOk (.srel (slotRun 0 2)) (slotRun 0 2) s = true) := by
  unfold plainRun
  decide +kernel

theorem test_tile_entry_meets : plainRun tiled 0 ∧ (TileOp.trans 0).flushes (tiled.wg ⟨0, 0⟩).rules = false ∧
    ({ (tiled.group ⟨0, 0, 0⟩) with lastNum := 1, cmds := [{ origins := [{ num := 1, op := .trans 0 }], ops := [.trans 0] }] } : Group).crowded = false := by
  unfold plainRun
  decide +kernel

/-- A store of v2 that releases (order 10) and a load that acquires, by scalar base; deferred loads have lookahead 2. -/
theorem test_lane_order_meets :
    laneOk (.st { byBase 8 with vc := 2 }) { byBase 8 with vc := 2 } (storing (offsets 0 4)) = true ∧
    (let e := envOf (storing (offsets 0 4)) (byBase 8)
     e.act = [0, 1] ∧ (storing (offsets 0 4)).released ⟨0, 0⟩ (laneBoundary (storing (offsets 0 4)) e { byBase 8 with p2 := 0x80 }) = false ∧
       (offsets 0 4).released ⟨0, 0⟩ (laneBoundary (offsets 0 4) e (byBase 8)) = true ∧ (offsets 0 4).group ⟨0, 0, 0⟩ = e.y ∧
       e.y.lanesWait 0 = false) ∧
    ((onGroup (offsets 0 4) fun y => { y with
        frags := y.frags ++ [{ fid := 1, lanes := 2, st := .asleep, split := some 0 }]
        log := [{ handle := 1, frag := some 1 }], nextId := 2 }).group ⟨0, 0, 0⟩).lanesWait 0 = true := by
  decide +kernel

theorem test_lane_memory_forms :
    laneOk (.ld { byBase 0 with vd := 3, la := 2 }) { byBase 0 with vd := 3, la := 2 } (offsets 0 4) = true ∧
    laneOk (.ld { byBase 4 with vd := 3 }) { byBase 4 with vd := 3 } (offsets 0 4) = true ∧
    ran (exec (.ld { byBase 0 with vd := 3, la := 2 }) (offsets 0 4)) (fun t =>
      (((t.group ⟨0, 0, 0⟩).frag 0).map fun x => x.out.length) == some 1) ∧
    laneOk (.ld { byBase 0 with vd := 3, guard := 3 }) { byBase 0 with vd := 3, guard := 3 } (offsets 0 4) = true ∧
    (envOf (offsets 0 4) { byBase 0 with guard := 3 }).act = [] := by decide +kernel

/-- One lane word of fragment 0 is outstanding. -/
def laneOut (k : OutKind) : State := onGroup atL fun y => y.modFrag 0 fun x => { x with out := [{ pc := 0x10000, left := 0, kind := k }] }

/-- An LD of v3 whose lane 0 has read 5 and whose lane 1 is still to read. -/
def lateLoad : OutKind := .deferred .read { word := .ld { byBase 0 with vd := 3 }, mask := 3 } 4 0 [(1, .mem 0x10040 true [])] [(0, 5)]

theorem test_lane_outstanding_meets : (laneOut lateLoad).onCore (.lane 0 0 0 0) = true ∧
    (((laneOut lateLoad).group ⟨0, 0, 0⟩).frag 0).map (fun x => x.out[0]?.map (·.kind)) = some (some lateLoad) ∧
    laneCode (.ld { byBase 0 with vd := 3 }) = some (1, 1, { byBase 0 with vd := 3 }) ∧ (memKind 1).acc = .read ∧
    (∃ u vs, lateLanes ⟨0, 0, 0⟩ .load { word := .ld { byBase 0 with vd := 3 }, mask := 3 } (byBase 0) 4 0 []
      [(1, .mem 0x10040 true [])] (laneOut lateLoad) = some (u, vs) ∧ ((u.group ⟨0, 0, 0⟩).frag 0).isSome = true) ∧
    ran (exec (.longLatencyComplete (.lane 0 0 0 0) 0) ((laneOut lateLoad).writeMem 0x10040 [7])) (fun t =>
      (t.group ⟨0, 0, 0⟩).vreg 3 0 == 5 && (t.group ⟨0, 0, 0⟩).vreg 3 1 == 7 &&
        (((t.group ⟨0, 0, 0⟩).frag 0).map (·.out)) == some []) := by
  refine ⟨by decide +kernel, by decide +kernel, by decide +kernel, by decide, ?_, by decide +kernel⟩
  have h : (match lateLanes ⟨0, 0, 0⟩ .load { word := .ld { byBase 0 with vd := 3 }, mask := 3 } (byBase 0) 4 0 []
      [(1, .mem 0x10040 true [])] (laneOut lateLoad) with
      | some (u, _) => ((u.group ⟨0, 0, 0⟩).frag 0).isSome
      | none => false) = true := by decide +kernel
  split at h
  · next u vs e => exact ⟨u, vs, e, h⟩
  · exact absurd h (by decide)

/-- A scalar load that has not performed. -/
def reading : OutKind := .deferred .read { word := .sld 1 2 0 3 0, waddr := 0x10000 } 8 0 [(0, .mem 0x10040 true [])] []

theorem test_outstanding_meets : ((outstanding atS reading).seq (.group 0 0 0)).out[0]?.map (·.kind) = some reading ∧
    scalarShape (.sld 1 2 0 3 0) = some (8, .load 1) ∧ scalarShape (.swaita 3 2 0 3 0 0) = some (8, .waitv 0 true) ∧
    ((outstanding (twoRaised 6 1 2) (.await 4 1)).seq (.wg 0 0)).out.map (·.kind.await?) = [some (4, 1)] ∧
    ran (exec (.longLatencyComplete (.group 0 0 0) 0) ((outstanding atS reading).writeMem 0x10040 [6])) (fun t =>
      t.me.readReg .S 1 == 6 && t.me.out == []) ∧
    (match (outstanding (addressed atS) (watching 7)).reach (.group 0 0 0) (scalarAddr 0x10040) 8 .read 0x10040 with
      | (_, .ok _) => true
      | _ => false) = true := by decide +kernel

/-- The waiting words of W, P and S with the operands that they read: every form of DOWN, and the words of FCTL. -/
theorem test_waits_with_operands : (∀ p ∈ downWords 2 3 2 5, WaitsWith (waitAt atW p.1 [5, 5, 7]) (.wg 0 0) p.1 .W) ∧
    WaitsWith (waitAt atS (.rdsr 1 0x030)) (.group 0 0 0) (.rdsr 1 0x030) .S ∧
    WaitsWith (waitAt atH (.wrsr 2 0x031) [5]) (.handler 0 0) (.wrsr 2 0x031) .H ∧
    WaitsWith (waitAt (addressed atS) (.satom 1 2 0 0 3 2 1) [0x10040, 0x10040, 0, 0]) (.group 0 0 0) (.satom 1 2 0 0 3 2 1) .S ∧
    WaitsWith (waitAt waiting (.waitany 2) [8]) (.group 0 0 0) (.waitany 2) .S ∧
    (waitAt atW (.down 5) [5, 0, 0]).room (.wg 0 0) = .room ∧ 5 < (seenBy atW (.wg 0 0)).lowerWords .W := by
  refine ⟨?_, ⟨by decide +kernel, by decide +kernel, by decide +kernel, rfl⟩, ⟨by decide +kernel, by decide +kernel, by decide +kernel, rfl⟩,
    ⟨by decide +kernel, by decide +kernel, by decide +kernel, rfl⟩, ⟨by decide +kernel, by decide +kernel, by decide +kernel, rfl⟩,
    by decide +kernel⟩
  intro p hp
  simp only [downWords, List.mem_cons, List.not_mem_nil, or_false] at hp
  obtain rfl | rfl | rfl | rfl := hp <;> exact ⟨by decide +kernel, by decide +kernel, by decide +kernel, rfl⟩

/-- The ordered SATOM that waits, cached. -/
def orderedWait : State := cachedAt (waitAt (addressed atS) (.satom 1 2 0 0 3 2 1) [0x10040, 0x10040, 0, 0])

theorem test_ordered_event_meets : orderedWait.stalled = false ∧ orderedWait.drainedFor (.group 0 0 0) = true ∧
    orderedWait.released (orderedWait.grpId (.group 0 0 0)).wg (scScope 2) = true ∧
    ((woken orderedWait (.group 0 0 0)).group (own (woken orderedWait (.group 0 0 0)))).scalarLog 0x10000 = none ∧
    (let v := woken orderedWait (.group 0 0 0)
     match v.reach (.group 0 0 0) (scalarAddr 0x10040) 8 .atomic 0x10040 with
      | (s1, .ok t) => !s1.notifyHit t 8 && (match (s1.inOrder? (own v) t 8).bind fun u => u.atomicAt (own v) t 8 (satomTable 0 64 orderedWait.me.heldOps) with
        | some (s2, _) => let s3 := acquired s2 (own v) (.satom 1 2 0 0 3 2 1); !s3.stalled && s3.cur == .group 0 0 0
        | none => false)
      | _ => false) = true ∧
    ran (exec (.queuedBlocksDrained (.group 0 0 0)) orderedWait) (fun t => t.me.pc == 0x10004) ∧
    ran (exec (.queuedBlocksDrained (.group 0 0 0)) (waitAt atS (.rdsr 1 0x030))) (fun t => t.me.pc == 0x10004) ∧
    ran (exec (.queuedBlocksDrained (.group 0 0 0)) (waitAt atS (.wrsr 2 0x031) [5])) (fun t => (t.group ⟨0, 0, 0⟩).fflags == 5) := by
  decide +kernel

theorem test_decided_meets : ((onMe (waitAt waiting (.waitany 2) [8, 8]) fun q => { q with decided := true }).seq (.group 0 0 0)).decided = true ∧
    ran (exec (.waitComplete (.group 0 0 0)) (onWg (onMe (waitAt waiting (.waitany 2) [8, 8]) fun q => { q with decided := true })
      fun x => { x with tags := 0 })) (fun t => t.me.pc == 0x10004) := by decide +kernel

/-- An idle workgroup holds a report. -/
def reporting : State := (onGroup (handled ending) fun y => { y with reports := [chitRep 3] })

theorem test_finish_report_meets : ((reporting.wgsOf 0 0).filter fun w => reporting.wgIdle w && (reporting.firstReport w).isSome) = [⟨0, 0⟩] ∧
    reporting.firstReport ⟨0, 0⟩ = some (⟨0, 0, 0⟩, chitRep 3) ∧
    ran (exec (.pitchFinish 0 0) reporting) (fun t => (t.wg ⟨0, 0⟩).hrun.isSome) := by decide +kernel

/-- The block just queued waits for the stream's next word, unless another follows it or the stream is not running. -/
theorem test_fresh_meets : (let s := onGroup queued fun y => { y with fresh := true }
     (s.seq (.group 0 0 0)).run = .running ∧ ran (exec (.laneBlockStart 0 0 0) s) (fun t => (t.group ⟨0, 0, 0⟩).blk == none)) ∧
    (let s := onGroup queued fun y => { y with fresh := true, laneQ := [{}, { off := 1 }] }
     ran (exec (.laneBlockStart 0 0 0) s) (fun t => (t.group ⟨0, 0, 0⟩).laneQ.length == 1)) := by decide +kernel

/-- Chits of the other shapes: one that fills, one done, one at a 4 KiB edge that DRAWN does not cover. -/
def filling : Chit := { bits := 1 + 5 * 2 ^ 8 + 2 ^ 40, started := true, lay := rowLayout }
def edging : Chit := { begun with checked := 0 }

theorem test_chit_steps_meet : plainRun (chitted begun) 0 ∧ filling.opc = 5 ∧ begun.opc = 0 ∧ begun.hold = none ∧ filling.pos < 4 * filling.rows ∧
    4 * begun.rows ≤ ({ begun with pos := 4 } : Chit).pos ∧ edging.checked ≤ edging.pos * layW edging.lay / 32768 ∧
    ¬begun.checked ≤ begun.pos * layW begun.lay / 32768 ∧
    (onWg (chitted edging) fun x => { x with drawn := 2 }).engineCovered ⟨0, 0⟩ = false ∧ (chitted edging).engineCovered ⟨0, 0⟩ = true ∧
    ((chitted begun).wg ⟨0, 0⟩).engineRuns = true ∧ edging.drawHeld = false := by
  unfold plainRun
  decide +kernel

theorem test_chit_steps : ran (exec (.chitStep 0 0 0) (onWg (chitted edging) fun x => { x with drawn := 2 })) (fun t =>
      ((t.wg ⟨0, 0⟩).chits.map (·.drawHeld)) == [true] && (t.wg ⟨0, 0⟩).drawWait == [none]) ∧
    ran (exec (.chitStep 0 0 0) (chitted { filling with lay := rowLayout + 7 * 2 ^ 320 })) (fun t => ((t.wg ⟨0, 0⟩).chits.map (·.finished)) == [true]) := by
  decide +kernel

/-- A chit that failed, finished, with its report. -/
theorem test_chit_report_meets : (let q : Chit := { begun with finished := true, report := some (chitRep 3) }
     (chitted q).queueReport ⟨0, 0, q.grp⟩ (chitRep 3) ≠ none ∧
       ran (exec (.chitComplete 0 0 0) (chitted q)) (fun t => (t.group ⟨0, 0, 0⟩).reports.length == 1 && (t.wg ⟨0, 0⟩).doneCnt == 1)) := by
  decide +kernel

/-! ### Page service -/

/-- Access 1 is held for `who`, with its log entry and, for a tile command or chit, what waits for it. -/
def held1 (who : Holder) : State :=
  onWg (onGroup (cachedAt (onMe (serving who) fun q => { q with out := [{ pc := 0x10000, left := 0, kind := .paged 1 }] })) fun y => { y with
    log := [{ handle := 1, word := .sld 1 2 0 3 0, waddr := 0x10000, ops := [(96, 0x10040)], base := 0x10040 }]
    cmds := [{ origins := [{ num := 1 }], hold := some 1 }] })
    fun x => { x with chits := [{ idx := 0, hold := some 1 }] }

def heldBy (who : Holder) : Held := { who := who, va := 0x20000, asid := 1, ctx := 0 }

theorem test_served_meets :
    (∀ w ∈ ([.scalar (.group 0 0 0), .tile ⟨0, 0, 0⟩ 1, .chit ⟨0, 0⟩ 0, .fetch (.group 0 0 0), .lane ⟨0, 0, 0⟩ 1, .host 7,
        .front true 1] : List Holder),
      aget? (held1 w).holds 1 = some (heldBy w) ∧ (held1 w).holderHere (heldBy w) = true) ∧
    (let s := held1 (.scalar (.group 0 0 0))
     (s.group (s.grpId (.group 0 0 0))).log.find? (fun e => decide (e.handle = 1 ∧ e.frag = none)) ≠ none ∧
       scalarShape (.sld 1 2 0 3 0) = some (8, .load 1) ∧ s.lookup (s.space (.group 0 0 0)).t (s.space (.group 0 0 0)).asid 0x10040 = some leaf) ∧
    ((held1 (.lane ⟨0, 0, 0⟩ 1)).group ⟨0, 0, 0⟩).log.find? (fun e => e.handle == 1) ≠ none ∧
    ((held1 (.tile ⟨0, 0, 0⟩ 1)).group ⟨0, 0, 0⟩).cmd 1 ≠ none ∧
    ((held1 (.chit ⟨0, 0⟩ 0)).wg ⟨0, 0⟩).chits.find? (fun c => c.idx == 0) ≠ none ∧
    (∀ e ∈ (held1 (.front true 1)).fe.evWait, e.1 ≠ 1) ∧ (away (.scalar (.group 0 0 0))).holderHere (heldBy (.scalar (.group 0 0 0))) = false := by
  decide +kernel

theorem test_served : ran (exec (.replayServiced 1 false) ((held1 (.scalar (.group 0 0 0))).writeMem 0x10040 [5])) (fun t =>
      t.me.readReg .S 1 == 5 && t.holds == [] && t.me.out == []) ∧
    ran (exec (.replayServiced 1 false) (held1 (.tile ⟨0, 0, 0⟩ 1))) (fun t => ((t.group ⟨0, 0, 0⟩).cmds.map (·.hold)) == [none]) ∧
    ran (exec (.replayDeclined 1) (handled (held1 (.scalar (.group 0 0 0))))) (fun t => (t.wg ⟨0, 0⟩).hcause.waddr == 0x10000) := by
  decide +kernel

/-- The access's context stopped by NOFRAME; and an access of the front end's own. -/
def noframed : State := { (held1 (.fetch (.group 0 0 0))).modGrid 0 fun g => { g with noframe := true } with
  holds := [(1, { heldBy (.fetch (.group 0 0 0)) with noframe := true })] }

theorem test_noframe_meets : (aget? noframed.holds 1).map (·.noframe) = some true ∧ noframed.pend = [] ∧
    (let s := onWg noframed fun x => { x with place := .noframe }
     (s.frameFound 0).holderHere { (heldBy (.fetch (.group 0 0 0))) with noframe := false } = false) ∧
    (let x : Held := { who := .front true 1, ctx := 127 }
     64 ≤ x.ctx ∧ ran (exec (.replayNoframe 1) { atS with holds := [(1, x)] }) (fun t => (t.holds.map (·.2.declined)) == [true])) := by
  decide +kernel

/-! ### Coherence -/

/-- A host agent's write waits at its home; another core holds the line. -/
def hosted : State := { atS with hostPend := [{ agent := 1, pa := 0x10100, data := [1, 2] }] }
def shared (s : State) (line : Nat) : State := { s with dir := [(line, { st := .s, l1 := [(⟨0, 1, 0⟩, [])] })] }

theorem test_writes_meet : nothingWaits (storing atS) ∧ (storing atS).mayPerform 0 = true ∧ (storing atS).aperture? 0x10100 = none ∧
    (let s := { storing atS with dir := [(0x10100 / 128, { want := true })] }
     s.mayPerform 0 = true ∧ (s.dirEnt (lineOf 0x10100)).want = true) ∧
    nothingWaits hosted ∧ hosted.mayHost 0 = true ∧ unshared hosted 0x10100 2 := by
  unfold nothingWaits unshared quiet
  decide +kernel

theorem test_firmware : ran (exec (.hostRequest (.firmWrite 6 65535 1 9)) atS) (fun t => cget none t.fe.tcm (65536 * 7 - 1) == some 9) ∧
    ran (exec (.hostRequest (.firmRead 6 65535 1)) atS) (fun t => t == atS) := by decide +kernel

theorem test_invalidation_meets : (let s := shared (storing atS) (0x10100 / 128)
     nothingWaits s ∧ (∃ p ∈ s.pend, lineOf p.pa = 0x10100 / 128 ∧ (s.wg p.src).core ≠ ⟨0, 1, 0⟩) ∧
       (∃ b, (⟨0, 1, 0⟩, b) ∈ (s.dirEnt (0x10100 / 128)).l1) ∧ s.mayInvalidate ⟨0, 1, 0⟩ (0x10100 / 128) = true) ∧
    (∃ x ∈ (shared hosted (0x10100 / 128)).hostPend, 0x10100 / 128 ∈ linesOf x.pa x.data.length) ∧
    (∀ p ∈ (storing sharing).pend, 0x10100 / 128 ∉ p.lines) ∧ sharing.storeWaits (0x10100 / 128) = true ∧ atS.storeWaits 5 = false ∧
    (∀ p ∈ (storing sharing).pend, (agetD (0, 0) sharing.fe.troots p.src.c).1 ≠ 7) ∧
    atS.residentOn ⟨0, 0, 0⟩ = some ⟨0, 0⟩ ∧ (∀ p ∈ (storing atS).pend, p.src = ⟨0, 0⟩ → lineOf p.pa ≠ 5) ∧
    ((atS.wg ⟨0, 0⟩).areaUsed + ((atS.wg ⟨0, 0⟩).stale.filter fun z => z.line == 5 && !z.inArea).length + 0 ≤ Config.staleEvict) ∧
    (let s := shared atS (2 ^ 44 + 5); s.lineFree none (2 ^ 44 + 5) = true ∧ (s.dirEnt (2 ^ 44 + 5)).st ≠ .i ∧ (s.dirEnt (2 ^ 44 + 5)).tsh = []) := by
  unfold nothingWaits
  refine ⟨⟨by decide +kernel, by decide +kernel, ⟨[], by decide +kernel⟩, by decide +kernel⟩, by decide +kernel⟩

/-- An orphaned line that the device held modified. -/
theorem test_orphan : ran (exec (.hostRequest (.orphan (2 ^ 44 + 5))) { atS with dir := [(2 ^ 44 + 5, { st := .m })] }) (fun t =>
      t.poison.length == 4 && t.poison.contains (4 * (2 ^ 44 + 5) + 3)) := by decide +kernel

/-- The front end's cache translates the page for arrivals and host agents. -/
theorem test_arrivals_meet : let s := cachedAt atS
    s.lookup (.front 0) (agetD (0, 0) s.fe.troots 0).1 0x10040 = some leaf ∧ permits leaf.perm .write = true ∧
      permits leaf.perm .read = true ∧ plainRun s 0 ∧ unshared s (leaf.pa 0x10040) 4 ∧ nothingWaits s := by
  unfold plainRun unshared quiet nothingWaits
  decide +kernel

theorem test_arrivals : ran (exec (.remoteTransferArrival 0 (8 * 0x10040) 1 false [(0x01020304, false)]) (cachedAt atS)) (fun t => t.memNat 0x10040 4 == 0x01020304) ∧
    ran (exec (.hostRequest (.vwrite 1 0 0 0x10040 1 9 .rlx)) (cachedAt atS)) (fun t =>
      t.hostPend == [{ agent := 2, pa := 0x10040, data := [9], asid := some 1 }]) := by decide +kernel

theorem test_footfall_meets : (let s : State := { atS with fe := { atS.fe with fthr := 10, foot := [(2 ^ 40 * 16 + 3, 10 + 65536 * 7)] } }
     s.fe.fthr ≠ 0 ∧ s.fe.fthr ≤ cget 0 s.fe.foot (2 ^ 40 * 16 + 3) % 65536 ∧ cget 0 s.fe.foot 3 % 65536 < s.fe.fthr ∧
       ran (exec (.footfallThreshold 16 3) s) (fun t => cget 0 t.fe.foot (2 ^ 40 * 16 + 3) == 5 + 65536 * 7)) := by decide +kernel

/-! ### Witnesses of the front end, the porter and the registers -/

/-- The front end's cache holds the leaf of the mapped page. -/
def feCached (s : State) : State := { s with tlb := [(.front 0, [{ leaf with asid := 2 }])] }

/-- A wake with T = 0x10100 waits; NEXT of the record at LAST is `next`, and the record there is that of `pooledNode`. -/
def waked (next : Nat) : State :=
  let s := feCached ((fronted.writeMem 0x10080 (toBytes 8 next)).writeMem 0x10100 (toBytes 128 pooledNode.bits))
  { s with fe := { s.fe with wakes := [(1, 0x10100)] } }

/-- What `FeFinds` asks, evaluated. -/
def feFinds (s : State) (w : Holder) (vf va n : Nat) (k : Acc4) : Bool :=
  s.lookup (.front 0) (s.feSpace vf).asid va == some { leaf with asid := 2 } && permits leaf.perm k &&
    s.poisonAt (({ leaf with asid := 2 } : Trans).pa va) n == none && !s.heldFor w && s.declinedAt w va n == none

theorem feFinds_of {s : State} {w : Holder} {vf va n : Nat} {k : Acc4} (h : feFinds s w vf va n k = true) :
    FeFinds s w vf va n k { leaf with asid := 2 } := by
  unfold feFinds at h
  simp only [Bool.and_eq_true, beq_iff_eq, Bool.not_eq_true'] at h
  exact ⟨h.1.1.1.1, h.1.1.1.2, h.1.1.2, h.1.2, h.2⟩

/-- 6,144 nodes wait already. -/
def crowdedPool : State := { waked 0x10100 with fe := { (waked 0x10100).fe with nodes := List.replicate 6144 { st := .pending } } }

theorem test_wake_reads_meet : (∀ next ∈ ([0, 0x10100] : List Nat), let s := waked next
      runnersFree s ∧ s.heldFor (.front true 1) = false ∧ s.fe.wakes = (1, 0x10100) :: [] ∧ (s.queue 1).last = 0x10080 ∧
        (s.queue 1).last % 128 = 0 ∧ s.waitingNodes < Config.waitingNodes ∧ (∀ x ∈ s.fe.kept, x.1 ≠ .front true 1) ∧
        FeFinds s (.front true 1) (s.queue 1).vf 0x10080 8 .read { leaf with asid := 2 } ∧ s.memNat 0x10080 8 = next) ∧
    (let s := waked 0x10100
     FeFinds (s.touch (s.feSpace 0) { leaf with asid := 2 } 0x10080) (.front true 1) 0 0x10100 128 .read { leaf with asid := 2 } ∧
       (s.queue 1).record = false ∧ (s.queue 1).rerun = none ∧ recordBad (s.memNat 0x10100 128) = false ∧
       s.memNat 0x10100 128 / 2 ^ 392 % 16 = 0 ∧ s.memNat 0x10100 128 / 2 ^ 396 % 16 = 0) := by
  unfold runnersFree
  refine ⟨?_, feFinds_of (by decide +kernel), by decide +kernel⟩
  intro next h
  simp only [List.mem_cons, List.not_mem_nil, or_false] at h
  obtain rfl | rfl := h <;>
    exact ⟨by decide +kernel, by decide +kernel, by decide +kernel, by decide +kernel, by decide +kernel, by decide +kernel,
      by decide +kernel, feFinds_of (by decide +kernel), by decide +kernel⟩

theorem test_wake_reads : ran (exec .wake (waked 0)) (fun t => t.fe.wakes == [] && t.fe.nodes == []) ∧
    ran (exec .wake (waked 0x10100)) (fun t => (t.fe.nodes.map (·.bits)) == [pooledNode.bits] && (t.queue 1).last == 0x10100) ∧
    Config.waitingNodes ≤ crowdedPool.waitingNodes ∧ ran (exec .wake crowdedPool) (fun t => t.fe.full == [1]) := by decide +kernel

theorem test_pool_aging_meets : ((queuedNode []).fe.nodes.map (·.nid)).Nodup ∧ (queuedNode []).nodeOf 3 = some pooledNode ∧
    pooledNode.st = .pooled ∧ pooledNode.cls < 3 := by decide +kernel

/-- A node with one line of arguments at 0x20000, whose PAGE was declined; and a capture of another device. -/
def argNode : Node := { pooledNode with bits := pooledNode.bits + 0x20000 * 2 ^ 128 + 2 ^ 469 }
def argDeclined : State := let s := queuedNode codeObject
  { s with fe := { s.fe with nodes := [argNode] }, holds := [(1, { who := .front false 3, va := 0x20000, declined := true })] }
def rerunOther (sig : List Nat) : State := let s := queuedNode codeObject
  { s with fe := { s.fe with nodes := [{ pooledNode with rerun := some 0 }], captures := [{ sig := sig }] } }

theorem test_dispatch_others_meet :
    (match argDeclined.feGet (.front false 3) 0 [(0x20000, 128)] true (argDeclined.given none) with | .fault .. => true | _ => false) = true ∧
    (rerunOther [1]).rerunBad { pooledNode with rerun := some 0 } = true ∧ (queuedNode codeObject).rerunBad pooledNode = false ∧
    ran (exec .dispatch argDeclined) (fun t => (t.fe.nodes.map (·.st)) == [.failed]) ∧
    ran (exec .dispatch (rerunOther [1])) (fun t => (t.fe.nodes.map (·.st)) == [.failed]) := by decide +kernel

theorem test_signal_write_meets : FeFinds (feCached (finishing 0x10040)) (.front false 3) 0 0x10040 8 .atomic { leaf with asid := 2 } ∧
    unshared (feCached (finishing 0x10040)) 0x10040 8 ∧
    ((finishing 0).modGrid 0 fun g => { g with failing := [(3, {})], killed := true }).stored 0 = true ∧
    (let s := (storing (finishing 0)).modGrid 0 fun g => { g with failing := [(3, {})], killed := true }
     s.stored 0 = false ∧ (s.grid 0).killed = true) ∧
    (let s : State := { finishing 0 with fe := { (finishing 0).fe with nodes := [{ nid := 3, pq := 1, st := .failed, ctx := some 0 }] } }
     s.stored 0 = true ∧ (s.nodeOf 3).map signalOf = some (0, 0, false) ∧ ran (exec (.nodeComplete 3) s) (fun t => t.grids == [])) ∧
    (finishing 0).pend = [] := by
  unfold unshared quiet
  exact ⟨feFinds_of (by decide +kernel), by decide +kernel⟩

/-! The porter -/

/-- A full ring of two entries, and one with room. -/
def portRing (n : Nat) : State := State.reset.modDie 0 fun d => { d with porterRing := { base := 0x1000, lg := 1, pi := BitVec.ofNat 32 n } }

theorem test_completion_waits : ((portRing 2).die 0).porterRing.full = true ∧ ((portRing 1).die 0).porterRing.full = false ∧
    ((portRing 2).die 0).porterRing.lg ≠ 0 ∧ (((portRing 2).porterDone 0 ⟨1⟩ 0).die 0).porterPost.isSome := by decide +kernel

/-- A staged pitch behind the resident one, whose image table stands. -/
def swapping : State := portered 2 (((tabled (atS.modGrid 0 fun g => { g with npitch := 2, placed := 2 })).setPitch 0 1 { wgs := [1] }).setWg ⟨0, 1⟩
  { place := .staged, pitch := 1, gidx := 1, image := 0x40000 })

/-- No line has a sharer and no group a window, evaluated. -/
theorem bare_of {s : State} (h : (s.dir.all fun e => e.2.tsh == [] && e.2.l1 == [] && e.2.host == .i) = true)
    (h2 : (s.groups.all fun x => x.2.windows == []) = true) (h3 : s.hostPend = []) : s.Bare :=
  ⟨fun e he => by simpa [DirEnt.Bare, and_assoc] using List.all_eq_true.1 h e he, fun x hx => by simpa using List.all_eq_true.1 h2 x hx, h3⟩

theorem spillAll_one (s : State) (p : PCmd) (w : WgId) : s.spillAll p [w] = s.swapOut w (s.imageAt p 0) .saved := rfl

theorem test_swap_meets : let p := commandOf swapping 0x20000
    let u := holding swapping 0 [p.n]
    PorterTakes swapping 0 0x20000 2 p ∧
    u.pitchOn p.cores .staged = some [⟨0, 1⟩] ∧ u.pitchOn p.cores .resident = some [⟨0, 0⟩] ∧
    u.imagesOk p [⟨0, 0⟩] = true ∧ (∀ w ∈ ([⟨0, 0⟩] : List WgId), w ∉ ([⟨0, 1⟩] : List WgId)) ∧
    ((swapping.wg ⟨0, 1⟩).drawn : Int) ≤ (swapping.die 0).poolFree + ((swapping.wg ⟨0, 0⟩).drawn : Int) ∧
    (portered 2 (placeAs .staged atS)).walkWaits ⟨0, 0⟩ = false ∧
    ∃ v, u.spillAll p [⟨0, 0⟩] = some v ∧ v.walkWaits ⟨0, 1⟩ = false := by
  refine ⟨takes_of (by decide +kernel) (by decide +kernel) (by decide +kernel) (by decide +kernel) (by decide +kernel), by decide +kernel,
    by decide +kernel, by decide +kernel, by decide +kernel, by decide +kernel, by decide +kernel, ?_⟩
  have h : (match ((holding swapping 0 [(commandOf swapping 0x20000).n]).cutAll ⟨0, 0⟩).settleWg ⟨0, 0⟩ with
      | some s => (s.dir.all fun e => e.2.tsh == [] && e.2.l1 == [] && e.2.host == .i) && (s.groups.all fun x => x.2.windows == []) &&
          s.hostPend == []
      | none => false) = true := by decide +kernel
  split at h
  · next s hs =>
    simp only [Bool.and_eq_true, beq_iff_eq] at h
    obtain ⟨u, hu, hb⟩ := State.Bare.swapOut ((holding swapping 0 [(commandOf swapping 0x20000).n]).imageAt (commandOf swapping 0x20000) 0)
      .saved hs (bare_of h.1.1 h.1.2 h.2)
    exact ⟨u, (spillAll_one _ _ _).trans hu, hb.walkWaits _⟩
  · exact absurd h (by decide)

theorem test_porter_status : ran (exec (.porterStage 0 0) (portered 6 (portRing 0))) (fun t => (t.die 0).porterRing.pi == 1) ∧
    ran (exec (.porterSwap 0 0) ((portRing 0).modDie 0 fun d => { d with porterLow := 2 })) (fun t => (t.die 0).porterRing.pi == 1) := by
  decide +kernel

/-! Partitions, the monitor and registers -/

/-- Frame 3 is another function's, a translation of whose address space is held; or only its owner-table line has a sharer. -/
def ownerHeld : State := { monitored with tlb := [(.block 0 0, [{ asid := 0 }])] }
def ownerShared : State := { monitored with dir := [(ownerLine 3, { tsh := [.front 0] })], tlb := [(.front 0, [{ asid := 2, lines := [ownerLine 3] }])] }

theorem test_ownership_meets : ownerHeld.held? (cget 0 monitored.fe.owner 3 - 1) = true ∧
    1 ≤ cget 0 monitored.fe.owner 3 ∧ cget 0 monitored.fe.owner 3 ≤ 96 ∧ cget 0 monitored.fe.owner 3 ≠ 1 ∧
    (monitored.dirEnt (ownerLine 3)).tsh = [] ∧ (ownerShared.dirEnt (ownerLine 3)).tsh = [.front 0] ∧ ownerShared.pend = [] ∧
    ownerShared.held? 5 = false ∧ monitored.frameOk 5 (3 * 512 * 4096) 4096 = true ∧ monitored.frameOk 5 (4 * 512 * 4096) 4096 = false := by
  decide +kernel

theorem test_ownership : ran (exec (.assignFrame 3 1) ownerHeld) (fun t => t.trust.result == 2 && cget 0 t.fe.owner 3 == 6) ∧
    ran (exec (.assignFrame 3 1) ownerShared) (fun t => cget 0 t.fe.owner 3 == 1 && agetD [] t.tlb (.front 0) == []) ∧
    ran (exec (.setTroot 5 64 (3 * 512 + 9 * 2 ^ 48)) monitored) (fun t =>
      (agetD {} t.fe.vfs 5).troot == 3 * 512 && (agetD {} t.fe.vfs 5).asid == 9) := by decide +kernel

/-- Partition 0 holds function 0, whose queue has a wake; no store waits. -/
theorem test_partition_reset_meets : (∀ q ∈ (waked 0).pend, ∀ g, (q.src.c, g) ∈ (waked 0).grids → (waked 0).ofPart 0 g.vf = false) ∧
    (∀ v ∈ (waked 0).fe.vfs, v.2.wakeBase = 0) ∧ (waked 0).ofPart 0 ((waked 0).queue 1).vf = true ∧
    ran (exec (.partitionReset 0) (waked 0)) (fun t => t.fe.wakes == [] && !(t.queue 1).en) ∧
    ran (exec (.partitionReset 1) (waked 0)) (fun t => t.fe.wakes.length == 1 && (t.queue 1).en) := by
  have h : (waked 0).pend = [] := by decide +kernel
  exact ⟨by rw [h]; exact fun _ h => absurd h List.not_mem_nil, by decide +kernel⟩

theorem test_register_writes_meet : fronted.holds = [] ∧ (∀ d ∈ fronted.dies, d.porterPost = none) ∧ atS.pend = [] ∧ (95 : Nat) < 96 ∧
    ran (exec (.registerWrite (.wakeBase 95) (2 ^ 52 - 1)) fronted) (fun t => (agetD {} t.fe.vfs 95).wakeBase == 2 ^ 52 - 32768) ∧
    ran (exec (.registerWrite (.wakeBase 96) (2 ^ 52 - 1)) fronted) (fun t => t == fronted) ∧
    ran (exec (.registerWrite (.capSize 1) 7) fronted) (fun t => (t.queue 1).capSize == 7) := by decide +kernel

/-! ### Witnesses of further clauses -/

/-- A word of MAJOR 0 stands next. -/
def badPlaced : State := State.reset.withFetchWord 32 0
def badTurn : State := { badPlaced with plan := [], clock := 1 }

theorem test_step_bad_word_meets : NextTurn badPlaced (.word (.group 0 0 0)) badTurn ∧ badTurn.ready (.group 0 0 0) = true ∧
    badTurn.inSection (.group 0 0 0) 0x10000 = true ∧ (badTurn.seq (.group 0 0 0)).out.any (·.left == 0) = false ∧
    ctlCheck .S 0 = some (.illenc 0 1) ∧
    (match ({ badTurn.notFresh (.group 0 0 0) with cur := .group 0 0 0, stalled := false } : State).fetch (.group 0 0 0) 0x10000 1 with
      | .ok (_, n) => n == 0
      | _ => false) = true := by
  unfold NextTurn
  decide +kernel

/-- A JOIN is a convergence word that waits for no fragment of a whole engine, and meets the one that waits at its address. -/
theorem test_convergence_meets : converges 3 2 = true ∧
    (match (laneRun.group ⟨0, 0, 0⟩).frag 0 with
      | some x => (laneRun.group ⟨0, 0, 0⟩).partners x == []
      | none => false) = true ∧
    laneCheck (laneTurn.grid 0).k.vregs ((0x43 + 2 ^ 16 + 6 * 2 ^ 46) / 2 ^ 30 % 4) ((0x43 + 2 ^ 16 + 6 * 2 ^ 46) % 256)
      (unpackLane (0x43 + 2 ^ 16 + 6 * 2 ^ 46)) = none := by decide +kernel

/-- A wait behind an earlier read of its stream; and an item of R139 in error. -/
theorem test_reading_meets : Legal (.waitb 1) (outstanding waiting (loaded 9)) .S ∧
    (∃ o ∈ (outstanding waiting (loaded 9)).me.out, o.reading = true) ∧ (∀ o ∈ waiting.me.out, o.reading = false) ∧
    WaitsWith (outstanding (waitAt waiting (.waitb 1)) (loaded 9)) (.group 0 0 0) (.waitb 1) .S ∧
    (∃ o ∈ ((outstanding (waitAt waiting (.waitb 1)) (loaded 9)).seq (.group 0 0 0)).out, o.reading = true) ∧
    (let s := handling.modSeq (.group 0 0 0) fun q => { q with badRegs := [5] }
     Legal (.gstate 1 2 5) s .H ∧ (0 : Nat) < (s.grid 0).k.groups ∧ itemBad s ⟨0, 0, 0⟩ 5 ∧ ¬itemBad handling ⟨0, 0, 0⟩ 5) := by
  refine ⟨by decide +kernel, by decide +kernel, by decide +kernel, ⟨by decide +kernel, by decide +kernel, by decide +kernel, rfl⟩,
    by decide +kernel, by decide +kernel⟩

/-- Every lane of level 5 arrives, and level 4 above it has the same join and waits for its other lanes. -/
def nested : State := onGroup atL fun y => { y with
  frags := [{ fid := 0, lanes := 0x000000FF, pc := 0x10054, level := some 5 }]
  levels := [{ lid := 4, join := 0x10060, lanes := 0xFFFFFFFF, arrived := 0xFFFF0000 },
             { lid := 5, join := 0x10060, lanes := 0x0000FFFF, arrived := 0x0000FF00, parent := some 4 }]
  nextId := 6 }

theorem test_nested_meets : ((nested.group ⟨0, 0, 0⟩).frag 0).map (·.level) = some (some 5) ∧
    ((nested.group ⟨0, 0, 0⟩).level 5).map (fun L => (L.parent, L.arrived ||| 0x000000FF == L.lanes)) = some (some 4, true) ∧
    ((nested.group ⟨0, 0, 0⟩).level 4).map (fun P => (P.join, P.arrived ||| 0x000000FF == P.lanes)) = some (0x10060, false) ∧
    (let y := (nested.goTo ⟨0, 0, 0⟩ 0 0x10060).group ⟨0, 0, 0⟩
     (y.frag 0).map (fun x => (x.level, x.st)) = some (some 4, .waiting) ∧ y.level 5 = none) := by decide +kernel

/-- A store of the group to 0x10040 translates again (R368): a lane word that shares bytes with it waits. -/
def walkBlocked (s : State) : State :=
  { s with pend := [{ src := ⟨0, 0⟩, grp := 0, pa := 0x10040, va := 0x10040, data := [1], again := true }] }

/-- A lane that waits; one whose address is not aligned; both on an absent page. -/
theorem test_lane_faults_meet : laneOk (.ld { byBase 0 with vd := 3 }) { byBase 0 with vd := 3 } (walkBlocked (offsets 0 4)) = true ∧
    (let s := walkBlocked (offsets 0 4)
     let e := envOf s (byBase 0)
     (s.laneChecks s.cur (byBase 0) (e.y.window 0) 4 .read (e.act.map fun j => (j, e.lops 1 (byBase 0) j))).2.wait) = true ∧
    (let s := offsets 0 5
     let e := envOf s (byBase 0)
     let r := (s.laneChecks s.cur (byBase 0) (e.y.window 0) 4 .read (e.act.map fun j => (j, e.lops 1 (byBase 0) j))).2
     r.bad.map (fun x => (x.1, x.2.1)) = [(1, 0x07)] ∧ r.page = [] ∧ r.wait = false ∧ r.ok.map Prod.fst = [0]) ∧
    (let s := offsets 0x10000 0x10004
     let e := envOf s (byBase 0)
     let r := (s.laneChecks s.cur (byBase 0) (e.y.window 0) 4 .read (e.act.map fun j => (j, e.lops 1 (byBase 0) j))).2
     r.bad = [] ∧ r.page.map Prod.fst = [0, 1] ∧ r.wait = false ∧ r.ok = []) := by decide +kernel

/-- The lanes of a word that passed its checks perform, or wait for a home, of a line that the host shares. -/
def lanesGo (s : State) (o : Nat) (w : LaneW) : Bool :=
  let e := envOf s w
  let r := s.laneChecks s.cur w (e.y.window 0) 4 (memKind o).acc (e.act.map fun j => (j, e.lops o w j))
  (lanesDone s r.1 e o w {} r.2.ok).isSome

theorem test_lanes_done_meets : lanesGo (offsets 0 4) 1 { byBase 0 with vd := 3 } = true ∧
    lanesGo (offsets 0 4) 2 { byBase 8 with vc := 2, la := 3 } = true ∧ lanesGo (offsets 0 0) 5 { byBase 12 with vc := 2, vd := 3 } = true ∧
    (let s : State := { cachedAt (offsets 0 0) with dir := [(0x10040 / 128, { host := .s })] }
     lanesGo s 5 { byBase 12 with vc := 2, vd := 3 } = false ∧
       laneOk (.atom { byBase 12 with vc := 2, vd := 3 }) { byBase 12 with vc := 2, vd := 3 } s = true) := by decide +kernel

/-- What an operation answers of a command as written. -/
def worked (s : State) (op : TileOp) : Bool := match s.runOp ⟨0, 0, 0⟩ [] [] false 0 128 op with | .ok .. => true | _ => false

/-- Scales read at 0x10040; none of their bytes is marked. -/
def vecRead (s : State) (n : Nat) : Bool := match s.readVec ⟨0, 0, 0⟩ 0x10040 n with | (_, .ok vs) => vs.length == n | _ => false

theorem test_tile_operations_meet :
    (∀ op ∈ ([.ldslot 1 0 0 2, .stslot 0 0 0, .trans 0, .scale 0 false 0x10040, .ldw 1 0 0 true none, .ldw 1 0 0 false (some 0x10040),
        .aload 0 1 0 0, .adrainSp 0 1 0 2 0 0 false, .adrainReg 0 127 1 0 0 false, .tblw 0 2 0] : List TileOp),
      readyNow (commanded op) op = true ∧ worked tiled op = true) ∧
    ((List.range 3).map fun k => ((tiled.grid 0).k.shape k).map fun r => (r.fmt, r.rows, r.cols)) = [some (3, 2, 2), some (0, 1, 2), some (3, 1, 4)] ∧
    vecRead tiled 1 = true ∧ vecRead tiled 2 = true ∧ vecRead tiled 128 = true ∧
    ((List.range 3).all fun k => match (tiled.grid 0).k.shape k with
      | some r => tiled.spBadElem ⟨0, 0, 0⟩ (recBits r.fmt) (r.elems 0 r.rows r.cols) == none && decide (r.cols ≤ 64)
      | none => false) = true ∧
    fmtClass 3 ≠ 4 ∧ ((tiled.wg ⟨0, 0⟩).acc 0).bad = [] := by decide +kernel

/-- Scales of the rows of an MMA, its wait at a draw check, and rows that meet a mark. -/
def scaledMma : TileOp := .mma 0 0 0 0 1 false false true (some 0x10040)
def drawHeldMma : State := onWg (onGroup (arrayed 0) fun y => { y with cmds := y.cmds.map fun k => { k with st := .drawWait } }) fun x =>
  { x with drawWait := [some (0, 1)] }
def markedBank : State := onWg (arrayed 0) fun x => { x with banks := x.banks.map fun b => (b.1, { b.2 with bad := true }) }

theorem test_rows_meet : readyNow (commanded scaledMma) scaledMma = true ∧ plainRun (commanded scaledMma) 0 ∧ plainRun (commanded mmaOp) 0 ∧
    (match ((commanded scaledMma).group ⟨0, 0, 0⟩).cmd 1 with
      | some k => (match ((commanded scaledMma).setCmd ⟨0, 0, 0⟩ (issuedCmd (commanded scaledMma) ⟨0, 0, 0⟩ k)).readVec ⟨0, 0, 0⟩ 0x10040 1 with
        | (u, .ok _) => (u.wg ⟨0, 0⟩).drawWait == [] && u.drawCovers ⟨0, 0⟩ ((u.wg ⟨0, 0⟩).mmaCost scaledMma)
        | _ => false)
      | none => false) = true ∧
    (match ((drawHeldMma).group ⟨0, 0, 0⟩).cmd 1 with
      | some k => k.st == .drawWait && k.ops == [mmaOp] && drawHeldMma.drawCovers ⟨0, 0⟩ k.cost && !drawHeldMma.issueBlocked ⟨0, 0, 0⟩ k &&
          ((drawHeldMma.wg ⟨0, 0⟩).drawWait.head? == some (some (0, 1)))
      | none => false) = true ∧
    (([arrayed 0, arrayed 100, markedBank] : List State).all fun s => match (s.group ⟨0, 0, 0⟩).cmd 1 with
      | some k => k.st == .inArray && k.rs == [[]] && k.ops == [mmaOp] && k.move == 0 && (s.wg ⟨0, 0⟩).mmaFault 0 0 0 0 == none
      | none => false) = true ∧
    ((arrayed 0).wg ⟨0, 0⟩).mmaPoison 0 0 0 1 true 0 = none ∧ ((markedBank.wg ⟨0, 0⟩).mmaPoison 0 0 0 1 true 0).isSome = true ∧
    ran (exec (.mmaRowEntry 0 0 0 1 1) markedBank) (fun t => ((t.group ⟨0, 0, 0⟩).cmds.map (·.report.isSome)) == [true]) := by
  unfold plainRun
  decide +kernel

/-- Outstanding scalar words: one that has nothing more to do; a store and an atomic that have not performed, the atomic at a
home that must wait. -/
def lateAtomic : OutKind := .deferred .atomic { word := .satom 1 2 1 0 0 0 1, waddr := 0x10000 } 8 0 [(0, .mem 0x10040 true [])] []
def lateStore : OutKind := .deferred .write { word := .sst 3 2 1 3 0, waddr := 0x10000 } 8 0 [(0, .mem 0x10040 true [])] []

theorem test_late_words_meet : ran (exec (.longLatencyComplete (.group 0 0 0) 0) (outstanding atS .done)) (fun t => t.me.out == []) ∧
    scalarShape (.satom 1 2 1 0 0 0 1) = some (8, .atomic 0 1) ∧ scalarShape (.sst 3 2 1 3 0) = some (8, .store) ∧
    (lateScalar (outstanding atS lateAtomic) ⟨0, 0, 0⟩ { word := .satom 1 2 1 0 0 0 1, waddr := 0x10000 } 8 0 (.mem 0x10040 true [])
      (.atomic 0 1)).isSome = true ∧
    (let s : State := { outstanding atS lateAtomic with dir := [(0x10040 / 128, { host := .s })] }
     lateScalar s ⟨0, 0, 0⟩ { word := .satom 1 2 1 0 0 0 1, waddr := 0x10000 } 8 0 (.mem 0x10040 true []) (.atomic 0 1) = none) ∧
    ran (exec (.longLatencyComplete (.group 0 0 0) 0) (outstanding atS lateStore)) (fun t => t.me.out == [] && t.pend.length == 1) ∧
    ran (exec (.longLatencyComplete (.lane 0 0 0 0) 0) (laneOut (.deferred .read { word := .ld { byBase 0 with vd := 3 }, mask := 3 } 4 0 []
      [(0, 5), (1, 6)]))) (fun t => (t.group ⟨0, 0, 0⟩).vreg 3 1 == 6) := by decide +kernel

/-- A run of two elements that have performed ahead of the chit's first; a chit of which a transfer is not acknowledged. -/
def ahead : Chit := { begun with part := [2, 3], checked := 1 }

theorem test_chit_pick_meets : 0 < layW ahead.lay ∧ ahead.pos < layTw ahead.lay * ahead.rows ∧ ahead.pos ∉ ahead.part ∧
    (let p := (chitted ahead).chitPick ahead
     (p.2.1, p.2.2) = (0, 2)) ∧ (ahead.did 0 2).pos = 4 ∧
    (let s := { chitted { begun with finished := true } with peerOut := [{ src := ⟨0, 0⟩, idx := 0 }] }
     (∃ p ∈ s.peerOut, p.src = ⟨0, 0⟩ ∧ p.idx = 0) ∧ ran (exec (.chitComplete 0 0 0) s) (fun t => (t.wg ⟨0, 0⟩).chits.length == 1)) ∧
    (chitted { bits := g2s }).spPoisonAt ⟨0, 0⟩ ((chitted {}).grid 0 |>.k.layAt 0) 64 = none ∧
    (onWg (chitted { bits := g2s }) fun x => { x with drawn := 2 }).engineCovered ⟨0, 0⟩ = false := by decide +kernel

/-- A declined access of every holder; of a scalar word whose stream has an earlier word outstanding, and of one whose context
is away. -/
def behindWord : State := onMe (held1 (.scalar (.group 0 0 0))) fun q =>
  { q with out := [{ pc := 0x10000, left := 0, kind := .done }, { pc := 0x10000, left := 0, kind := .paged 1 }] }
def laneHeld : State := onGroup (held1 (.lane ⟨0, 0, 0⟩ 1)) fun y => { y with
  log := [{ handle := 1, word := .ld {}, waddr := 0x10000, frag := some 0, mask := 1, pageLanes := 1 }] }

theorem test_declined_meets :
    (((held1 (.scalar (.group 0 0 0))).seq (.group 0 0 0)).out.head?.map (·.kind)) = some (.paged 1) ∧
    (behindWord.seq (.group 0 0 0)).out ≠ [] ∧ ((behindWord.seq (.group 0 0 0)).out.head?.map (·.kind)) ≠ some (.paged 1) ∧
    (held1 (.fetch (.group 0 0 0))).outs (.group 0 0 0) ≠ [] ∧ (serving (.fetch (.group 0 0 0))).outs (.group 0 0 0) = [] ∧
    laneHeld.outs (.lane 0 0 0 0) = [] ∧ laneHeld.holderHere (heldBy (.lane ⟨0, 0, 0⟩ 1)) = true ∧
    (away (.scalar (.group 0 0 0))).holderHere (heldBy (.scalar (.group 0 0 0))) = false ∧
    ran (exec (.replayDeclined 1) laneHeld) killed ∧
    ran (exec (.replayDeclined 1) behindWord) (fun t => (t.holds.map fun x => (x.2.ready, x.2.declined)) == [(true, true)]) ∧
    ran (exec (.replayDeclined 1) { held1 (.host 7) with hostWait := [(7, .read 0 0 0 1 .rlx)] }) (fun t => t.hostWait == [] && t.holds == []) ∧
    ran (exec (.replayDeclined 1) (held1 (.front true 1))) (fun t => (t.holds.map (·.2.declined)) == [true]) ∧
    ran (exec (.replayDeclined 1) (handled (held1 (.tile ⟨0, 0, 0⟩ 1)))) (fun t => (t.wg ⟨0, 0⟩).hcause.cause % 128 == 9) ∧
    ran (exec (.replayDeclined 1) (handled (held1 (.chit ⟨0, 0⟩ 0)))) (fun t => (t.wg ⟨0, 0⟩).hcause.cause % 128 == 9) := by
  decide +kernel

/-- What the resident workgroup had started must wait for the host, which shares the line of its store. -/
def hostShares (s : State) : State := { s with dir := [(0x10100 / 128, { host := .s })] }

theorem test_stop_meets : (hostShares (storing (serving (.fetch (.group 0 0 0))))).stopCtx 0 = none ∧
    (serving (.fetch (.group 0 0 0))).stopCtx 0 ≠ none ∧ 0 < 64 ∧
    (let s := onWg (serving (.fetch (.group 0 0 0))) fun x => { x with place := .saved }
     (s.wg ⟨0, 0⟩).place ≠ .resident) := by decide +kernel

/-- Writes at their home in turn: the second waits behind the first to its line; a request that follows one that waits; the host
alone at a line; firmware in its window. -/
def twoHosted : State := { atS with hostPend := [{ agent := 1, pa := 0x10100, data := [1] }, { agent := 1, pa := 0x10101, data := [2] },
  { agent := 2, rel := true, pa := 0x10200, data := [3] }] }
def hostWaits : State := { atS with hostWait := [(1, .read 0 0 0x10040 1 .acq)] }
def windowed : State := { atS with fe := { atS.fe with windows := [(3, (0x10000, 0x1000))] } }

theorem test_requests_meet : nothingWaits twoHosted ∧ unshared twoHosted 0x10100 1 ∧ unshared twoHosted 0x10200 1 ∧
    ran (exec (.writePerform 0) twoHosted) (fun t => t.hostPend.length == 2 && t.memNat 0x10100 1 == 1) ∧
    ran (exec (.writePerform 1) twoHosted) (fun t => t == twoHosted) ∧
    ran (exec (.writePerform 2) twoHosted) (fun t => t.hostPend.length == 2 && t.memNat 0x10200 1 == 3) ∧
    nothingWaits hostWaits ∧ reqFollows (.write 0 0 0x20000 1 9 .rlx) (.read 0 0 0x10040 1 .acq) = true ∧
    reqFollows (.write 1 0 0x20000 1 9 .rlx) (.read 0 0 0x10040 1 .acq) = false ∧
    (∃ x ∈ twoHosted.hostPend, ∃ l ∈ linesOf x.pa x.data.length, l ∈ linesOf 0x10104 1) ∧
    ran (exec (.hostRequest (.read 0 0 0x10104 1 .rlx)) twoHosted) (fun t => t.hostWait.length == 1) ∧
    atS.storeWaits (0x10040 / 128) = false ∧ (0x10040 / 128) / 2 ^ 44 % 2 = 0 ∧
    ran (exec (.hostRequest (.own (0x10040 / 128) true)) (shared atS (0x10040 / 128))) (fun t => (t.dirEnt (0x10040 / 128)).host == .m) ∧
    ran (exec (.hostRequest (.peerAck 0)) { atS with peerOut := [{ idx := 1 }] }) (fun t => t.peerOut == []) ∧
    windowed.trust.pmp = true ∧ unshared windowed 0x10100 1 ∧
    ran (exec (.hostRequest (.firmWrite 2 (65536 + 0x10100) 1 9)) windowed) (fun t => t.memNat 0x10100 1 == 9) ∧
    ran (exec (.hostRequest (.firmWrite 2 (65536 + 0x11000) 1 9)) windowed) (fun t => t.memNat 0x11000 1 == 0) ∧
    ran (exec (.hostRequest (.firmWrite 0 0x10100 1 9)) { atS with trust := { atS.trust with pmp := false } }) (fun t => t.mem == atS.mem) := by
  unfold nothingWaits unshared quiet
  decide +kernel

theorem willing_of {s : State} (h : (s.wgs.all fun x => decide (x.2.areaUsed < Config.staleEvict)) = true) : willing s := by
  intro w
  unfold State.wg agetD
  cases e : aget? s.wgs w with
  | none => exact (by decide : ({} : Wg).areaUsed < Config.staleEvict)
  | some x => simpa using List.all_eq_true.1 h _ (aget?_mem e)

theorem test_unused_meets : unusedBy sharing (fun g => sharing.wgAgent g.wg = .block 0 0) (0x10100 / 128) ∧
    unusedBy atS (fun _ => True) 5 ∧ (∀ g ∈ atS.groups, atS.owes g.1 = false) ∧ atS.pend = [] ∧ atS.hostPend = [] ∧
    (∀ x ∈ atS.groups, atS.groupOuts x.1 = []) ∧ willing atS ∧ willing parted ∧ willing (waked 0) ∧
    (waked 0).fe.missIn = [] ∧ (waked 0).fe.hostMiss.lg = 0 ∧ (waked 0).wgs = [] ∧ (waked 0).peerOut = [] := by
  unfold unusedBy
  exact ⟨by decide +kernel, by decide +kernel, by decide +kernel, by decide +kernel, by decide +kernel, by decide +kernel,
    willing_of (by decide +kernel), willing_of (by decide +kernel), willing_of (by decide +kernel), by decide +kernel⟩

/-- A store of four bytes to the aperture; a boot that stopped; a queue of another function. -/
theorem test_wake_drops_meet : fronted.fe.missIn = [] ∧ State.reset.trust.bootStopped = false ∧ (fronted.queue 1).vf = 0 ∧
    (let s := { fronted with fe := { fronted.fe with stage2 := [((0, 5), 2 ^ 31 + 2)] } }
     s.stageOne 0 5 = some 5 ∧ stageEntry (agetD 0 s.fe.stage2 (0, 5)) = some 2 ∧ (s.queue 2).en = false) ∧
    (let s := { fronted with trust := { fronted.trust with bootStopped := true } }
     ran (exec (.wakeWrite 0 40 8 0x10100) s) (fun t => t.fe.wakes == [])) := by decide +kernel

/-- A node whose object stands on a page that the host declined. -/
def codeDeclined : State := let s := queuedNode codeObject
  { s with fe := { s.fe with nodes := [{ pooledNode with bits := pooledNode.bits + 0x10000 * 2 ^ 64 }] }
           holds := [(1, { who := .front false 3, va := 0x20000, declined := true })] }

theorem test_declined_object_meets : (codeDeclined.poolHead).map (fun x => x.bits / 2 ^ 64 % 2 ^ 57) = some 0x20000 ∧
    codeDeclined.heldFor (.front false 3) = false ∧
    (match codeDeclined.readObject (.front false 3) 0 0x20000 false with | .fault .. => true | _ => false) = true ∧
    ran (exec .dispatch codeDeclined) (fun t => (t.fe.nodes.map (·.st)) == [.failed]) ∧
    (∀ x ∈ atS.wgs, x.2.image = 0 ∧ x.2.owed = [] ∧ ∀ g ∈ atS.groupsOf x.1, atS.owes g = false) ∧
    (match (toPlace.addWg 0 0 0 0 ⟨0, 0, 0⟩).giveImage ⟨0, 0⟩ with | some t => (t.wg ⟨0, 0⟩).image == 0x200000 | none => false) = true := by
  decide +kernel

/-- A command of OP 6, one with a reserved bit set, one of another die, one of no core: what the porter checks. -/
theorem test_porter_checks_meet : ((portered 6 atS).die 0).porterPost = none ∧ ((portered 6 atS).die 0).porterQ = [] ∧
    (commandOf (portered 6 atS) 0).op = 6 ∧ (commandOf (portered 3 atS) (2 ^ 60)).bad = true ∧
    (let s := atS.modDie 0 fun d => { d with porterLow := cmdLow 3 + 2 ^ 34 }; (commandOf s 0).lead.die = 1) ∧
    (let s := atS.modDie 0 fun d => { d with porterLow := 3 + 2 ^ 18 }; (commandOf s 0).pw = 0) ∧ 0 < atS.dies.length ∧
    ran (exec (.porterSpill 0 0) (portered 5 atS)) (fun t => t == portered 5 atS) := by decide +kernel

/-- The image table names nothing that a workgroup has; and an image of one beside a free one. -/
def fresh1 : State := portered 1 (tabled (atS.modGrid 0 fun g => { g with npitch := 2, placed := 1 }))
def stagedOnly : State := portered 2 (placeAs .staged atS)
/-- The staged pitch stands behind one of which only a part is on the rectangle. -/
def partly : State := portered 2 (((atS.setPitch 0 0 { wgs := [0, 2] }).setPitch 0 1 { wgs := [1] }).setWg ⟨0, 1⟩
  { place := .staged, pitch := 1, gidx := 1, image := 0x40000 })

theorem test_porter_fails_meet :
    (let s := fresh1
     let p := commandOf s 0x20000
     let u := holding s 0 [p.n]
     PorterTakes s 0 0x20000 1 p ∧ u.asPitch (u.namedBy p) = none ∧ ∀ z ∈ u.namedBy p, z = none) ∧
    (let s := portered 1 (placeAs .saved (tabled (atS.setPitch 0 0 { wgs := [0, 2] })))
     let p := commandOf s 0x20000
     let u := holding s 0 [p.n]
     PorterTakes s 0 0x20000 1 p ∧ u.asPitch (u.namedBy p) = none ∧ ∃ z ∈ u.namedBy p, z ≠ none) ∧
    (let s := portered 2 atS
     let p := commandOf s 0
     PorterTakes s 0 0 2 p ∧ (holding s 0 [p.n]).pitchOn p.cores .staged = none) ∧
    (let s := partly
     let p := commandOf s 0
     let u := holding s 0 [p.n]
     PorterTakes s 0 0 2 p ∧ u.pitchOn p.cores .staged = some [⟨0, 1⟩] ∧ u.pitchOn p.cores .resident = none ∧
       ∃ c ∈ p.cores, u.residentOn c ≠ none) ∧
    (let s := onWg stagedOnly fun x => { x with drawn := 2000 }
     let p := commandOf s 0
     let u := holding s 0 [p.n]
     PorterTakes s 0 0 2 p ∧ u.pitchOn p.cores .staged = some [⟨0, 0⟩] ∧ (∀ c ∈ p.cores, u.residentOn c = none) ∧
       (s.die 0).poolFree < ((s.wg ⟨0, 0⟩).drawn : Int)) ∧
    (let p := commandOf stagedOnly 0
     let u := holding stagedOnly 0 [p.n]
     u.walkWaits ⟨0, 0⟩ = false ∧ ∀ x ∈ u.holds, x.2.ready = false) := by
  refine ⟨⟨takes_of (by decide +kernel) (by decide +kernel) (by decide +kernel) (by decide +kernel) (by decide +kernel), by decide +kernel⟩,
    ⟨takes_of (by decide +kernel) (by decide +kernel) (by decide +kernel) (by decide +kernel) (by decide +kernel), by decide +kernel⟩,
    ⟨takes_of (by decide +kernel) (by decide +kernel) (by decide +kernel) (by decide +kernel) (by decide +kernel), by decide +kernel⟩,
    ⟨takes_of (by decide +kernel) (by decide +kernel) (by decide +kernel) (by decide +kernel) (by decide +kernel), by decide +kernel⟩,
    ⟨takes_of (by decide +kernel) (by decide +kernel) (by decide +kernel) (by decide +kernel) (by decide +kernel), by decide +kernel⟩, by decide +kernel⟩

theorem test_porter_saves_meet :
    (let s := portered 3 atS
     let p := commandOf s 0
     let u := holding s 0 [p.n]
     PorterTakes s 0 0 3 p ∧ u.pitchOn p.cores .resident = some [⟨0, 0⟩] ∧ u.imagesOk p [⟨0, 0⟩] = false) ∧
    (let s := portered 3 (hostShares (storing (tabled atS)))
     let p := commandOf s 0x20000
     let u := holding s 0 [p.n]
     PorterTakes s 0 0x20000 3 p ∧ u.pitchOn p.cores .resident = some [⟨0, 0⟩] ∧ u.imagesOk p [⟨0, 0⟩] = true ∧
       u.spillAll p [⟨0, 0⟩] = none) ∧
    (let s := portered 3 (placeAs .saved atS)
     (holding s 0 [(commandOf s 0).n]).pitchOn (commandOf s 0).cores .resident = none) ∧
    (let s := portered 4 atS
     (holding s 0 [(commandOf s 0).n]).pitchOn (commandOf s 0).cores .staged = none) ∧
    ran (exec (.porterSpill 0 0) (portered 3 atS)) (fun t => (t.wg ⟨0, 0⟩).place == .resident && (t.die 0).porterQ == []) := by
  refine ⟨⟨takes_of (by decide +kernel) (by decide +kernel) (by decide +kernel) (by decide +kernel) (by decide +kernel), by decide +kernel⟩,
    ⟨takes_of (by decide +kernel) (by decide +kernel) (by decide +kernel) (by decide +kernel) (by decide +kernel), by decide +kernel⟩,
    by decide +kernel⟩

/-- KILL of a pitch by its rectangle, of prepared images, of images of which a workgroup has one, and of nothing. -/
theorem test_kills_meet :
    (let s := portered 5 (tabled atS)
     let p := commandOf s 0x20000
     let u := holding s 0 [p.n]
     u.asPitch (u.namedBy p) = none ∧ ((List.range p.cores.length).map (u.imageAt p)).filter (· != 0) = [0x40000] ∧
       (∀ z ∈ u.namedBy p, z = none) ∧
       ran (exec (.porterKill 0 0x20000) s) (fun t => bits (t.memNat 0x40000 128) 31 29 == 4 && (t.wg ⟨0, 0⟩).place == .resident)) ∧
    (let s := portered 5 (placeAs .saved (tabled (atS.setPitch 0 0 { wgs := [0, 2] })))
     let p := commandOf s 0x20000
     let u := holding s 0 [p.n]
     u.asPitch (u.namedBy p) = none ∧ ∃ z ∈ u.namedBy p, z ≠ none) ∧
    (let s := portered 5 atS
     let p := commandOf s 0
     let u := holding s 0 [p.n]
     u.asPitch (u.namedBy p) = none ∧ ((List.range p.cores.length).map (u.imageAt p)).filter (· != 0) = [] ∧
       [Place.resident, .dying, .staged, .saved, .noframe].findSome? (u.pitchOn p.cores) = some [⟨0, 0⟩] ∧ settled u ⟨0, 0⟩) ∧
    (let s := portered 5 State.reset
     let p := commandOf s 0
     [Place.resident, .dying, .staged, .saved, .noframe].findSome? ((holding s 0 [p.n]).pitchOn p.cores) = none) := by
  unfold settled
  decide +kernel

/-- A field repair of a way and of a row that have not been repaired; chiplet and core numbers at their ends. -/
theorem test_repairs_meet : ((31 : Nat), (15 : Nat)) ∉ (parted.die 0).retiredWays ∧ 77 ∉ (parted.die 0).repairedRows ∧
    (∀ q ∈ parted.pend, (parted.wg q.src).core ≠ ⟨0, 11, 11⟩) ∧ parted.residentOn ⟨0, 11, 11⟩ = none ∧
    ran (exec (.l2WayRetire 0 31 15) parted) (fun t => (t.die 0).retiredWays == [(31, 15)] && (t.die 0).gen == (parted.die 0).gen + 1) ∧
    ran (exec (.cacheChipletGating 0 2) parted) (fun t => t == parted) ∧
    ran (exec (.coreGating ⟨0, 12, 0⟩) parted) (fun t => t == parted) ∧
    (7 : Nat) < 2 ^ 33 ∧ 7 / 2 ^ 31 < State.reset.dies.length ∧ (State.reset.die (7 / 2 ^ 31)).errRing.lg = 0 := by decide +kernel

/-- A check of an object waits for its page, or finds it declined; where the free context has no root, nothing is copied. -/
def checkingNow : State := { monitored with trust := { monitored.trust with checking := some (1, 0x10000) } }
def rootless : State := { monitored with fe := { monitored.fe with troots := [] } }
def objectDeclined : State := { monitored with holds := [(1, { who := .front false (2 ^ 64 + 1), va := 0x20000, declined := true })] }

theorem test_checks_wait_meet :
    (match monitored.readObject (.front false (2 ^ 64 + 1)) 0 0x20000 false with | .wait _ => true | _ => false) = true ∧
    (match objectDeclined.readObject (.front false (2 ^ 64 + 1)) 0 0x20000 false with | .fault .. => true | _ => false) = true ∧
    checkingNow.trust.checking ≠ none ∧ ran (exec (.checkCodeObject 1 0x10000) checkingNow) (fun t => t == checkingNow) ∧
    (rootless.freeCtx.filter fun c => (aget? rootless.fe.troots c).isSome) = none ∧
    (monitored.freeCtx.filter fun c => (aget? monitored.fe.troots c).isSome) = some 0 ∧
    ran (exec (.checkCodeObject 1 0x10000) rootless) (fun t => t.trust.result == 0) ∧
    ran (exec (.checkCodeObject 1 0x20000) monitored) (fun t => t.trust.checking == some (1, 0x20000)) := by decide +kernel

end Sys2Proof.Tests
end

section
/-!
SUPPORT. Control words: a word that passes its checks has its own effect, the frame of a register write, and what a wait
on timelines or tags does, by its condition and the held reports. Settles O12 and O20.
-/
namespace Sys2Proof.Machine

open Sys2Proof.Claims

/-! ### Executing a control word -/

/-- A word that passes the checks of R65 and reads no register in error has its own effect. -/
theorem exec_of_legal {i : Instr} {s : State} {l : Lvl} {f : Lvl → State} (hx : exec i s = ctl i s f)
    (h : Legal i s l) : exec i s = .next (f l) := by
  obtain ⟨hl, hc, hr⟩ := h
  rw [hx, ctl_next f hl hc hr]

@[simp] theorem State.waitAt_eq_waitsAt (s : State) (i : Instr) (vals : List Word) :
    s.waitAt i vals = waitsAt s i vals := rfl

section
variable (s : State) (i : Instr) (vals : List Word)

@[simp] theorem waitsAt_cur : (waitsAt s i vals).cur = s.cur := rfl
@[simp] theorem waitsAt_group (g : GrpId) : (waitsAt s i vals).group g = s.group g := rfl
@[simp] theorem waitsAt_wg (w : WgId) : (waitsAt s i vals).wg w = s.wg w := rfl
@[simp] theorem waitsAt_grpId (a : Agent) : (waitsAt s i vals).grpId a = s.grpId a := by cases a <;> rfl
@[simp] theorem waitsAt_seq : (waitsAt s i vals).seq s.cur =
    { s.me with run := .waiting, held := some i, vals := vals, decided := false } := by
  simp [waitsAt, State.me]

end

/-! ### Bits of numbers -/

theorem natBit_eq_testBit (n i : Nat) : natBit n i = n.testBit i := by
  rw [Nat.testBit_eq_decide_div_mod_eq, natBit, beq_eq_decide]

/-- `lowestBit` finds the lowest one bit below `w`, and is `w` when there is none. -/
theorem lowestBit_spec (w n : Nat) :
    lowestBit w n ≤ w ∧ (∀ j, j < lowestBit w n → n.testBit j = false) ∧
      (lowestBit w n < w → n.testBit (lowestBit w n) = true) := by
  induction w generalizing n with
  | zero => simp [lowestBit]
  | succ w ih =>
    obtain ⟨hle, hlow, hbit⟩ := ih (n / 2)
    unfold lowestBit
    split
    · next h => simp [Nat.testBit_zero, h]
    · next h =>
      refine ⟨by omega, fun j hj => ?_, fun hlt => ?_⟩
      · cases j with
        | zero => simpa [Nat.testBit_zero] using h
        | succ j => rw [Nat.testBit_succ]; exact hlow j (by omega)
      · rw [Nat.testBit_succ]; exact hbit (by omega)

/-- The first element that meets a test, the earlier ones failing it. -/
theorem find?_of_split {α : Type} {p : α → Bool} {pre post : List α} {r : α} (hpre : ∀ z ∈ pre, p z = false)
    (hr : p r = true) : (pre ++ r :: post).find? p = some r := by
  rw [List.find?_append, List.find?_eq_none.2 (by simpa using hpre)]
  simp [hr]

/-! ### Register writes -/

/-- Writing s(d) and going on changes what the frame of a register write lists, and nothing else. -/
theorem wroteReg_putReg (s : State) (d : Nat) (v : Word) (m : Bool) : WroteReg s (s.putReg d v m) d v m := by
  have hme : (s.putReg d v m).me = (s.me.writeReg d v m).adv := State.seq_modSeq s s.cur _
  refine ⟨⟨rfl, fun a ha => State.seq_modSeq_ne s s.cur a _ ha⟩, ?_⟩
  rw [hme]
  refine ⟨?_, ?_, fun l f hf => ?_, fun l h0 hh => ?_, fun l => rfl, fun r => ?_⟩
  · unfold Seq.writeReg
    split <;> rfl
  · unfold Seq.writeReg
    split <;> rfl
  · rw [Seq.readReg_adv, Seq.mark_adv, Seq.readReg_writeReg, Seq.mark_writeReg]
    simp [hf]
  · rw [Seq.readReg_adv, Seq.mark_adv, Seq.readReg_writeReg, Seq.mark_writeReg]
    have h1 : d ≠ h0Code l := by omega
    have h2 : d ≠ h0Code l + 1 := by omega
    simp [h0, h1, h2, hh]
  · change r ∈ (s.me.writeReg d v m).badRegs ↔ _
    unfold Seq.writeReg
    by_cases h0 : d = 0 <;> simp [h0]

/-! ### Windows (R123) -/

/-- BIND whose translation is complete binds the window. -/
theorem State.bindNow_ok {s s1 : State} {a : Agent} {n va since : Nat} {tr : Trans}
    (h : s.access (s.space a) va .bindOnly = (s1, .ok tr)) :
    s.bindNow a n va since = (s1.modGroup (s1.grpId a) fun y => { y with
      win := aput y.win n (boundTo tr va since) }).resumeNext a := by
  unfold State.bindNow
  rw [h]
  rfl

/-- BIND faults by its address, or waits for its translation. -/
theorem exec_bind {n : BitVec 3} {a : BitVec 6} {s : State} {l : Lvl} (h : Legal (.bind n a) s l) :
    exec (.bind n a) s = .next (
      let va := (s.me.readReg l a.toNat).toNat
      let since := cget 0 s.me.known a.toNat
      if 2 ^ 57 ≤ va then s.fault 0x0A va
      else (waitsAt s (.bind n a) [BitVec.ofNat 64 va, BitVec.ofNat 64 since]).bindNow s.cur n.toNat va since) := by
  rw [exec_of_legal (f := fun l => _) rfl h]
  have hiff (x : Nat) : x / 2 ^ 57 ≠ 0 ↔ 2 ^ 57 ≤ x := by simp [Nat.div_eq_zero_iff]
  simp only [hiff, State.waitAt_eq_waitsAt]
  rfl

/-! ### What a waiting word does (R132, R133, R434) -/

section
variable {s : State} {a : Agent} {i : Instr} (hheld : (s.seq a).held = some i)
include hheld

/-- A wait stays while an earlier read of its stream has not returned (R288). -/
theorem State.waitNow_of_reading (hr : ∃ o ∈ (s.seq a).out, o.reading = true) : s.waitNow a = s := by
  unfold State.waitNow
  simp [hheld, hr]

/-- A wait whose condition holds delivers the oldest report that it covers, or goes on. -/
theorem State.waitNow_of_holds {imm : BitVec 20} {tl : BitVec 2} {r : BitVec 6} (hi : i ∈ waitWords imm tl r)
    (ha : s.cur = a) (hr : ∀ o ∈ (s.seq a).out, o.reading = false) (hd : (s.seq a).decided = false)
    (hw : s.waitHolds a i = true) :
    s.waitNow a =
      let g := s.grpId a
      let x := decidedAt s ((s.seq a).latched 0) (s.wg g.wg).tags
      ((s.group g).reports.find? (x.covers a i)).elim (waited x a i) (x.deliver g) := by
  subst ha
  have hany : (s.seq s.cur).out.any (·.reading) = false := by simpa using hr
  have hx : (s.modSeq s.cur fun q => { q with
      decided := true, vals := [q.latched 0, (s.wg (s.grpId s.cur).wg).tags] }) =
    decidedAt s ((s.seq s.cur).latched 0) (s.wg (s.grpId s.cur).wg).tags := rfl
  have hg (v u : Word) : (decidedAt s v u).group (s.grpId s.cur) = s.group (s.grpId s.cur) := rfl
  unfold State.waitNow
  simp only [hheld, hany, hd, hw, Bool.false_eq_true, if_false, false_or, if_true]
  rw [hx, hg]
  simp only [waitWords, List.mem_cons, List.not_mem_nil, or_false] at hi
  rcases hi with rfl | rfl | rfl | rfl <;>
    cases (s.group (s.grpId s.cur)).reports.find? _ <;> rfl

/-- A wait whose condition fails stays, or delivers the oldest report when what it waits for is kept back. -/
theorem State.waitNow_of_not_holds (hr : ∀ o ∈ (s.seq a).out, o.reading = false) (hd : (s.seq a).decided = false)
    (hw : s.waitHolds a i = false) :
    s.waitNow a =
      let g := s.grpId a
      (s.group g).reports.head?.elim s fun r =>
        if ((s.keptBack g).1 ++ (s.keptBack g).2).any fun z => s.waitsFor a i z.key then s.deliver g r else s := by
  have hany : (s.seq a).out.any (·.reading) = false := by simpa using hr
  unfold State.waitNow
  simp only [hheld, hany, hd, hw, Bool.false_eq_true, if_false, false_or]
  cases (s.group (s.grpId a)).reports <;> rfl

end

/-! ### The model's tests and the statement's conditions -/

/-- The timeline that each code names (R60). -/
theorem State.timeline_eq (s : State) (g : GrpId) (tl : BitVec 2) : s.timeline g tl.toNat =
    if tl = 0 then (s.wg g.wg).tlc (s.group g) g.g else if tl = 1 then (s.group g).tlm else (s.wg g.wg).tlx := by
  have hcodes : tl = 0 ∨ tl = 1 ∨ tl = 2 ∨ tl = 3 := by revert tl; decide
  rcases hcodes with rfl | rfl | rfl | rfl <;> rfl

/-- What is kept back behind eight reports (R312). -/
theorem keptBackKey_iff {s : State} (k : RKey) :
    keptBackKey s k ↔ ∃ r ∈ (s.keptBack (own s)).1 ++ (s.keptBack (own s)).2, r.key = k := by
  unfold keptBackKey State.keptBack
  by_cases h : (s.group (own s)).reports.length < 8
  · simp [h]
  · have h8 : 8 ≤ (s.group (own s)).reports.length := by omega
    simp only [h, if_false, h8, true_and, List.mem_append, List.mem_filterMap, List.mem_filter, beq_iff_eq, and_assoc,
      and_comm]

section
variable {s t : State} {v : Word} {i : Instr} {imm : BitVec 20} {tl : BitVec 2} {a : BitVec 6}
  (hi : i ∈ waitWords imm tl a)
include hi

/-- What a wait waits for, at any state whose group and latched operand are those of `s`. -/
theorem waitsFor_iff (hg : t.group (t.grpId s.cur) = s.group (own s)) (hv : (t.seq s.cur).latched 0 = v) (k : RKey) :
    t.waitsFor s.cur i k = true ↔ awaited s v i k := by
  unfold State.waitsFor
  simp only [hg, hv]
  simp only [waitWords, List.mem_cons, List.not_mem_nil, or_false] at hi
  rcases hi with rfl | rfl | rfl | rfl
  · cases k with
    | tile n => simp [awaited]
    | chit b te tag rem =>
      simp only [awaited, Bool.and_eq_true, decide_eq_true_eq, and_congr_right_iff]
      intro hlt
      omega
  · cases k with
    | tile n => simp [awaited]
    | chit b te tag rem => cases rem <;> simp [awaited]
  · cases k <;> simp [awaited, natBit_eq_testBit]
  · cases k <;> simp [awaited, natBit_eq_testBit]

/-- What a wait covers, the tags that it found being latched. -/
theorem covers_iff (hg : t.group (t.grpId s.cur) = s.group (own s)) (hv : (t.seq s.cur).latched 0 = v)
    (ht : (t.seq s.cur).latched 1 = (s.wg (own s).wg).tags) (r : Report) :
    t.covers s.cur i r = true ↔ coveredBy s v i r.key := by
  unfold State.covers coveredBy
  rw [Bool.and_eq_true, waitsFor_iff hi hg hv, ht]
  simp only [waitWords, List.mem_cons, List.not_mem_nil, or_false] at hi
  rcases hi with rfl | rfl | rfl | rfl <;> cases r.key <;> simp [natBit_eq_testBit]

/-- The condition of a wait, as the waiting stream tests it. -/
theorem waitHolds_iff (rd : BitVec 6 → Word) :
    (waitsAt s i (waitOperand rd i)).waitHolds s.cur i = true ↔ waitMet s rd i := by
  simp only [waitWords, List.mem_cons, List.not_mem_nil, or_false] at hi
  rcases hi with rfl | rfl | rfl | rfl
  · simp [State.waitHolds, waitMet, own]
    omega
  · simp [State.waitHolds, waitMet, own, State.timeline_eq, waitOperand, Seq.latched]
  · simp [State.waitHolds, waitMet, own, waitOperand, Seq.latched]
  · simp [State.waitHolds, waitMet, own, waitOperand, Seq.latched]

end

/-! ### A wait from its issue on -/

theorem waitsAt_latched (s : State) (i : Instr) (vals : List Word) :
    ((waitsAt s i vals).seq s.cur).latched 0 = vals.headD 0 := by
  rw [waitsAt_seq]
  exact (List.headD_eq_getD ..).symm

theorem decidedAt_latched (s : State) (v u : Word) : ((decidedAt s v u).seq s.cur).latched 0 = v ∧
    ((decidedAt s v u).seq s.cur).latched 1 = u := by
  rw [decidedAt, State.seq_modSeq]
  exact ⟨rfl, rfl⟩

section
variable {imm : BitVec 20} {tl : BitVec 2} {a : BitVec 6} {s : State} {i : Instr} (hi : i ∈ waitWords imm tl a)
include hi

/-- A wait waits at its word with its operand, and goes on from there. -/
theorem exec_wait {l : Lvl} (h : Legal i s l) :
    exec i s = .next ((waitsAt s i (waitOperand (fun f => s.me.readReg l f.toNat) i)).waitNow s.cur) := by
  simp only [waitWords, List.mem_cons, List.not_mem_nil, or_false] at hi
  rcases hi with rfl | rfl | rfl | rfl
  · exact exec_of_legal (f := fun _ => _) rfl h
  · exact exec_of_legal (f := fun l => (s.waitAt (.waitt tl a) [s.me.readReg l a.toNat]).waitNow s.cur) rfl h
  · exact exec_of_legal (f := fun l => (s.waitAt (.waitany a) [s.me.readReg l a.toNat]).waitNow s.cur) rfl h
  · exact exec_of_legal (f := fun l => (s.waitAt (.waitall a) [s.me.readReg l a.toNat]).waitNow s.cur) rfl h

/-- What a word that has just issued waits for. -/
theorem waitsFor_waitsAt (vals : List Word) (k : RKey) :
    (waitsAt s i vals).waitsFor s.cur i k = true ↔ awaited s (vals.headD 0) i k :=
  waitsFor_iff (t := waitsAt s i vals) hi (congrArg s.group (waitsAt_grpId ..)) (waitsAt_latched ..) k

/-- What a word that has just issued, and found its condition, covers. -/
theorem covers_decidedAt (vals : List Word) (r : Report) :
    (decidedAt (waitsAt s i vals) (vals.headD 0) (s.wg (own s).wg).tags).covers s.cur i r = true ↔
      coveredBy s (vals.headD 0) i r.key := by
  obtain ⟨h0, h1⟩ := decidedAt_latched (waitsAt s i vals) (vals.headD 0) (s.wg (own s).wg).tags
  exact covers_iff (t := decidedAt (waitsAt s i vals) _ _) hi (congrArg s.group (waitsAt_grpId s i vals _)) h0 h1 r

variable (rd : BitVec 6 → Word) (hr : ∀ o ∈ s.me.out, o.reading = false)
include hr

/-- A word that finds its condition delivers the oldest report that it covers, or goes on. -/
theorem waitNow_waitsAt_of_met (hm : waitMet s rd i) :
    let vals := waitOperand rd i
    let x := decidedAt (waitsAt s i vals) (vals.headD 0) (s.wg (own s).wg).tags
    (waitsAt s i vals).waitNow s.cur =
      ((s.group (own s)).reports.find? (x.covers s.cur i)).elim (waited x s.cur i) (x.deliver (own s)) := by
  intro vals x
  have hseq := waitsAt_seq s i vals
  rw [State.waitNow_of_holds (s := waitsAt s i vals) (a := s.cur) (by rw [hseq]) hi rfl (by rwa [hseq]) (by rw [hseq])
    ((waitHolds_iff hi rd).2 hm), waitsAt_latched, waitsAt_grpId]
  rfl

/-- A word that does not find its condition waits, or delivers the oldest report when what it waits for is kept back. -/
theorem waitNow_waitsAt_of_not_met (hm : ¬waitMet s rd i) :
    let w := waitsAt s i (waitOperand rd i)
    let kept := s.keptBack (own s)
    w.waitNow s.cur = (s.group (own s)).reports.head?.elim w fun r =>
      if (kept.1 ++ kept.2).any fun z => w.waitsFor s.cur i z.key then w.deliver (own s) r else w := by
  intro w kept
  have hseq := waitsAt_seq s i (waitOperand rd i)
  have hf : w.waitHolds s.cur i = false := by simpa using (waitHolds_iff hi rd).not.2 hm
  rw [State.waitNow_of_not_holds (s := w) (by rw [hseq]) (by rwa [hseq]) (by rw [hseq]) hf, waitsAt_grpId]
  rfl

end

end Sys2Proof.Machine

namespace Sys2Proof.Proofs

open Sys2Proof.Machine Sys2Proof.Claims

/-- Settles O12: the two branches of BIND, by its address. -/
theorem bindTakesItsTranslation : Obligations.BindTakesItsTranslation := by
  unfold Obligations.BindTakesItsTranslation
  intro n a s l h va since w
  constructor
  · intro hva
    rw [exec_bind h]
    exact congrArg _ (if_pos hva)
  · intro s1 tr hva hacc
    rw [exec_bind h, ← State.bindNow_ok hacc]
    exact congrArg _ (if_neg (Nat.not_le.2 hva))

/-- WAITB, WAITT, WAITANY and WAITALL: by the reads that have not returned, the condition, and the held reports. -/
theorem waitsCompleteOnTheirCondition : WaitsCompleteOnTheirCondition := by
  intro imm tl a s l i hi h rd v w x g
  have hx : exec i s = .next (w.waitNow s.cur) := exec_wait hi h
  have hcov (r : Report) : x.covers s.cur i r = true ↔ coveredBy s v i r.key := covers_decidedAt hi _ r
  have hwaits (k : RKey) : w.waitsFor s.cur i k = true ↔ awaited s v i k := waitsFor_waitsAt hi _ k
  refine ⟨fun hr => ?_, fun hr => ⟨fun hm hnone => ?_, fun pre r post hm hreps hpre hr' => ?_, fun hm hkept => ?_,
    fun k r post hm hkept haw hreps => ?_⟩⟩
  · have hseq : w.seq s.cur = _ := waitsAt_seq s i _
    rw [hx, State.waitNow_of_reading (s := w) (i := i) (by rw [hseq]) (by rwa [hseq])]
  · rw [hx, waitNow_waitsAt_of_met hi rd hr hm, List.find?_eq_none.2 fun r hr => (hcov r).not.2 (hnone r hr)]
    rfl
  · rw [hx, waitNow_waitsAt_of_met hi rd hr hm, hreps,
      find?_of_split (fun z hz => by simpa using (hcov z).not.2 (hpre z hz)) ((hcov r).2 hr')]
    rfl
  · have hno : (((s.keptBack g).1 ++ (s.keptBack g).2).any fun z => w.waitsFor s.cur i z.key) = false :=
      List.any_eq_false.2 fun z hz => (hwaits z.key).not.2 (hkept _ ((keptBackKey_iff _).2 ⟨z, hz, rfl⟩))
    rw [hx, waitNow_waitsAt_of_not_met hi rd hr hm, hno]
    cases (s.group g).reports <;> rfl
  · obtain ⟨z, hz, rfl⟩ := (keptBackKey_iff k).1 hkept
    have hyes : (((s.keptBack g).1 ++ (s.keptBack g).2).any fun z => w.waitsFor s.cur i z.key) = true :=
      List.any_eq_true.2 ⟨z, hz, (hwaits z.key).2 haw⟩
    rw [hx, waitNow_waitsAt_of_not_met hi rd hr hm, hyes, hreps]
    rfl

/-- FFR finds the lowest bit of TAGS under its mask; TAGCLR, RWMODE and FLUSHW change one field each. -/
theorem tagAndRewriteWords : TagAndRewriteWords := by
  intro d a k s l w x m
  refine ⟨fun h => ?_, fun h => ?_, fun h => ?_, fun h => ?_⟩
  · obtain ⟨hle, hlow, hbit⟩ := lowestBit_spec 64 m.toNat
    refine ⟨lowestBit 64 m.toNat, hle, fun j hj _ => hlow j hj, hbit, _, ?_, wroteReg_putReg ..⟩
    exact exec_of_legal (f := fun l => s.putReg d.toNat
      (BitVec.ofNat 64 (lowestBit 64 ((s.wg w).tags &&& s.me.readReg l a.toNat).toNat)) (s.me.mark l a.toNat)) rfl h
  · exact exec_of_legal (f := fun l =>
      (s.modWg w fun y => { y with tags := y.tags &&& ~~~(s.me.readReg l a.toNat) }).advance) rfl h
  · exact exec_of_legal (f := fun _ => _) rfl h
  · exact exec_of_legal (f := fun _ => _) rfl h

/-- Settles O20: the waits by their condition and the held reports, the other words by the field that each changes. -/
theorem waitTagAndRewriteWords : Obligations.WaitTagAndRewriteWords :=
  ⟨waitsCompleteOnTheirCondition, tagAndRewriteWords⟩

end Sys2Proof.Proofs
end

section
/-!
SUPPORT. Lane words: what going to the next word leaves alone, the gate of a lane word that passes its checks, and the
frame of the words that write registers or masks in the acting lanes.
-/
namespace Sys2Proof.Machine

open Sys2Proof.Claims

/-! ### What going to the next word leaves alone -/

/-- Two groups have the same vector registers, masks and flags. -/
structure SameRegs (y z : Group) : Prop where
  v : y.v = z.v
  q : y.q = z.q
  fflags : y.fflags = z.fflags

theorem SameRegs.trans {x y z : Group} (h : SameRegs x y) (h' : SameRegs y z) : SameRegs x z :=
  ⟨h.v.trans h'.v, h.q.trans h'.q, h.fflags.trans h'.fflags⟩

@[simp] theorem Group.modFrag_v (g : Group) (f : Nat) (h : Frag → Frag) : (g.modFrag f h).v = g.v := rfl
@[simp] theorem Group.modFrag_q (g : Group) (f : Nat) (h : Frag → Frag) : (g.modFrag f h).q = g.q := rfl
@[simp] theorem Group.modFrag_fflags (g : Group) (f : Nat) (h : Frag → Frag) : (g.modFrag f h).fflags = g.fflags := rfl
@[simp] theorem Group.merge_v (g : Group) (keep gone : Nat) : (g.merge keep gone).v = g.v := by
  unfold Group.merge
  split <;> rfl
@[simp] theorem Group.merge_q (g : Group) (keep gone : Nat) : (g.merge keep gone).q = g.q := by
  unfold Group.merge
  split <;> rfl
@[simp] theorem Group.merge_fflags (g : Group) (keep gone : Nat) : (g.merge keep gone).fflags = g.fflags := by
  unfold Group.merge
  split <;> rfl

/-- Arriving at a join changes fragments and levels only. -/
theorem sameRegs_arrive (g : Group) (f k : Nat) : SameRegs (g.arrive f k) g := by
  induction k generalizing g f with
  | zero => exact ⟨rfl, rfl, rfl⟩
  | succ k ih =>
    unfold Group.arrive
    cases g.frag f with
    | none => exact ⟨rfl, rfl, rfl⟩
    | some x =>
    dsimp only
    cases x.level with
    | none => exact ⟨rfl, rfl, rfl⟩
    | some l =>
    dsimp only
    cases g.level l with
    | none => exact ⟨rfl, rfl, rfl⟩
    | some L =>
    dsimp only
    split
    · exact ⟨rfl, rfl, rfl⟩
    · generalize (List.find? _ _ : Option Frag) = other
      cases other with
      | none =>
        dsimp only
        split
        · exact (ih _ f).trans ⟨rfl, rfl, rfl⟩
        · exact ⟨rfl, rfl, rfl⟩
      | some o =>
        dsimp only
        split
        · exact (ih _ _).trans ⟨by simp, by simp, by simp⟩
        · exact ⟨by simp, by simp, by simp⟩

/-- Going to a word leaves the registers, masks and flags of the group alone. -/
theorem sameRegs_goTo (s : State) (g : GrpId) (f pc : Nat) : SameRegs ((s.goTo g f pc).group g) (s.group g) := by
  unfold State.goTo
  rw [State.group_modGroup]
  obtain ⟨hv, hq, hf⟩ := sameRegs_arrive ((s.group g).modFrag f fun x => { x with pc := pc }) f
    ((s.group g).levels.length + 1)
  exact ⟨hv, hq, hf⟩

/-! ### The gate of a lane word -/

theorem mem_onesOf {w n j : Nat} : j ∈ onesOf w n ↔ j < w ∧ n.testBit j = true := by
  simp [onesOf, natBit_eq_testBit]

theorem mem_acting {y : Group} {lanes : W32} {w : LaneW} {j : Nat} :
    j ∈ lanesOf (y.acting lanes w) ↔
      lanes.getLsbD j = true ∧ (y.mask w.guard.toNat).getLsbD j = !w.gneg := by
  rw [lanesOf, mem_onesOf, BitVec.testBit_toNat, Group.acting]
  by_cases hj : j < 32
  · cases w.gneg <;> simp [hj]
  · simp [hj, BitVec.getLsbD_of_ge lanes j (by omega)]

end Sys2Proof.Machine

namespace Sys2Proof.Claims

open Sys2Proof.Machine

section
variable {i : Instr} {w : LaneW} {s : State} {e : LaneEnv} (h : LaneLegal i w s e)
include h

/-- The acting lanes that `e` names are those of the fragment that the guard passes, ascending. -/
theorem LaneLegal.act_eq : e.act = lanesOf (e.y.acting e.x.lanes w) := by
  obtain ⟨hsorted, hmem⟩ := h.acts
  have hones : (lanesOf (e.y.acting e.x.lanes w)).Pairwise (· < ·) := List.Pairwise.filter _ List.pairwise_lt_range
  exact hsorted.eq_of_mem_iff hones fun j => (hmem j).trans mem_acting.symm

theorem LaneLegal.act_lt {j : Nat} (hj : j ∈ e.act) : j < 32 := by
  rw [h.act_eq] at hj
  exact (mem_onesOf.1 hj).1

/-- A lane word that passes the checks of R65 and reads no register in error has its own effect. -/
theorem LaneLegal.lane_next {c o : Nat} (hi : laneCode i = some (c, o, w)) (f : LaneEnv → State) :
    lane c o w s f = .next (f e) := by
  obtain ⟨-, hcheck⟩ := h.checks c o w hi
  have hclean := h.clean c o w hi
  have hq (n : Nat) (hn : n ∈ maskReads w ((laneSpec c o w).getD {})) : n ∉ e.y.badQ :=
    hclean (.q n) (by simp [laneRefs, hn])
  have hv (n : Nat) (hn : n ∈ vecReads c o w ((laneSpec c o w).getD {})) : n ∉ e.y.badV :=
    hclean (.v n) (by simp [laneRefs, hn])
  have hs (n : Nat) (hn : n ∈ scalarReads w ((laneSpec c o w).getD {})) : n ∉ e.stream.badRegs :=
    hclean (.s n) (by simp [laneRefs, hn])
  have hguard (hg : w.guard ≠ 0) : w.guard.toNat ∉ e.y.badQ := hq _ (by
    have hg0 : ¬w.guard = 0#3 := hg
    simp [maskReads, hg0])
  have hact := h.act_eq
  obtain ⟨g, fi, y, x, act, stream⟩ := e
  obtain ⟨hcur, hy, hx, hstream⟩ : _ ∧ _ ∧ _ ∧ _ := ⟨h.cur, h.group, h.frag, h.stream⟩
  dsimp only at *
  subst hy hstream hact
  unfold lane
  rw [hcur]
  dsimp only
  rw [hx, hcheck]
  dsimp only
  rw [if_neg]
  simp only [List.any_eq_true, List.contains_iff_mem]
  rintro (⟨hg, hbad⟩ | ⟨-, ⟨n, hn, hbad⟩ | ⟨n, hn, hbad⟩ | ⟨n, hn, hbad⟩⟩)
  · exact hguard hg hbad
  · exact hs n hn hbad
  · exact hq n hn hbad
  · exact hv n hn hbad

/-- A change of the group's registers, masks and flags alone, then the next word, has the frame of a lane word. -/
theorem LaneLegal.laneWrote_next {F : Group → Group} {v : Nat → Nat → W32} {q : Nat → W32} {fl : Nat → Nat}
    (hframe : { F e.y with v := e.y.v, q := e.y.q, badV := e.y.badV, badQ := e.y.badQ, fflags := e.y.fflags } = e.y)
    (hbadV : ∀ r ∈ (F e.y).badV, r ∈ e.y.badV) (hbadQ : ∀ r ∈ (F e.y).badQ, r ∈ e.y.badQ)
    (hv : ∀ r j, j < 32 → (F e.y).vreg r j = v r j) (hq : ∀ n, n < 8 → (F e.y).mask n = q n)
    (hfl : ∀ k, (F e.y).fflags.testBit k = true ↔
      e.y.fflags.testBit k = true ∨ ∃ j ∈ e.act, (fl j).testBit k = true) :
    LaneWrote s ((s.modGroup e.g F).laneNext e) e v q fl := by
  have hu : (s.modGroup e.g F).group e.g = F e.y := by rw [State.group_modGroup, h.group]
  obtain ⟨sv, sq, sf⟩ := sameRegs_goTo (s.modGroup e.g F) e.g e.f (e.x.pc + 12)
  rw [hu] at sv sq sf
  refine ⟨⟨s.modGroup e.g F, rfl, rfl, fun g hg => State.group_modGroup_ne s e.g g F hg, ?_⟩, fun r j hj => ?_,
    fun n hn => ?_, fun k => ?_⟩
  · rw [hu]
    exact ⟨hframe, hbadV, hbadQ⟩
  · rw [← hv r j hj, Group.vreg, Group.vreg]
    exact congrArg (cget 0 · _) sv
  · rw [← hq n hn, Group.mask, Group.mask]
    exact congrArg (fun x => if n = 0 then 0xFFFFFFFF else cget 0 x n) sq
  · rw [← hfl k]
    exact iff_of_eq (congrArg (·.testBit k = true) sf)

end

end Sys2Proof.Claims

namespace Sys2Proof.Machine

open Sys2Proof.Claims

/-! ### The checks of a lane word -/

theorem minOff_eq_none {l : List (Nat × Nat)} : minOff l = none ↔ l = [] := by
  cases l with
  | nil => simp [minOff]
  | cons x l =>
    unfold minOff
    cases minOff l with
    | none => simp
    | some y => simp only [reduceCtorEq, iff_false]; split <;> simp

/-- A lane word that passes the checks has a row, and no offence of it. -/
theorem laneCheck_eq_none {nv c o : Nat} {w : LaneW} (h : laneCheck nv c o w = none) :
    ∃ sp, laneSpec c o w = some sp ∧ laneOffences nv c o w sp = [] := by
  unfold laneCheck at h
  cases hs : laneSpec c o w with
  | none => simp [hs] at h
  | some sp =>
    refine ⟨sp, rfl, minOff_eq_none.1 ?_⟩
    cases hm : minOff (laneOffences nv c o w sp) with
    | none => rfl
    | some x => simp [hs, hm] at h

/-- The TYPE of a lane word without offences is one that its row accepts. -/
theorem type_mem_of_offences {nv c o : Nat} {w : LaneW} {sp : LaneSpec} (h : laneOffences nv c o w sp = []) :
    w.ty.toNat ∈ sp.tys := by
  simp only [laneOffences, List.append_eq_nil_iff] at h
  obtain ⟨⟨⟨⟨⟨⟨⟨⟨⟨⟨⟨⟨⟨⟨⟨-, -⟩, -⟩, -⟩, -⟩, -⟩, -⟩, -⟩, hty⟩, -⟩, -⟩, -⟩, -⟩, -⟩, -⟩, -⟩ := h
  split at hty
  · next h0 =>
    rw [beq_iff_eq.1 h0]
    by_contra hne
    simp at hne
    by_cases h15 : w.ty.toNat = 15 <;> simp [h15, hne] at hty
  · simpa using hty

/-! ### Writes of results -/

/-- A bit of numbers put together one after the other. -/
theorem testBit_foldl_or {α : Type} (f : α → Nat) (l : List α) (b k : Nat) :
    (l.foldl (fun a x => a ||| f x) b).testBit k = true ↔ b.testBit k = true ∨ ∃ x ∈ l, (f x).testBit k = true := by
  induction l generalizing b with
  | nil => simp
  | cons x l ih => simp [ih, or_assoc]

/-- Reading after several writes, of which those to the key agree. -/
theorem cget_foldl_cset {α : Type} [DecidableEq α] (d : α) (xs : List (Nat × α)) (m : Cells α) (k : Nat) (v : α)
    (hv : ∀ x ∈ xs, x.1 = k → x.2 = v) :
    cget d (xs.foldl (fun m x => cset d m x.1 x.2) m) k = if ∃ x ∈ xs, x.1 = k then v else cget d m k := by
  induction xs generalizing m with
  | nil => simp
  | cons x xs ih =>
    rw [List.foldl_cons, ih _ fun y hy => hv y (List.mem_cons_of_mem _ hy), cget_cset]
    by_cases hx : x.1 = k
    · have hxv := hv x List.mem_cons_self hx
      simp [hx, hxv]
    · rw [if_neg (Ne.symm hx)]
      exact if_congr (by simp [hx]) rfl rfl

theorem tyPair_iff {t : Nat} : tyPair t = true ↔ t = 3 ∨ t = 7 := by simp [tyPair]

theorem sintN_eq_toInt {w : Nat} (hw : 0 < w) (v : Nat) : sintN w v = (BitVec.ofNat w v).toInt := by
  have h2 : 2 ^ w = 2 * 2 ^ (w - 1) := by rw [← Nat.pow_succ', Nat.succ_eq_add_one, Nat.sub_add_cancel hw]
  rw [BitVec.toInt_eq_toNat_cond, sintN, BitVec.toNat_ofNat]
  have hc : v % 2 ^ w < 2 ^ (w - 1) ↔ 2 * (v % 2 ^ w) < 2 ^ w := by omega
  simp only [hc]

theorem ofNat_mod_two_pow (k n v : Nat) : BitVec.ofNat k (v % 2 ^ n) = (BitVec.ofNat n v).zeroExtend k := by
  apply BitVec.eq_of_toNat_eq
  simp

/-- The low bits of an f19 value are zero (R73). -/
theorem ofNat_clear_low (v : Nat) : BitVec.ofNat 32 (v / 2 ^ 13 * 2 ^ 13) = BitVec.ofNat 32 v &&& 0xFFFFE000 := by
  have hmask : ∀ i, i < 32 → (0xFFFFE000 : W32).getLsbD i = decide (13 ≤ i) := by decide
  apply BitVec.eq_of_getLsbD_eq
  intro i hi
  rw [BitVec.getLsbD_and, hmask i hi, BitVec.getLsbD_ofNat, BitVec.getLsbD_ofNat, Nat.testBit_mul_two_pow]
  by_cases h : 13 ≤ i
  · rw [Nat.testBit_div_two_pow, Nat.sub_add_cancel h]
    simp [h]
  · simp [h]

/-- What a result of type `t` writes (R146): the pair of a 64-bit type, or the value as it stands in a register. -/
theorem resultV_eq {t : Nat} (ht : t ≤ 14) (d j v : Nat) :
    resultV t d j v =
      if t = 3 ∨ t = 7 then [(32 * d + j, BitVec.ofNat 32 v), (32 * (d + 1) + j, BitVec.ofNat 32 (v / 2 ^ 32))]
      else [(32 * d + j, regOf t v)] := by
  have hs (w : Nat) (hw : 0 < w) : BitVec.ofInt 32 (sintN w v) = (BitVec.ofNat w v).signExtend 32 := by
    rw [sintN_eq_toInt hw]; rfl
  have h8 : BitVec.ofNat 32 (v % 256) = (BitVec.ofNat 8 v).zeroExtend 32 := ofNat_mod_two_pow 32 8 v
  have h16 : BitVec.ofNat 32 (v % 65536) = (BitVec.ofNat 16 v).zeroExtend 32 := ofNat_mod_two_pow 32 16 v
  have h32 : BitVec.ofNat 32 (v % 4294967296) = BitVec.ofNat 32 v := by apply BitVec.eq_of_toNat_eq; simp
  have h13 : BitVec.ofNat 32 (v / 8192 * 8192) = BitVec.ofNat 32 v &&& 0xFFFFE000 := ofNat_clear_low v
  interval_cases t <;>
    simp [resultV, tyPair, regOf, atWidth, tyBits, tyInt, hs, h8, h16, h32, h13]

/-- Numbers that agree in `n` bits agree in any fewer. -/
theorem ofNat_congr {k n u v : Nat} (hk : k ≤ n) (h : u % 2 ^ n = v % 2 ^ n) : BitVec.ofNat k u = BitVec.ofNat k v := by
  apply BitVec.eq_of_toNat_eq
  rw [BitVec.toNat_ofNat, BitVec.toNat_ofNat, ← Nat.mod_mod_of_dvd u (Nat.pow_dvd_pow 2 hk), h,
    Nat.mod_mod_of_dvd v (Nat.pow_dvd_pow 2 hk)]

/-- How a value stands in a register is determined by its low bits, as many as its type has. -/
theorem regOf_congr {t u v : Nat} (ht : t ≤ 14) (h : u % 2 ^ typeWidth t = v % 2 ^ typeWidth t) :
    regOf t u = regOf t v := by
  have hk (k : Nat) (hk : k ≤ typeWidth t) : BitVec.ofNat k u = BitVec.ofNat k v := ofNat_congr hk h
  clear h
  interval_cases t <;> simp only [regOf] <;> rw [hk] <;> decide

/-- The writes of a result are those of its register, or of its pair, in its own lane. -/
theorem mem_resultV {t d j v : Nat} {x : Nat × W32} (ht : t ≤ 14) :
    x ∈ resultV t d j v ↔
      if t = 3 ∨ t = 7 then x = (32 * d + j, BitVec.ofNat 32 v) ∨ x = (32 * (d + 1) + j, BitVec.ofNat 32 (v / 2 ^ 32))
      else x = (32 * d + j, regOf t v) := by
  rw [resultV_eq ht]
  split <;> simp

/-- The result of lane `k` reaches register `r` in lane `j` only from `j` itself, with what `writtenV` says of it. -/
theorem resultV_at {e : LaneEnv} {d r j k : Nat} {ty val : Nat → Nat} {x : Nat × W32} (ht : ty k ≤ 14) (hk : k ∈ e.act)
    (hk32 : k < 32) (hj : j < 32) (hx : x ∈ resultV (ty k) d k (val k)) (hxr : x.1 = 32 * r + j) :
    x.2 = writtenV e d ty val r j := by
  rw [mem_resultV ht] at hx
  unfold writtenV
  split at hx
  · next hp =>
    rcases hx with rfl | rfl
    · obtain ⟨rfl, rfl⟩ : k = j ∧ r = d := by dsimp only at hxr; omega
      simp [hk, hp]
    · obtain ⟨rfl, rfl⟩ : k = j ∧ r = d + 1 := by dsimp only at hxr; omega
      simp [hk, hp]
  · next hp =>
    subst hx
    obtain ⟨rfl, rfl⟩ : k = j ∧ r = d := by dsimp only at hxr; omega
    simp [hk, hp]

/-- A register in a lane that no result reaches keeps its value. -/
theorem writtenV_of_no_result {e : LaneEnv} {d r j : Nat} {ty val : Nat → Nat} (ht : ty j ≤ 14)
    (hno : ∀ v, j ∈ e.act → (32 * r + j, v) ∉ resultV (ty j) d j (val j)) :
    writtenV e d ty val r j = e.y.vreg r j := by
  simp only [mem_resultV ht] at hno
  unfold writtenV
  by_cases hk : j ∈ e.act
  · by_cases hp : ty j = 3 ∨ ty j = 7
    · have hd : r ≠ d := fun hr => hno (.ofNat 32 (val j)) hk (by simp [hp, hr])
      have hd1 : r ≠ d + 1 := fun hr => hno (.ofNat 32 (val j / 2 ^ 32)) hk (by simp [hp, hr])
      simp [hp, hd, hd1]
    · have hd : r ≠ d := fun hr => hno (regOf (ty j) (val j)) hk (by simp [hp, hr])
      simp [hp, hd]
  · rw [if_neg hk]

/-- The vector registers after results of every acting lane are written. -/
theorem vreg_results (e : LaneEnv) (d : Nat) (ty val : Nat → Nat) (hty : ∀ j, ty j ≤ 14) (hact : ∀ j ∈ e.act, j < 32)
    {r j : Nat} (hj : j < 32) :
    (e.y.setV (e.act.flatMap fun j => resultV (ty j) d j (val j))).vreg r j = writtenV e d ty val r j := by
  unfold Group.vreg Group.setV
  dsimp only
  rw [cget_foldl_cset 0 _ _ (32 * r + j) (writtenV e d ty val r j)]
  · split
    · rfl
    · next hnone =>
      exact (writtenV_of_no_result (hty j) fun v hk hv => hnone ⟨_, List.mem_flatMap.2 ⟨j, hk, hv⟩, rfl⟩).symm
  · intro x hx hxr
    obtain ⟨k, hk, hx⟩ := List.mem_flatMap.1 hx
    exact resultV_at (hty k) hk (hact k hk) hj hx hxr

/-- Reading a mask after one is written; q0 is never written (R30). -/
theorem mask_setMask (y : Group) (d : Nat) (v : W32) (n : Nat) :
    (y.setMask d v).mask n = if n = d ∧ d ≠ 0 then v else y.mask n := by
  unfold Group.setMask Group.mask
  by_cases hd : d = 0
  · simp [hd]
  · by_cases hn : n = d
    · subst hn; simp [hd, cget_cset]
    · simp [hd, hn, cget_cset]

/-- Values that agree in the bits of their type write the same. -/
theorem writtenV_congr {e : LaneEnv} {d t : Nat} {u v : Nat → Nat} (ht : t ≤ 14)
    (h : ∀ j ∈ e.act, u j % 2 ^ typeWidth t = v j % 2 ^ typeWidth t) :
    writtenV e d (fun _ => t) u = writtenV e d (fun _ => t) v := by
  funext r j
  unfold writtenV
  split
  · next hj =>
    split
    · next hp =>
      have h64 : u j % 2 ^ 64 = v j % 2 ^ 64 := by rcases hp with rfl | rfl <;> exact h j hj
      have hhi : u j / 2 ^ 32 % 2 ^ 32 = v j / 2 ^ 32 % 2 ^ 32 := by omega
      rw [ofNat_congr (by norm_num : 32 ≤ 64) h64, ofNat_congr (by norm_num : 32 ≤ 32) hhi]
    · rw [regOf_congr ht (h j hj)]
  · rfl

/-! ### Numbers given by their bits -/

theorem ofBits_lt (n : Nat) (f : Nat → Bool) : ofBits n f < 2 ^ n := by
  induction n with
  | zero => simp [ofBits]
  | succ n ih =>
    rw [ofBits, Nat.pow_succ]
    split <;> omega

theorem testBit_ofBits (n : Nat) (f : Nat → Bool) (i : Nat) : (ofBits n f).testBit i = (decide (i < n) && f i) := by
  induction n with
  | zero => simp [ofBits]
  | succ n ih =>
    have hlt := ofBits_lt n f
    rw [ofBits]
    rcases Nat.lt_trichotomy i n with hi | rfl | hi
    · have hi' : i < n + 1 := by omega
      split <;> simp [Nat.testBit_two_pow_add_gt hi, ih, hi, hi']
    · split
      · next hf => simp [Nat.testBit_two_pow_add_eq, Nat.testBit_lt_two_pow hlt, hf]
      · next hf => simp [Nat.testBit_lt_two_pow hlt, hf]
    · have hbig : ofBits (n + 1) f < 2 ^ i :=
        (ofBits_lt (n + 1) f).trans_le (Nat.pow_le_pow_right (by norm_num) hi)
      rw [ofBits] at hbig
      have hi' : ¬ i < n + 1 := by omega
      simp [Nat.testBit_lt_two_pow hbig, hi']

/-- A number below `2 ^ n` is given by its bits. -/
theorem eq_ofBits {n x : Nat} {f : Nat → Bool} (hx : x < 2 ^ n) (h : ∀ i, i < n → x.testBit i = f i) :
    x = ofBits n f := by
  apply Nat.eq_of_testBit_eq
  intro i
  rw [testBit_ofBits]
  by_cases hi : i < n
  · simp [hi, h i hi]
  · have : x < 2 ^ i := hx.trans_le (Nat.pow_le_pow_right (by norm_num) (by omega))
    simp [hi, Nat.testBit_lt_two_pow this]

theorem maskOf_eq_ofBits (w : Nat) (js : List Nat) : maskOf w js = ofBits w fun i => decide (i ∈ js) := by
  induction w with
  | zero => rfl
  | succ w ih =>
    unfold maskOf at ih ⊢
    rw [List.range_succ, List.foldl_append, ih, ofBits]
    by_cases h : w ∈ js <;> simp [h, Nat.add_comm]

theorem getLsbD_maskOf {js : List Nat} {j : Nat} (hj : j < 32) :
    (BitVec.ofNat 32 (maskOf 32 js)).getLsbD j = decide (j ∈ js) := by
  rw [BitVec.getLsbD_ofNat, maskOf_eq_ofBits, testBit_ofBits]
  simp [hj]

end Sys2Proof.Machine

namespace Sys2Proof.Claims

open Sys2Proof.Machine

section
variable {i : Instr} {w : LaneW} {s : State} {e : LaneEnv} (h : LaneLegal i w s e)
include h

/-- The checks of R65 leave a lane word a TYPE that its row accepts. -/
theorem LaneLegal.type_mem {c o : Nat} (hi : laneCode i = some (c, o, w)) :
    ∃ sp, laneSpec c o w = some sp ∧ w.ty.toNat ∈ sp.tys := by
  obtain ⟨sp, hsp, hoff⟩ := laneCheck_eq_none (h.checks c o w hi).2
  exact ⟨sp, hsp, type_mem_of_offences hoff⟩

/-- Results of the acting lanes, each of its own type, with the flags that the lanes raise. -/
theorem LaneLegal.laneWrite_results {d fl₀ : Nat} {ty val fl : Nat → Nat} (hty : ∀ j, ty j ≤ 14)
    (hfl : ∀ k, fl₀.testBit k = true ↔ ∃ j ∈ e.act, (fl j).testBit k = true) :
    LaneWrote s (s.laneWrite e (e.act.flatMap fun j => resultV (ty j) d j (val j)) fl₀) e (writtenV e d ty val)
      e.y.mask fl := by
  refine h.laneWrote_next rfl (fun r hr => List.mem_of_mem_filter hr) (fun r hr => hr)
    (fun r j hj => vreg_results e d ty val hty (fun j => h.act_lt) hj) (fun n hn => rfl) fun k => ?_
  rw [← hfl k]
  simp [Group.orFlags, Group.setV]

/-- An element-wise word writes its register, or its pair, in the acting lanes (R146). -/
theorem LaneLegal.laneMap {d t : Nat} (ht : t ≤ 14) (f : Nat → Nat × Nat) :
    LaneWroteReg s (s.laneMap e t d f) e d t (fun j => (f j).1) (fun j => (f j).2) := by
  have hw := h.laneWrite_results (d := d) (fl₀ := e.act.foldl (fun a j => a ||| (f j).2) 0) (ty := fun _ => t)
    (val := fun j => (f j).1) (fl := fun j => (f j).2) (fun _ => ht) (by simp [testBit_foldl_or])
  unfold State.laneMap
  simp only [List.flatMap_map, List.foldl_map]
  exact hw

/-- A word that writes a mask gives the acting lanes their bits (R30). -/
theorem LaneLegal.laneMask {d fl₀ : Nat} {bit : Nat → Bool} {fl : Nat → Nat}
    (hfl : ∀ k, fl₀.testBit k = true ↔ ∃ j ∈ e.act, (fl j).testBit k = true) :
    LaneWroteMask s (s.laneMask e d bit fl₀) e d bit fl := by
  refine ⟨(e.y.mask d &&& ~~~(BitVec.ofNat 32 (maskOf 32 e.act))) ||| BitVec.ofNat 32 (maskOf 32 (e.act.filter bit)),
    h.laneWrote_next ?_ ?_ ?_ ?_ ?_ ?_, fun j hj => ?_⟩
  · unfold Group.setMask
    split <;> rfl
  · unfold Group.setMask
    split <;> exact fun r hr => hr
  · intro r hr
    dsimp only at hr
    split at hr
    · exact List.mem_of_mem_filter hr
    · exact hr
  · intro r j _
    unfold Group.setMask
    split <;> rfl
  · exact fun n _ => mask_setMask ..
  · intro k
    unfold Group.setMask
    split <;> simp [Group.orFlags, hfl]
  · simp only [BitVec.getLsbD_or, BitVec.getLsbD_and, BitVec.getLsbD_not, getLsbD_maskOf hj, List.mem_filter]
    by_cases hk : j ∈ e.act <;> simp [hk, hj]

end

end Sys2Proof.Claims
end

section
/-! SUPPORT. Comparisons, votes and mask words. Settles O39. -/
namespace Sys2Proof.Machine

open Sys2Proof.Claims

/-! ### Values of the integer types -/

theorem typeWidth_pos {t : Nat} : 0 < typeWidth t := by
  unfold typeWidth
  by_cases ht : t < 15
  · interval_cases t <;> decide
  · rw [List.getD_eq_default _ _ (by simpa using ht)]; decide

/-- The width of an operand of a lane type (R52, R146). -/
theorem atWidth_eq {t : Nat} (ht : t ≤ 14) (v : Nat) : atWidth t v = v % 2 ^ typeWidth t := by
  unfold atWidth
  interval_cases t <;> rfl

theorem intW_eq {t : Nat} (ht : t < 8 ∨ t = 14) : intW t = typeWidth t := by
  rcases ht with ht | rfl
  · interval_cases t <;> rfl
  · rfl

theorem LaneEnv.a_lt {e : LaneEnv} {w : LaneW} (ht : w.ty.toNat ≤ 14) (j : Nat) :
    e.a w j < 2 ^ typeWidth w.ty.toNat := by
  rw [LaneEnv.a, atWidth_eq ht]; exact Nat.mod_lt _ (by positivity)
theorem LaneEnv.b_lt {e : LaneEnv} {w : LaneW} (ht : w.ty.toNat ≤ 14) (j : Nat) :
    e.b w j < 2 ^ typeWidth w.ty.toNat := by
  rw [LaneEnv.b, atWidth_eq ht]; exact Nat.mod_lt _ (by positivity)
theorem LaneEnv.c_lt {e : LaneEnv} {w : LaneW} (ht : w.ty.toNat ≤ 14) (j : Nat) :
    e.c w j < 2 ^ typeWidth w.ty.toNat := by
  rw [LaneEnv.c, atWidth_eq ht]; exact Nat.mod_lt _ (by positivity)

theorem sintN_eq_asInt {n x : Nat} (hx : x < 2 ^ n) : sintN n x = asInt true n x := by
  unfold sintN asInt
  rw [Nat.mod_eq_of_lt hx]
  by_cases h : x < 2 ^ (n - 1)
  · simp [h]
  · simp [h, Nat.le_of_not_lt h]

/-- An integer operand as a number (R149). -/
theorem intDecode_eq_asInt {n x : Nat} (sg : Bool) (hx : x < 2 ^ n) : intDecode n sg x = asInt sg n x := by
  cases sg with
  | false => simp [intDecode, asInt, Nat.mod_eq_of_lt hx]
  | true => exact sintN_eq_asInt hx

theorem intSigned_eq_asInt {t x : Nat} (ht : t < 8 ∨ t = 14) (hx : x < 2 ^ typeWidth t) :
    intSigned t x = asInt (decide (t < 4)) (typeWidth t) x := by
  rw [intSigned, intW_eq ht]
  exact intDecode_eq_asInt _ hx

theorem asInt_injective {n x y : Nat} {sg : Bool} (hx : x < 2 ^ n) (hy : y < 2 ^ n) (h : asInt sg n x = asInt sg n y) :
    x = y := by
  have hx' : (x : Int) < 2 ^ n := by exact_mod_cast hx
  have hy' : (y : Int) < 2 ^ n := by exact_mod_cast hy
  unfold asInt at h
  split at h <;> split at h <;> omega

/-! ### Comparisons (R152) -/

/-- A condition code holds of the sign of a difference as of the order of the two numbers (R47). -/
theorem ccHolds_sign (cc : Nat) (x y : Int) : ccHolds cc (x - y).sign =
    match cc with
    | 0 => decide (x = y)
    | 1 => decide (x ≠ y)
    | 2 => decide (x < y)
    | 3 => decide (x ≤ y)
    | 4 => decide (y < x)
    | _ => decide (y ≤ x) := by
  rcases Int.lt_trichotomy x y with h | rfl | h
  · rw [Int.sign_eq_neg_one_of_neg (by omega)]
    unfold ccHolds
    split <;> simp <;> omega
  · rw [Int.sub_self, Int.sign_zero]
    unfold ccHolds
    split <;> simp
  · rw [Int.sign_eq_one_of_pos (by omega)]
    unfold ccHolds
    split <;> simp <;> omega

theorem icmp_eq {n x y : Nat} (sg : Bool) (hx : x < 2 ^ n) (hy : y < 2 ^ n) :
    icmp sg n x y = (asInt sg n x - asInt sg n y).sign := by
  rw [← intDecode_eq_asInt sg hx, ← intDecode_eq_asInt sg hy]
  cases sg <;> rfl

/-! ### Words that write a mask -/

section
variable {i : Instr} {w : LaneW} {s : State} {e : LaneEnv} (h : LaneLegal i w s e)
include h

/-- A lane word has its effect in its own environment. -/
theorem lane_effect {c o : Nat} {f : LaneEnv → State} {P : State → Prop} (hi : laneCode i = some (c, o, w))
    (hx : exec i s = lane c o w s f) (hP : P (f e)) : ∃ t, exec i s = .next t ∧ P t :=
  ⟨f e, hx.trans (h.lane_next hi f), hP⟩

/-- A mask word gives each acting lane the function of its bits in VA and VB (R169). -/
theorem maskWord_wrote {o : Nat} {f : Bool → Bool → Bool} (hi : laneCode i = some (0, o, w))
    (hx : exec i s = maskWord o w s f) :
    ∃ t, exec i s = .next t ∧ LaneWroteMask s t e w.vd.toNat
      (fun j => f ((e.y.mask w.va.toNat).getLsbD j) ((e.y.mask w.vb.toNat).getLsbD j)) (fun _ => 0) := by
  refine lane_effect h hi hx ?_
  simp only [natBit_eq_testBit, BitVec.testBit_toNat]
  exact h.laneMask (by simp)

end

/-- CMP gives each acting lane the comparison of its operands (R152). -/
theorem laneCmp_wrote {w : LaneW} {s : State} {e : LaneEnv} (h : LaneLegal (.laneCmp w) w s e) :
    ∃ t, exec (.laneCmp w) s = .next t ∧ LaneWroteMask s t e w.vd.toNat
      (fun j => ccHolds (w.mod.toNat % 8) (asInt (decide (w.ty.toNat < 4)) (typeWidth w.ty.toNat) (e.a w j) -
        asInt (decide (w.ty.toNat < 4)) (typeWidth w.ty.toNat) (e.b w j)).sign) (fun _ => 0) := by
  obtain ⟨sp, hsp, hty⟩ := h.type_mem (c := 0) (o := 0x1D) rfl
  obtain rfl : sp = _ := (Option.some.inj hsp).symm
  have ht : w.ty.toNat < 8 := by
    simp [tyI] at hty; omega
  have hbit (j : Nat) : icond (intS w.ty.toNat) (intW w.ty.toNat) (w.mod.toNat % 8) (e.a w j) (e.b w j) =
      ccHolds (w.mod.toNat % 8) (asInt (decide (w.ty.toNat < 4)) (typeWidth w.ty.toNat) (e.a w j) -
        asInt (decide (w.ty.toNat < 4)) (typeWidth w.ty.toNat) (e.b w j)).sign := by
    rw [icond, intW_eq (.inl ht), icmp_eq _ (LaneEnv.a_lt (by omega) j) (LaneEnv.b_lt (by omega) j)]
    rfl
  refine lane_effect h rfl (show _ = execLaneCmp w s from rfl) ?_
  simp only [hbit]
  exact h.laneMask (by simp)

/-- A packed comparison holds when both elements compare, and raises the flags of both (R157). -/
theorem fcmpT_eq (t cc a b : Nat) (u : Bool) :
    (fcmpT t cc u a b).1 =
      (if t = 11 ∨ t = 12 then
        (fcmpCode (tyFF t) cc u (a % 65536) (b % 65536)).1 && (fcmpCode (tyFF t) cc u (a / 65536) (b / 65536)).1
       else (fcmpCode (tyFF t) cc u a b).1) ∧
    (fcmpT t cc u a b).2 =
      (if t = 11 ∨ t = 12 then
        (fcmpCode (tyFF t) cc u (a % 65536) (b % 65536)).2 ||| (fcmpCode (tyFF t) cc u (a / 65536) (b / 65536)).2
       else (fcmpCode (tyFF t) cc u a b).2) := by
  have hp : tyPacked t = decide (t = 11 ∨ t = 12) := by rw [Bool.decide_or, tyPacked, beq_eq_decide, beq_eq_decide]
  unfold fcmpT
  rw [hp]
  by_cases h : t = 11 ∨ t = 12 <;> simp [h]

/-- FCMP gives each acting lane the comparison of its operands, and ORs the flags of the lanes into FFLAGS (R157). -/
theorem fcmp_wrote {w : LaneW} {s : State} {e : LaneEnv} (h : LaneLegal (.fcmp w) w s e) :
    let r (j : Nat) := fcmpT w.ty.toNat (w.mod.toNat % 8) (w.mod.getLsbD 3) (e.a w j) (e.b w j)
    ∃ t, exec (.fcmp w) s = .next t ∧ LaneWroteMask s t e w.vd.toNat (fun j => (r j).1) (fun j => (r j).2) := by
  refine lane_effect h rfl (show _ = execFcmp w s from rfl) ?_
  simp only [natBit_eq_testBit, BitVec.testBit_toNat]
  exact h.laneMask fun k => by simp [testBit_foldl_or]

/-- VOTE any and all give every acting lane whether some, or every, acting lane's bit is set (R167). -/
theorem vote_wrote {w : LaneW} {s : State} {e : LaneEnv} (h : LaneLegal (.vote w) w s e) (hm : w.mod.toNat % 4 < 2) :
    ∃ t, exec (.vote w) s = .next t ∧ LaneWroteMask s t e w.vd.toNat
      (fun _ => if w.mod.toNat % 4 = 0 then e.act.any fun j => (e.y.mask w.vb.toNat).getLsbD j
        else e.act.all fun j => (e.y.mask w.vb.toNat).getLsbD j) (fun _ => 0) := by
  refine lane_effect h rfl (show _ = execVote w s from rfl) ?_
  have hq (j : Nat) : natBit (e.y.mask w.vb.toNat).toNat j = (e.y.mask w.vb.toNat).getLsbD j := by
    rw [natBit_eq_testBit, BitVec.testBit_toNat]
  have hmode : w.mod.toNat % 4 = 0 ∨ w.mod.toNat % 4 = 1 := by omega
  rcases hmode with h0 | h1
  · have hany : (e.act.filter (natBit (e.y.mask w.vb.toNat).toNat) != []) =
        e.act.any fun j => (e.y.mask w.vb.toNat).getLsbD j := by
      rw [Bool.eq_iff_iff, bne_iff_ne, ne_eq, List.filter_eq_nil_iff]
      simp [hq]
    simp only [h0, hany, if_true]
    exact h.laneMask (by simp)
  · have hall : (e.act.filter (natBit (e.y.mask w.vb.toNat).toNat) == e.act) =
        e.act.all fun j => (e.y.mask w.vb.toNat).getLsbD j := by
      rw [Bool.eq_iff_iff, beq_iff_eq, List.filter_eq_self]
      simp [hq]
    simp only [h1, hall, if_false, one_ne_zero]
    exact h.laneMask (by simp)

end Sys2Proof.Machine

namespace Sys2Proof.Proofs
open Sys2Proof.Machine Sys2Proof.Claims

/-- Settles O39: every mask word has the frame of a word that writes a mask, with its own bit for each acting lane. -/
theorem comparisonsVotesAndMaskWordsWriteTheirMask : Obligations.ComparisonsVotesAndMaskWordsWriteTheirMask := by
  intro w s e
  refine ⟨fun p hp h => ?_, fun h hm => vote_wrote h hm⟩
  simp only [maskWords, List.mem_cons, List.not_mem_nil, or_false] at hp
  rcases hp with rfl | rfl | rfl | rfl | rfl | rfl | rfl
  · have hw := laneCmp_wrote h
    simp only [ccHolds_sign] at hw
    exact hw
  · have hw := fcmp_wrote h
    simp only [fcmpT_eq] at hw
    exact hw
  · exact maskWord_wrote h rfl (f := (· && ·)) rfl
  · exact maskWord_wrote h rfl (f := (· || ·)) rfl
  · exact maskWord_wrote h rfl (f := (· != ·)) rfl
  · exact maskWord_wrote h rfl (f := fun _ b => !b) rfl
  · exact maskWord_wrote h rfl (f := fun _ b => b) rfl

end Sys2Proof.Proofs
end

section
/-! SUPPORT. Lane operands by type, and the values of the integer and bit words. Settles O40. -/
namespace Sys2Proof.Machine

open Sys2Proof.Claims

/-! ### Operands (R145) -/

theorem operand_eq_whole (e : LaneEnv) (t f j : Nat) : e.y.operand t f j = whole e t f j := by
  unfold Group.operand whole
  exact if_congr tyPair_iff rfl rfl

theorem LaneEnv.a_eq {e : LaneEnv} {w : LaneW} (ht : w.ty.toNat ≤ 14) (j : Nat) :
    e.a w j = whole e w.ty.toNat w.va.toNat j % 2 ^ typeWidth w.ty.toNat := by
  rw [LaneEnv.a, atWidth_eq ht, operand_eq_whole]

theorem LaneEnv.c_eq {e : LaneEnv} {w : LaneW} (ht : w.ty.toNat ≤ 14) (j : Nat) :
    e.c w j = whole e w.ty.toNat w.vc.toNat j % 2 ^ typeWidth w.ty.toNat := by
  rw [LaneEnv.c, atWidth_eq ht, operand_eq_whole]

theorem LaneEnv.b_eq {e : LaneEnv} {w : LaneW} (ht : w.ty.toNat ≤ 14) (j : Nat) :
    e.b w j = e.y.operandB e.stream w.ty.toNat w j % 2 ^ typeWidth w.ty.toNat := by
  rw [LaneEnv.b, atWidth_eq ht]

/-- Only a pair is wider than a register (R29). -/
theorem typeWidth_le {t : Nat} (hp : ¬ (t = 3 ∨ t = 7)) (ht : t ≤ 14) : typeWidth t ≤ 32 := by
  interval_cases t <;> simp_all [typeWidth]

/-- A scalar register in VB, at the width of the type, is the same in every lane (R50). -/
theorem operandB_scalar {y : Group} {stream : Seq} {w : LaneW} (ht : w.ty.toNat ≤ 14) (hb : w.bsc = true)
    (hvb : w.vb.toNat ≠ 0x7F) (j : Nat) :
    y.operandB stream w.ty.toNat w j % 2 ^ typeWidth w.ty.toNat =
      (stream.readReg .S w.vb.toNat).toNat % 2 ^ typeWidth w.ty.toNat := by
  unfold Group.operandB
  rw [if_pos hb, if_neg hvb]
  by_cases hp : w.ty.toNat = 3 ∨ w.ty.toNat = 7
  · rw [if_pos (tyPair_iff.2 hp)]
  · rw [if_neg (tyPair_iff.not.2 hp), Nat.mod_mod_of_dvd _ (Nat.pow_dvd_pow 2 (typeWidth_le hp ht))]

end Sys2Proof.Machine

namespace Sys2Proof.Proofs
open Sys2Proof.Machine Sys2Proof.Claims

/-- R145, R50, R29: what VA, VC and VB read, at the width of the type. -/
theorem laneOperandsAreReadByType : LaneOperandsAreReadByType := by
  intro e w j ht n t
  refine ⟨LaneEnv.a_eq ht j, LaneEnv.c_eq ht j, fun hb => ?_, fun hb hvb => ?_, fun hb hvb => ?_⟩
  · rw [LaneEnv.b_eq ht, Group.operandB, if_neg (by simp [hb]), operand_eq_whole]
  · rw [LaneEnv.b_eq ht, operandB_scalar ht hb hvb]
  · rw [LaneEnv.b_eq ht, Group.operandB, if_pos hb, if_pos hvb, immOf]

end Sys2Proof.Proofs

namespace Sys2Proof.Machine
open Sys2Proof.Claims

/-! ### Results of the integer words (R149) -/

theorem wrapN_eq_lowBits (n : Nat) (x : Int) : wrapN n x = lowBits n x := by simp [wrapN, lowBits]

@[simp] theorem lowBits_natCast (n x : Nat) : lowBits n x = x % 2 ^ n := by
  unfold lowBits
  exact_mod_cast rfl

/-- Clamping to the range of an integer type (R149). -/
theorem clampT_eq {t : Nat} (ht : t < 8 ∨ t = 14) (x : Int) :
    clampT t x = clampTo (decide (t < 4)) (typeWidth t) x := by
  have hpos := @typeWidth_pos t
  unfold clampT clampTo
  rw [intW_eq ht, wrapN_eq_lowBits]
  have hlo : intLo (typeWidth t) (intS t) = if decide (t < 4) then -2 ^ (typeWidth t - 1) else 0 := by
    simp [intLo, intS]
  have hhi : intHi (typeWidth t) (intS t) =
      if decide (t < 4) then 2 ^ (typeWidth t - 1) - 1 else 2 ^ typeWidth t - 1 := by
    simp [intHi, intS]
  have hle : intLo (typeWidth t) (intS t) ≤ intHi (typeWidth t) (intS t) := by
    rw [hlo, hhi]
    have h1 : (0 : Int) < 2 ^ (typeWidth t - 1) := by positivity
    have h2 : (0 : Int) < 2 ^ typeWidth t := by positivity
    split <;> omega
  simp only [← hlo, ← hhi]
  congr 1
  split
  · omega
  · split <;> omega

theorem and_eq_ofBits {n a b : Nat} (ha : a < 2 ^ n) : a &&& b = ofBits n fun i => a.testBit i && b.testBit i :=
  eq_ofBits (Nat.and_le_left.trans_lt ha) fun i _ => Nat.testBit_and a b i
theorem or_eq_ofBits {n a b : Nat} (ha : a < 2 ^ n) (hb : b < 2 ^ n) :
    a ||| b = ofBits n fun i => a.testBit i || b.testBit i :=
  eq_ofBits (Nat.or_lt_two_pow ha hb) fun i _ => Nat.testBit_or a b i
theorem xor_eq_ofBits {n a b : Nat} (ha : a < 2 ^ n) (hb : b < 2 ^ n) :
    a ^^^ b = ofBits n fun i => a.testBit i ^^ b.testBit i :=
  eq_ofBits (Nat.xor_lt_two_pow ha hb) fun i _ => Nat.testBit_xor a b i
theorem not_eq_ofBits {n b : Nat} (hb : b < 2 ^ n) : 2 ^ n - 1 - b = ofBits n fun i => !b.testBit i := by
  refine eq_ofBits (by omega) fun i hi => ?_
  rw [Nat.sub_sub, Nat.add_comm, Nat.testBit_two_pow_sub_succ hb]
  simp [hi]

/-- Quotient and remainder of the values of an integer type (R102, R149). -/
theorem divRemT_eq {t a b : Nat} (ht : t < 8 ∨ t = 14) (ha : a < 2 ^ typeWidth t) (hb : b < 2 ^ typeWidth t) :
    let n := typeWidth t
    let sg := decide (t < 4)
    divRemT t a b = if b = 0 then (2 ^ n - 1, a)
      else (lowBits n ((asInt sg n a).tdiv (asInt sg n b)), lowBits n ((asInt sg n a).tmod (asInt sg n b))) := by
  intro n sg
  have h0 : asInt sg n b = 0 ↔ b = 0 := by
    have hz : asInt sg n 0 = 0 := by simp [asInt]
    exact ⟨fun h => asInt_injective hb (by positivity) (h.trans hz.symm), fun h => h ▸ hz⟩
  unfold divRemT
  simp only [intSigned_eq_asInt ht ha, intSigned_eq_asInt ht hb, intW_eq ht, wrapN_eq_lowBits]
  rw [if_congr h0 rfl rfl, Int.tmod_def, Int.mul_comm]

/-- A right shift with the sign bit entering. -/
theorem sarW_eq {n a : Nat} (ha : a < 2 ^ n) (k : Nat) : sarW n a k = lowBits n (asInt true n a / 2 ^ k) := by
  rw [sarW, wrapN_eq_lowBits, sintN_eq_asInt ha]
  norm_cast

/-- A left rotation, bit by bit. -/
theorem rotW_eq {n a k : Nat} (ha : a < 2 ^ n) (hk : k < n) :
    rotW n a k = ofBits n fun i => a.testBit ((i + n - k) % n) := by
  refine eq_ofBits (Nat.mod_lt _ (by positivity)) fun i hi => ?_
  have hlow : a / 2 ^ (n - k) < 2 ^ k := by
    rw [Nat.div_lt_iff_lt_mul (by positivity), ← Nat.pow_add]
    rwa [Nat.add_sub_cancel' hk.le]
  rw [rotW, Nat.testBit_mod_two_pow, Nat.mul_comm, Nat.testBit_two_pow_mul_add _ hlow]
  by_cases hik : i < k
  · have hidx : (i + n - k) % n = n - k + i := by rw [Nat.mod_eq_of_lt (by omega)]; omega
    rw [hidx, if_pos hik, Nat.testBit_div_two_pow, Nat.add_comm i]
    simp [hi]
  · have hidx : (i + n - k) % n = i - k := by
      rw [show i + n - k = i - k + n by omega, Nat.add_mod_right, Nat.mod_eq_of_lt (by omega)]
    simp [hi, hik, hidx]

theorem lop3W_eq (table a b c n : Nat) : lop3W table a b c n =
    ofBits n fun i => table.testBit (4 * (a.testBit i).toNat + 2 * (b.testBit i).toNat + (c.testBit i).toNat) := by
  induction n with
  | zero => rfl
  | succ n ih =>
    rw [lop3W, ofBits, ih, Nat.add_comm]
    simp only [natBit_eq_testBit, Nat.toNat_testBit]

/-- LOP3 by the eight bits of its truth table in P2. -/
theorem lop3W_eq_getLsbD (p2 : W32) (a b c n : Nat) : lop3W (p2.toNat % 256) a b c n =
    ofBits n fun i => p2.getLsbD (4 * (a.testBit i).toNat + 2 * (b.testBit i).toNat + (c.testBit i).toNat) := by
  rw [lop3W_eq]
  congr 1
  funext i
  have hlt : 4 * (a.testBit i).toNat + 2 * (b.testBit i).toNat + (c.testBit i).toNat < 8 := by
    have := (a.testBit i).toNat_le
    have := (b.testBit i).toNat_le
    have := (c.testBit i).toNat_le
    omega
  rw [show (256 : Nat) = 2 ^ 8 from rfl, Nat.testBit_mod_two_pow, decide_eq_true hlt, Bool.true_and,
    BitVec.testBit_toNat]

/-- MIN and MAX: of two equal values it does not matter which is taken. -/
theorem min_by_value (x y : Int) (a b : Nat) : (if x ≤ y then a else b) = if y < x then b else a :=
  (if_congr Int.not_lt.symm rfl rfl).trans (ite_not ..)
theorem max_by_value {n a b : Nat} {sg : Bool} (ha : a < 2 ^ n) (hb : b < 2 ^ n) :
    (if asInt sg n a ≤ asInt sg n b then b else a) = if asInt sg n a < asInt sg n b then b else a := by
  rcases lt_trichotomy (asInt sg n a) (asInt sg n b) with h | h | h
  · rw [if_pos h.le, if_pos h]
  · rw [if_pos h.le, if_neg h.not_lt, asInt_injective ha hb h]
  · rw [if_neg h.not_ge, if_neg h.not_gt]

/-! ### Results of the bit words (R150) -/

/-- The length of the longest run from the front of `range n` on which a test holds. -/
theorem length_takeWhile_range {n k : Nat} {p : Nat → Bool} (hk : k ≤ n) (hlow : ∀ i, i < k → p i = true)
    (hstop : k < n → p k = false) : ((List.range n).takeWhile p).length = k := by
  obtain ⟨m, rfl⟩ := Nat.exists_eq_add_of_le hk
  rw [List.range_add, List.takeWhile_append_of_pos (by simpa using hlow)]
  cases m with
  | zero => simp
  | succ m => simp [List.range_succ_eq_map, hstop (by omega)]

/-- Leading zeros, by the highest one bit. -/
theorem clz_eq {n b : Nat} (hb : b < 2 ^ n) : n - (if b = 0 then 0 else Nat.log2 b + 1) =
    ((List.range n).takeWhile fun i => !b.testBit (n - 1 - i)).length := by
  symm
  by_cases h0 : b = 0
  · exact length_takeWhile_range (Nat.sub_le ..) (by simp [h0]) (by simp [h0])
  · have hlog : Nat.log2 b < n := (Nat.log2_lt h0).2 hb
    rw [if_neg h0]
    refine length_takeWhile_range (Nat.sub_le ..) (fun i hi => ?_) fun _ => ?_
    · have hlt : b < 2 ^ (n - 1 - i) := Nat.lt_log2_self.trans_le (Nat.pow_le_pow_right (by norm_num) (by omega))
      simp [Nat.testBit_lt_two_pow hlt]
    · have hidx : n - 1 - (n - (Nat.log2 b + 1)) = Nat.log2 b := by omega
      rw [hidx, Nat.testBit_log2 h0]
      rfl

theorem popN_eq (n b : Nat) : popN n b = ((List.range n).filter b.testBit).length := by
  induction n generalizing b with
  | zero => rfl
  | succ n ih =>
    have htail : ((List.range n).map Nat.succ).filter b.testBit =
        ((List.range n).filter (b / 2).testBit).map Nat.succ := by
      rw [List.filter_map]
      congr 2
      funext i
      exact Nat.testBit_succ b i
    rw [popN, ih, List.range_succ_eq_map, List.filter_cons, htail]
    rcases Nat.mod_two_eq_zero_or_one b with h | h <;> simp [Nat.testBit_zero, h, Nat.add_comm]

theorem ofBits_congr {n : Nat} {f g : Nat → Bool} (h : ∀ i, i < n → f i = g i) : ofBits n f = ofBits n g :=
  eq_ofBits (ofBits_lt n f) fun i hi => by simp [testBit_ofBits, hi, h i hi]

theorem revW_eq (n b : Nat) : revW n b = ofBits n fun i => b.testBit (n - 1 - i) := by
  induction n generalizing b with
  | zero => rfl
  | succ n ih =>
    rw [revW, ofBits, ih]
    congr 1
    · rcases Nat.mod_two_eq_zero_or_one b with h | h <;> simp [Nat.testBit_zero, h]
    · refine ofBits_congr fun i hi => ?_
      rw [← Nat.testBit_succ, show (n - 1 - i).succ = n + 1 - 1 - i by omega]

theorem lowBits_lt (m : Nat) (x : Int) : lowBits m x < 2 ^ m := by
  have hlt := Int.emod_lt_of_pos x (show (0 : Int) < 2 ^ m by positivity)
  have hnn : 0 ≤ x % 2 ^ m := Int.emod_nonneg _ (by positivity)
  zify
  rwa [lowBits, Int.toNat_of_nonneg hnn]

/-- The bits of the low bits of an integer are its own. -/
theorem testBit_lowBits (m : Nat) (x : Int) (i : Nat) :
    (lowBits m x).testBit i = (decide (i < m) && decide (x / 2 ^ i % 2 = 1)) := by
  by_cases hi : i < m
  · obtain ⟨k, rfl⟩ := Nat.exists_eq_add_of_lt hi
    have hnn : 0 ≤ x % 2 ^ (i + k + 1) := Int.emod_nonneg _ (by positivity)
    have hdiv : x % 2 ^ (i + k + 1) / 2 ^ i % 2 = x / 2 ^ i % 2 := by
      have hx : x = x % 2 ^ (i + k + 1) + 2 ^ i * (2 ^ k * (x / 2 ^ (i + k + 1)) * 2) := by
        have hdm := Int.emod_add_mul_ediv x (2 ^ (i + k + 1))
        rw [pow_succ, pow_add] at hdm ⊢
        linear_combination -hdm
      conv_rhs => rw [hx, Int.add_mul_ediv_left _ _ (by positivity), Int.add_mul_emod_self_right]
    have hcast : ((lowBits (i + k + 1) x / 2 ^ i % 2 : Nat) : Int) = x / 2 ^ i % 2 := by
      rw [← hdiv]
      push_cast [lowBits, Int.toNat_of_nonneg hnn]
      rfl
    rw [Nat.testBit_eq_decide_div_mod_eq, ← hcast]
    simp [hi]
    norm_cast
  · have hlt : lowBits m x < 2 ^ i := (lowBits_lt m x).trans_le (Nat.pow_le_pow_right (by norm_num) (by omega))
    simp [hi, Nat.testBit_lt_two_pow hlt]

theorem natCast_bit (x i : Nat) : decide ((x : Int) / 2 ^ i % 2 = 1) = x.testBit i := by
  rw [Nat.testBit_eq_decide_div_mod_eq]
  norm_cast

/-- The bits of a value of an integer type, the sign going on above. -/
theorem asInt_bit {n x : Nat} (hn : 0 < n) (hx : x < 2 ^ n) (sg : Bool) (i : Nat) :
    decide (asInt sg n x / 2 ^ i % 2 = 1) = if i < n then x.testBit i else sg && x.testBit (n - 1) := by
  have hhalf : 2 ^ n = 2 * 2 ^ (n - 1) := by rw [← Nat.pow_succ', Nat.succ_eq_add_one, Nat.sub_add_cancel hn]
  have hsign : x.testBit (n - 1) = decide (2 ^ (n - 1) ≤ x) := by
    by_cases h : 2 ^ (n - 1) ≤ x
    · have hdiv : x / 2 ^ (n - 1) = 1 := Nat.div_eq_of_lt_le (by omega) (by omega)
      simp [Nat.testBit_eq_decide_div_mod_eq, hdiv, h]
    · simp [Nat.testBit_lt_two_pow (Nat.lt_of_not_le h), h]
  unfold asInt
  by_cases hs : sg = true ∧ 2 ^ (n - 1) ≤ x
  · rw [if_pos hs]
    split
    · next hi =>
      obtain ⟨k, rfl⟩ := Nat.exists_eq_add_of_lt hi
      have hsplit : (x : Int) - 2 ^ (i + k + 1) = x + 2 ^ i * (-2 ^ k * 2) := by rw [pow_succ, pow_add]; ring
      rw [hsplit, Int.add_mul_ediv_left _ _ (by positivity), Int.add_mul_emod_self_right, natCast_bit]
    · next hi =>
      have hle : (2 : Int) ^ n ≤ 2 ^ i := pow_le_pow_right₀ (by norm_num) (by omega)
      have hlt : (x : Int) < 2 ^ n := by exact_mod_cast hx
      have hdiv : ((x : Int) - 2 ^ n) / 2 ^ i = -1 := by
        apply Int.le_antisymm
        · exact Int.le_of_lt_add_one ((Int.ediv_lt_iff_lt_mul (by positivity)).2 (by omega))
        · exact (Int.le_ediv_iff_mul_le (by positivity)).2 (by omega)
      simp [hdiv, hsign, hs]
  · rw [if_neg hs, natCast_bit]
    split
    · rfl
    · next hi =>
      have hlt : x < 2 ^ i := hx.trans_le (Nat.pow_le_pow_right (by norm_num) (by omega))
      rw [Nat.testBit_lt_two_pow hlt, hsign]
      cases sg <;> simp_all

theorem testBit_setBits (x lo w v i : Nat) : (setBits x lo w v).testBit i =
    if lo ≤ i ∧ i < lo + w then v.testBit (i - lo) else x.testBit i := by
  have hshape : setBits x lo w v = 2 ^ lo * (2 ^ w * (x / 2 ^ (lo + w)) + v % 2 ^ w) + x % 2 ^ lo := by
    rw [setBits, Nat.pow_add]; ring
  rw [hshape, Nat.testBit_two_pow_mul_add _ (Nat.mod_lt _ (by positivity)),
    Nat.testBit_two_pow_mul_add _ (Nat.mod_lt _ (by positivity))]
  by_cases h1 : i < lo
  · simp [h1, Nat.not_le.2 h1, Nat.testBit_mod_two_pow]
  · by_cases h2 : i < lo + w
    · have h3 : i - lo < w := by omega
      simp [h1, h2, h3, Nat.le_of_not_lt h1, Nat.testBit_mod_two_pow]
    · have h3 : ¬ i - lo < w := by omega
      have hidx : i - lo - w + (lo + w) = i := by omega
      simp [h1, h2, h3, Nat.testBit_div_two_pow, hidx]

/-- BEXT takes a field and extends it (R150). -/
theorem bextW_eq {n a : Nat} (hn : 0 < n) (ha : a < 2 ^ n) (sg : Bool) (b : Nat) :
    let f := b % 256
    let l := min (b / 256 % 256) n
    let bit (i : Nat) : Bool := if f + i < n then a.testBit (f + i) else sg && a.testBit (n - 1)
    bextW n sg a b = if l = 0 then 0 else ofBits n fun i => if i < l then bit i else sg && bit (l - 1) := by
  intro f l bit
  have hf : bits b 7 0 = f := by simp [bits, f]
  have hl : min (bits b 15 8) n = l := by simp [bits, l]
  have hext : (if sg then sintN n a else ((a % 2 ^ n : Nat) : Int)) = asInt sg n a := by
    rw [← intDecode_eq_asInt sg ha]; rfl
  unfold bextW
  simp only [hf, hl, hext, wrapN_eq_lowBits]
  by_cases h0 : l = 0
  · simp [h0]
  · rw [if_neg h0, if_neg h0]
    have hln : l ≤ n := Nat.min_le_right ..
    generalize hfield : lowBits l (asInt sg n a / ((2 ^ f : Nat) : Int)) = field
    have hlt : field < 2 ^ l := hfield ▸ lowBits_lt ..
    have hbit (i : Nat) (hi : i < l) : field.testBit i = bit i := by
      have hb : bit i = decide (asInt sg n a / 2 ^ (f + i) % 2 = 1) := (asInt_bit hn ha sg (f + i)).symm
      rw [hb, ← hfield, testBit_lowBits, decide_eq_true hi, Bool.true_and, pow_add,
        Int.ediv_ediv_of_nonneg (by positivity)]
      norm_cast
    have hres : (if sg = true then lowBits n (sintN l field) else field) = lowBits n (asInt sg l field) := by
      cases sg with
      | true => rw [if_pos rfl, sintN_eq_asInt hlt]
      | false =>
        have hmod : field % 2 ^ n = field := Nat.mod_eq_of_lt (hlt.trans_le (Nat.pow_le_pow_right (by norm_num) hln))
        simp [asInt, hmod]
    rw [hres]
    refine eq_ofBits (lowBits_lt ..) fun i hi => ?_
    rw [testBit_lowBits, decide_eq_true hi, Bool.true_and, asInt_bit (by omega) hlt]
    split
    · next hil => rw [hbit i hil]
    · rw [hbit (l - 1) (by omega)]

/-- BINS puts a field in (R150). -/
theorem binsW_eq (n a b c : Nat) :
    let f := b % 256
    let l := min (b / 256 % 256) n
    binsW n a c b = ofBits n fun i => if f ≤ i ∧ i < f + l then c.testBit (i - f) else a.testBit i := by
  intro f l
  have hf : bits b 7 0 = f := by simp [bits, f]
  have hl : min (bits b 15 8) n = l := by simp [bits, l]
  unfold binsW
  simp only [hf, hl]
  refine eq_ofBits (Nat.mod_lt _ (by positivity)) fun i hi => ?_
  rw [Nat.testBit_mod_two_pow, testBit_setBits]
  simp [hi]

/-! ### The integer and bit words -/

/-- The integer and bit words take the integer types and b32 (R61). -/
theorem integer_type {o : Nat} {w : LaneW} {sp : LaneSpec} (h1 : 1 ≤ o) (h2 : o ≤ 0x1B) (hsp : aluSpec o = some sp)
    (ht : w.ty.toNat ∈ sp.tys) : w.ty.toNat < 8 ∨ w.ty.toNat = 14 := by
  interval_cases o <;> obtain rfl := Option.some.inj hsp <;> simp [tyI] at ht <;> omega

/-- An integer or bit word writes in the acting lanes what its entry of the table says, when the two agree in the bits of
the type for all operands of its width. -/
theorem laneInt_wrote {p : Instr × (Nat → Bool → Nat → Nat → Nat → Nat)} {w : LaneW} {s : State} {e : LaneEnv} {o : Nat}
    {f : Nat → Nat → Nat → Nat → Nat} (h : LaneLegal p.1 w s e) (hi : laneCode p.1 = some (0, o, w))
    (ho : 1 ≤ o ∧ o ≤ 0x1B)
    (hx : exec p.1 s = laneInt o w s fun e j => f w.ty.toNat (e.a w j) (e.b w j) (e.c w j))
    (hv : ∀ t a b c, t < 8 ∨ t = 14 → a < 2 ^ typeWidth t → b < 2 ^ typeWidth t → c < 2 ^ typeWidth t →
      f t a b c % 2 ^ typeWidth t = p.2 (typeWidth t) (decide (t < 4)) a b c % 2 ^ typeWidth t) :
    let n := typeWidth w.ty.toNat
    ∃ t, exec p.1 s = .next t ∧ LaneWroteReg s t e w.vd.toNat w.ty.toNat
      (fun j => p.2 n (decide (w.ty.toNat < 4)) (e.a w j) (e.b w j) (e.c w j)) (fun _ => 0) := by
  intro n
  obtain ⟨sp, hsp, hty⟩ := h.type_mem hi
  have ht : w.ty.toNat < 8 ∨ w.ty.toNat = 14 := integer_type ho.1 ho.2 hsp hty
  have ht14 : w.ty.toNat ≤ 14 := by omega
  refine lane_effect h hi hx ?_
  have hmap := h.laneMap (d := w.vd.toNat) ht14 fun j => (f w.ty.toNat (e.a w j) (e.b w j) (e.c w j), 0)
  unfold LaneWroteReg at hmap ⊢
  rwa [writtenV_congr ht14 fun j _ => hv _ _ _ _ ht (LaneEnv.a_lt ht14 j) (LaneEnv.b_lt ht14 j) (LaneEnv.c_lt ht14 j)]
    at hmap

end Sys2Proof.Machine

namespace Sys2Proof.Proofs
open Sys2Proof.Machine Sys2Proof.Claims

/-- R149, R150, word by word: each case names the value that the model computes, and shows that it has the bits of the
table's. -/
theorem integerLaneWordsWriteTheTableValue : IntegerLaneWordsWriteTheTableValue := by
  intro w s e p hp h
  simp only [integerWords, List.mem_cons, List.not_mem_nil, or_false] at hp
  rcases hp with rfl | rfl | rfl | rfl | rfl | rfl | rfl | rfl | rfl | rfl | rfl | rfl | rfl | rfl | rfl | rfl | rfl | rfl |
    rfl | rfl | rfl | rfl | rfl | rfl | rfl | rfl | rfl
  · refine laneInt_wrote (f := fun _ a b _ => a + b) h rfl (by decide)
      (show _ = execLaneAdd w s from rfl) fun t a b c ht ha hb hc => ?_
    dsimp only
    rw [← Nat.cast_add, lowBits_natCast, Nat.mod_mod]
  · refine laneInt_wrote (f := fun t a b _ => wrapN (intW t) ((a : Int) - b)) h rfl (by decide)
      (show _ = execLaneSub w s from rfl) fun t a b c ht ha hb hc => ?_
    dsimp only
    rw [intW_eq ht, wrapN_eq_lowBits]
  · refine laneInt_wrote (f := fun _ a b _ => a * b) h rfl (by decide)
      (show _ = execLaneMul w s from rfl) fun t a b c ht ha hb hc => ?_
    dsimp only
    rw [← Nat.cast_mul, lowBits_natCast, Nat.mod_mod]
  · refine laneInt_wrote (f := fun t a b _ => wrapN (intW t) (intSigned t a * intSigned t b / (2 ^ intW t : Nat)))
      h rfl (by decide) (show _ = execMulh w s from rfl) fun t a b c ht ha hb hc => ?_
    dsimp only
    rw [intW_eq ht, wrapN_eq_lowBits, intSigned_eq_asInt ht ha, intSigned_eq_asInt ht hb, Nat.cast_pow, Nat.cast_ofNat]
  · refine laneInt_wrote (f := fun _ a b c => a * c + b) h rfl (by decide)
      (show _ = execMad w s from rfl) fun t a b c ht ha hb hc => ?_
    dsimp only
    rw [← Nat.cast_mul, ← Nat.cast_add, lowBits_natCast, Nat.mod_mod]
  · refine laneInt_wrote (f := fun t a b _ => clampT t (intSigned t a + intSigned t b)) h rfl (by decide)
      (show _ = execAdds w s from rfl) fun t a b c ht ha hb hc => ?_
    dsimp only
    rw [clampT_eq ht, intSigned_eq_asInt ht ha, intSigned_eq_asInt ht hb]
  · refine laneInt_wrote (f := fun t a b _ => clampT t (intSigned t a - intSigned t b)) h rfl (by decide)
      (show _ = execSubs w s from rfl) fun t a b c ht ha hb hc => ?_
    dsimp only
    rw [clampT_eq ht, intSigned_eq_asInt ht ha, intSigned_eq_asInt ht hb]
  · refine laneInt_wrote (f := fun t a b _ => (divRemT t a b).1) h rfl (by decide)
      (show _ = execDiv w s from rfl) fun t a b c ht ha hb hc => ?_
    dsimp only
    rw [divRemT_eq ht ha hb, apply_ite Prod.fst]
  · refine laneInt_wrote (f := fun t a b _ => (divRemT t a b).2) h rfl (by decide)
      (show _ = execRem w s from rfl) fun t a b c ht ha hb hc => ?_
    dsimp only
    rw [divRemT_eq ht ha hb, apply_ite Prod.snd]
  · refine laneInt_wrote (f := fun _ a b _ => a &&& b) h rfl (by decide)
      (show _ = execLaneAnd w s from rfl) fun t a b c ht ha hb hc => ?_
    dsimp only
    rw [and_eq_ofBits ha]
  · refine laneInt_wrote (f := fun _ a b _ => a ||| b) h rfl (by decide)
      (show _ = execLaneOr w s from rfl) fun t a b c ht ha hb hc => ?_
    dsimp only
    rw [or_eq_ofBits ha hb]
  · refine laneInt_wrote (f := fun _ a b _ => a ^^^ b) h rfl (by decide)
      (show _ = execLaneXor w s from rfl) fun t a b c ht ha hb hc => ?_
    dsimp only
    rw [xor_eq_ofBits ha hb]
  · refine laneInt_wrote (f := fun t _ b _ => 2 ^ intW t - 1 - b) h rfl (by decide)
      (show _ = execNot w s from rfl) fun t a b c ht ha hb hc => ?_
    dsimp only
    rw [intW_eq ht, not_eq_ofBits hb]
  · refine laneInt_wrote (f := fun t a b c => lop3W (w.p2.toNat % 256) a c b (intW t)) h rfl (by decide)
      (show _ = execLop3 w s from rfl) fun t a b c ht ha hb hc => ?_
    dsimp only
    rw [intW_eq ht, lop3W_eq_getLsbD]
  · refine laneInt_wrote (f := fun t a b _ => a * 2 ^ (b % intW t)) h rfl (by decide)
      (show _ = execLaneShl w s from rfl) fun t a b c ht ha hb hc => ?_
    dsimp only
    rw [intW_eq ht, lowBits_natCast, Nat.mod_mod]
  · refine laneInt_wrote (f := fun t a b _ => a / 2 ^ (b % intW t)) h rfl (by decide)
      (show _ = execLaneShr w s from rfl) fun t a b c ht ha hb hc => ?_
    dsimp only
    rw [intW_eq ht]
  · refine laneInt_wrote (f := fun t a b _ => sarW (intW t) a (b % intW t)) h rfl (by decide)
      (show _ = execLaneSar w s from rfl) fun t a b c ht ha hb hc => ?_
    dsimp only
    rw [intW_eq ht, sarW_eq ha]
  · refine laneInt_wrote (f := fun t a b _ => rotW (intW t) a (b % intW t)) h rfl (by decide)
      (show _ = execRot w s from rfl) fun t a b c ht ha hb hc => ?_
    dsimp only
    rw [intW_eq ht, rotW_eq ha (Nat.mod_lt _ typeWidth_pos)]
  · refine laneInt_wrote (f := fun t a b _ => if intSigned t a ≤ intSigned t b then a else b) h rfl (by decide)
      (show _ = execLaneMin w s from rfl) fun t a b c ht ha hb hc => ?_
    dsimp only
    rw [intSigned_eq_asInt ht ha, intSigned_eq_asInt ht hb, min_by_value]
  · refine laneInt_wrote (f := fun t a b _ => if intSigned t a ≤ intSigned t b then b else a) h rfl (by decide)
      (show _ = execLaneMax w s from rfl) fun t a b c ht ha hb hc => ?_
    dsimp only
    rw [intSigned_eq_asInt ht ha, intSigned_eq_asInt ht hb, max_by_value ha hb]
  · refine laneInt_wrote (f := fun t _ b _ => wrapN (intW t) (intSigned t b).natAbs) h rfl (by decide)
      (show _ = execAbs w s from rfl) fun t a b c ht ha hb hc => ?_
    dsimp only
    rw [intW_eq ht, wrapN_eq_lowBits, intSigned_eq_asInt ht hb]
  · refine laneInt_wrote (f := fun t _ b _ => wrapN (intW t) (-(b : Int))) h rfl (by decide)
      (show _ = execNeg w s from rfl) fun t a b c ht ha hb hc => ?_
    dsimp only
    rw [intW_eq ht, wrapN_eq_lowBits]
  · refine laneInt_wrote (f := fun t _ b _ => intW t - (if b = 0 then 0 else Nat.log2 b + 1)) h rfl (by decide)
      (show _ = execClz w s from rfl) fun t a b c ht ha hb hc => ?_
    dsimp only
    rw [intW_eq ht, clz_eq hb]
  · refine laneInt_wrote (f := fun t _ b _ => popN (intW t) b) h rfl (by decide)
      (show _ = execPopc w s from rfl) fun t a b c ht ha hb hc => ?_
    dsimp only
    rw [intW_eq ht, popN_eq]
  · refine laneInt_wrote (f := fun t _ b _ => revW (intW t) b) h rfl (by decide)
      (show _ = execBrev w s from rfl) fun t a b c ht ha hb hc => ?_
    dsimp only
    rw [intW_eq ht, revW_eq]
  · refine laneInt_wrote (f := fun t a b _ => bextW (intW t) (intS t) a b) h rfl (by decide)
      (show _ = execBext w s from rfl) fun t a b c ht ha hb hc => ?_
    dsimp only
    rw [intW_eq ht, bextW_eq typeWidth_pos ha]; rfl
  · refine laneInt_wrote (f := fun t a b c => binsW (intW t) a c b) h rfl (by decide)
      (show _ = execBins w s from rfl) fun t a b c ht ha hb hc => ?_
    dsimp only
    rw [intW_eq ht, binsW_eq]

/-- Settles O40: operands are read by type, and each integer or bit word writes the bits of its entry of the table. -/
theorem integerLaneWordsReadAndWriteByTheTable : Obligations.IntegerLaneWordsReadAndWriteByTheTable :=
  ⟨laneOperandsAreReadByType, integerLaneWordsWriteTheTableValue⟩

end Sys2Proof.Proofs
end

section
/-! SUPPORT. The values and flags of the floating-point words. Settles O37. -/
namespace Sys2Proof.Machine

open Sys2Proof.Claims

/-! ### Floating-point words (R153 to R156) -/

theorem tyPacked_iff {t : Nat} : tyPacked t = true ↔ t = 11 ∨ t = 12 := by simp [tyPacked]

/-- The operation of a lane word is applied to the value, or to both elements of a packed type with the flags of both
(R91). -/
theorem perHalf_eq_halves (t : Nat) (g : Nat → Nat → Nat → Nat × Nat) (a b c : Nat) :
    perHalf t g a b c = halves t g a b c := by
  unfold perHalf halves
  exact if_congr tyPacked_iff rfl rfl

/-- The floating-point words that write a register take the float types alone (R61). -/
theorem float_type {o : Nat} {w : LaneW} {sp : LaneSpec} (h1 : 0x20 ≤ o) (h2 : o ≤ 0x32) (hsp : aluSpec o = some sp)
    (ht : w.ty.toNat ∈ sp.tys) : 8 ≤ w.ty.toNat ∧ w.ty.toNat ≤ 13 := by
  have htys : sp.tys = tyF := by
    interval_cases o <;> obtain rfl := Option.some.inj hsp <;> rfl
  rw [htys] at ht
  simp [tyF] at ht
  omega

/-- A floating-point word of row `o` writes in the acting lanes its operation on the codes of their operands, and ORs the
flags of the lanes into FFLAGS (R153, R92). -/
theorem laneFloat_wrote {i : Instr} {w : LaneW} {s : State} {e : LaneEnv} {o : Nat}
    {g : FF → Rnd → Nat → Nat → Nat → Nat × Nat} (h : LaneLegal i w s e) (hi : laneCode i = some (0, o, w))
    (ho : 0x20 ≤ o ∧ o ≤ 0x32) (hx : exec i s = laneFloat o w s g) :
    let t0 := w.ty.toNat
    let r (j : Nat) := halves t0 (g (tyFF t0) (e.y.rnd w)) (e.a w j) (e.b w j) (e.c w j)
    ∃ t, exec i s = .next t ∧ LaneWroteReg s t e w.vd.toNat t0 (fun j => (r j).1) (fun j => (r j).2) := by
  obtain ⟨sp, hsp, hty⟩ := h.type_mem hi
  have ht := float_type ho.1 ho.2 hsp hty
  refine lane_effect h hi hx ?_
  simp only [perHalf_eq_halves]
  exact h.laneMap (by omega) _

/-- A unary word rounds the number and keeps the flags that its exact function gives (R155). -/
theorem laneFn_eq_laneFloat (o : Nat) (w : LaneW) (s : State) (h : Num → Num × Nat) :
    laneFn o w s h = laneFloat o w s fun f r _ b _ => fin1 f r (h (f.decode b)).1 (h (f.decode b)).2 := rfl

/-- FMA takes a from VA, b from VC and c from VB, and its sign bits from MOD (R153). -/
theorem execFma_eq_laneFloat (w : LaneW) (s : State) :
    execFma w s = laneFloat 0x23 w s fun f r a b c => fin1 f r
      (fmaNum r (w.mod.getLsbD 0) (w.mod.getLsbD 1) (f.decode a) (f.decode c) (f.decode b)) := by
  unfold execFma
  simp only [natBit_eq_testBit, BitVec.testBit_toNat]

/-- Each word of the table runs the operation that stands beside it, in a row of the floating-point words. -/
theorem floatWords_exec (w : LaneW) (s : State) : ∀ p ∈ floatWords w,
    ∃ o, (0x20 ≤ o ∧ o ≤ 0x32) ∧ laneCode p.1 = some (0, o, w) ∧ exec p.1 s = laneFloat o w s p.2 := by
  intro p hp
  simp only [floatWords, List.mem_cons, List.not_mem_nil, or_false] at hp
  rcases hp with rfl | rfl | rfl | rfl | rfl | rfl | rfl | rfl | rfl | rfl | rfl | rfl | rfl | rfl | rfl | rfl | rfl | rfl |
    rfl
  · exact ⟨0x20, by decide, rfl, show execFadd w s = _ from rfl⟩
  · exact ⟨0x21, by decide, rfl, show execFsub w s = _ from rfl⟩
  · exact ⟨0x22, by decide, rfl, show execFmul w s = _ from rfl⟩
  · exact ⟨0x23, by decide, rfl, execFma_eq_laneFloat w s⟩
  · exact ⟨0x29, by decide, rfl, show execFdiv w s = _ from rfl⟩
  · exact ⟨0x24, by decide, rfl, show execFmin w s = _ from rfl⟩
  · exact ⟨0x25, by decide, rfl, show execFmax w s = _ from rfl⟩
  · exact ⟨0x26, by decide, rfl, show execFabs w s = _ from rfl⟩
  · exact ⟨0x27, by decide, rfl, show execFneg w s = _ from rfl⟩
  · exact ⟨0x28, by decide, rfl, show execFsgn w s = _ from rfl⟩
  · exact ⟨0x2A, by decide, rfl, laneFn_eq_laneFloat 0x2A w s (fun x => divNum (.fin { m := 1 }) x)⟩
  · exact ⟨0x2B, by decide, rfl, laneFn_eq_laneFloat 0x2B w s rsqrtNum⟩
  · exact ⟨0x2C, by decide, rfl, laneFn_eq_laneFloat 0x2C w s (fun x => (sqrtNum x, 0))⟩
  · exact ⟨0x2D, by decide, rfl, laneFn_eq_laneFloat 0x2D w s (fun x => (exp2Num x, 0))⟩
  · exact ⟨0x2E, by decide, rfl, laneFn_eq_laneFloat 0x2E w s log2Num⟩
  · exact ⟨0x2F, by decide, rfl, laneFn_eq_laneFloat 0x2F w s (fun x => (sinpNum x, 0))⟩
  · exact ⟨0x30, by decide, rfl, laneFn_eq_laneFloat 0x30 w s (fun x => (cospNum x, 0))⟩
  · exact ⟨0x31, by decide, rfl, laneFn_eq_laneFloat 0x31 w s (fun x => (tanhNum x, 0))⟩
  · exact ⟨0x32, by decide, rfl, show execFrnd w s = _ from rfl⟩

end Sys2Proof.Machine

namespace Sys2Proof.Proofs
open Sys2Proof.Machine Sys2Proof.Claims

/-- Settles O37: every word of the table is a floating-point word of its own row, and each of these writes its operation
on the codes of its operands. -/
theorem floatLaneWordsWriteTheirResult : Obligations.FloatLaneWordsWriteTheirResult := by
  intro w s e p hp h
  obtain ⟨o, ho, hi, hx⟩ := floatWords_exec w s p hp
  exact laneFloat_wrote h hi ho hx

end Sys2Proof.Proofs
end

section
/-! SUPPORT. The contribution of the lane RAISE, and the words that split and join fragments. Settles O43 and O42. -/
namespace Sys2Proof.Machine

open Sys2Proof.Claims

/-! ### The lane RAISE (R168) -/

/-- An operand that is no pair stands in 32 bits, whatever VB reads (R50, R145). -/
theorem operandB_lt (y : Group) (stream : Seq) (w : LaneW) (j : Nat) : y.operandB stream 14 w j < 2 ^ 32 := by
  unfold Group.operandB
  split
  · split
    · exact w.p2.isLt
    · exact Nat.mod_lt _ (by norm_num)
  · exact (y.vreg w.vb.toNat j).isLt

theorem sext64_eq_signExtend (b : Nat) : sext64 32 b = (BitVec.ofNat 32 b).signExtend 64 := by
  rw [sext64, sintN_eq_toInt (by norm_num), BitVec.signExtend]
  apply BitVec.eq_of_toNat_eq
  rw [BitVec.toNat_ofInt, BitVec.toNat_ofNat, wrapN]
  omega

theorem ofNat_eq_zeroExtend {b : Nat} (hb : b < 2 ^ 32) : BitVec.ofNat 64 b = (BitVec.ofNat 32 b).zeroExtend 64 := by
  rw [← ofNat_mod_two_pow, Nat.mod_eq_of_lt hb]

/-- The value that a lane contributes: its operand, sign-extended for min.i, max.i and add (R168). -/
theorem raiseValue_eq (y : Group) (stream : Seq) (w : LaneW) (op j : Nat) :
    let b := y.operandB stream 14 w j
    (if (op == 2 || op == 4 || op == 6) = true then sext64 32 b else BitVec.ofNat 64 b) =
      if op = 2 ∨ op = 4 ∨ op = 6 then (BitVec.ofNat 32 b).signExtend 64 else (BitVec.ofNat 32 b).zeroExtend 64 := by
  intro b
  rw [sext64_eq_signExtend, ofNat_eq_zeroExtend (operandB_lt y stream w j)]
  exact if_congr (by simp [or_assoc]) rfl rfl

/-! ### Branches of the lane words (R171) -/

theorem not_inLaneSection_iff {s : State} {a : Agent} {j : Int} :
    (!s.inLaneSection a j) = true ↔ ¬(0 ≤ j ∧ s.inSection a j.toNat = true) := by
  rw [State.inLaneSection, Bool.not_eq_true', Bool.eq_false_iff, ne_eq, Bool.and_eq_true, decide_eq_true_iff]

/-- The two distances of P2 (R171). -/
theorem laneTarget_eq (pc : Nat) (d : W32) :
    laneTarget pc (d.truncate 16) = laneAway pc (d.extractLsb' 0 16) ∧
      laneTarget pc ((d >>> 16).truncate 16) = laneAway pc (d.extractLsb' 16 16) := by
  have hlow : d.truncate 16 = d.extractLsb' 0 16 := by
    ext i hi
    simp
  have hhigh : (d >>> 16).truncate 16 = d.extractLsb' 16 16 := by
    ext i hi
    simp
  rw [hlow, hhigh]
  exact ⟨rfl, rfl⟩

/-- The level that BR.ln works in is the one that the statement names (R171). -/
theorem openLevel_eq_withLevel (e : LaneEnv) (j : Nat) : e.y.openLevel e.x j = withLevel e j := by
  unfold Group.openLevel withLevel innerJoin
  cases e.x.level.bind e.y.level <;> rfl

/-- BR.ln in the terms of R171: PROT beyond the lane section, STACK at a 65th level, else the lanes of the mask go to the
target and the others to the next word. -/
theorem exec_brLn {w : LaneW} {s : State} {e : LaneEnv} (h : LaneLegal (.brLn w) w s e) :
    let jt := laneAway e.x.pc (w.p2.extractLsb' 0 16)
    let j0 := laneAway e.x.pc (w.p2.extractLsb' 16 16)
    let taken := e.x.lanes &&& e.y.mask w.va.toNat
    let other := e.x.lanes &&& ~~~(e.y.mask w.va.toNat)
    let y := (withLevel e j0.toNat).1
    let u := s.setGroup e.g y
    let z : Frag := { fid := y.nextId, lanes := taken, pc := jt.toNat, level := some (withLevel e j0.toNat).2,
                      since := s.clock }
    exec (.brLn w) s = .next (
      if ¬(0 ≤ jt ∧ s.inSection s.cur jt.toNat = true) then s.fault 0x0A (jt % 2 ^ 64).toNat
      else if ¬(0 ≤ j0 ∧ s.inSection s.cur j0.toNat = true) then s.fault 0x0A (j0 % 2 ^ 64).toNat
      else if (innerJoin e).map (·.join) ≠ some j0.toNat ∧ 64 ≤ e.y.levels.length then s.fault 0x11
      else if taken = 0 then u.goTo e.g e.f (e.x.pc + 12)
      else if other = 0 then u.goTo e.g e.f jt.toNat
      else ((u.setGroup e.g { y with
          nextId := y.nextId + 1
          frags := (y.frags.map fun v => if v.fid = e.f then { v with lanes := other } else v) ++ [z] }).goTo e.g e.f
        (e.x.pc + 12)).goTo e.g z.fid jt.toNat) := by
  intro jt j0 taken other y u z
  have hexec : exec (.brLn w) s = execBrLn w s := rfl
  obtain ⟨ht, h0⟩ := laneTarget_eq e.x.pc w.p2
  have hnew : (!decide ((e.x.level.bind e.y.level).map (·.join) = some j0.toNat)) = true ↔
      (innerJoin e).map (·.join) ≠ some j0.toNat := by
    simp [innerJoin]
  rw [hexec, execBrLn, h.lane_next rfl]
  dsimp only
  rw [ht, h0, openLevel_eq_withLevel]
  refine congrArg _ (if_congr not_inLaneSection_iff rfl (if_congr not_inLaneSection_iff rfl
    (if_congr (and_congr_left' hnew) rfl (if_congr Iff.rfl rfl (if_congr Iff.rfl rfl ?_)))))
  rw [State.modGroup, State.group_setGroup]
  rfl

end Sys2Proof.Machine

namespace Sys2Proof.Proofs
open Sys2Proof.Machine Sys2Proof.Claims

/-- Settles O43: the word waits for the pending contribution, or cuts the rewrite stage and writes its register. -/
theorem laneRaiseContributesForItsEngine : Obligations.LaneRaiseContributesForItsEngine := by
  intro w s e h op n a b x
  have hexec : exec (.laneRaise w) s = execLaneRaise w s := rfl
  rw [hexec, execLaneRaise, h.lane_next rfl]
  refine ⟨fun hpend => ?_, ?_⟩
  · rw [if_pos hpend]
    rfl
  intro held hfree
  rw [if_neg (not_not.2 hfree)]
  let o : Outst :=
    { pc := e.x.pc, left := w.la.toNat, kind := .raise a n, rd := (laneRefs 0 0x4B w).1, wr := [.e n] }
  refine ⟨((s.cut e.g).modSeq a fun q => { q with e := aput q.e n held }).modGroup e.g fun y =>
    y.modFrag e.f fun z => { z with out := z.out ++ [o] }, ?_, ?_, fun c hc => ?_, rfl, fun g hg => ?_, ?_⟩
  · have hval (j : Nat) := raiseValue_eq e.y e.stream w op j
    dsimp only at hval
    simp only [held, x, b, ← hval]
    by_cases hact : e.act = []
    · simp only [hact, if_true]
      rfl
    · simp only [hact, if_false]
      rfl
  · simp
  · simp [State.seq_modSeq_ne _ _ _ _ hc]
  · simp [State.group_modGroup_ne _ _ _ _ hg]
  · simp [o]

/-- Settles O42: BR.ln case by case, JOIN by the innermost level, LEND by what it waits for. -/
theorem laneBranchesSplitAndJoinFragments : Obligations.LaneBranchesSplitAndJoinFragments := by
  intro w s e
  refine ⟨fun h => ?_, fun h => ?_, fun h => ?_⟩
  · intro jt j0 inside taken other y u
    have hx := exec_brLn h
    refine ⟨fun ht => ?_, fun ht h0 => ?_, fun ht h0 hnew hfull => ?_, fun ht h0 hroom => ?_⟩
    · rw [hx, if_pos ht]
    · rw [hx, if_neg (not_not.2 ht), if_pos h0]
    · rw [hx, if_neg (not_not.2 ht), if_neg (not_not.2 h0), if_pos ⟨hnew, hfull⟩]
    · have hlevel : ¬((innerJoin e).map (·.join) ≠ some j0.toNat ∧ 64 ≤ e.y.levels.length) := by
        rw [not_and_or, not_not, not_le]
        exact hroom
      refine ⟨fun hnone => ?_, fun hsome hall => ?_, fun hsome hsplit => ?_⟩
      · rw [hx, if_neg (not_not.2 ht), if_neg (not_not.2 h0), if_neg hlevel, if_pos hnone]
      · rw [hx, if_neg (not_not.2 ht), if_neg (not_not.2 h0), if_neg hlevel, if_neg hsome, if_pos hall]
      · rw [hx, if_neg (not_not.2 ht), if_neg (not_not.2 h0), if_neg hlevel, if_neg hsome, if_neg hsplit]
  · have hexec : exec (.join w) s = execJoin w s := rfl
    rw [hexec, execJoin, h.lane_next rfl, innerJoin]
    cases e.x.level.bind e.y.level <;> rfl
  · have hexec : exec (.lend w) s = execLend w s := rfl
    have hones : (0xFFFFFFFF : W32) = BitVec.allOnes 32 := rfl
    rw [hexec, execLend, h.lane_next rfl, hones]
    refine ⟨fun hpart => ?_, fun hall hlevel hopen => ?_, fun hall hlevel hopen => ?_⟩
    · rw [if_pos hpart]
      rfl
    · refine congrArg _ ((if_neg (by simp [hall, hlevel])).trans ((if_neg (by simp [hopen])).trans ?_))
      cases e.y.reports <;> rfl
    · rw [if_neg (by simp [hall, hlevel]), if_pos hopen]
      rfl

end Sys2Proof.Proofs
end

section
/-!
SUPPORT. Fragments: reading them and their levels after the steps of an arrival, what the arrival of a fragment at the join
of its level is, and what stays outside of it. Settles O41.
-/
namespace Sys2Proof.Machine

/-! ### Reading fragments and levels -/

/-- What no fragment, level or slot is part of. -/
def Group.rest (g : Group) : Group := { g with frags := [], levels := [], slots := [], spilled := [], log := [] }

theorem frag_fid {g : Group} {f : Nat} {x : Frag} (h : g.frag f = some x) : x.fid = f := by
  simpa using List.find?_some h

theorem frag_eq_none_iff {g : Group} {f : Nat} : g.frag f = none ↔ ∀ v ∈ g.frags, v.fid ≠ f := by
  simp [Group.frag]

theorem level_lid {g : Group} {l : Nat} {L : Level} (h : g.level l = some L) : L.lid = l := by
  simpa using List.find?_some h

/-- Changes that keep the names of the fragments are read fragment by fragment. -/
theorem frag_map {g y : Group} {h : Frag → Frag} (hy : y.frags = g.frags.map h) (hfid : ∀ x, (h x).fid = x.fid) (k : Nat) :
    y.frag k = (g.frag k).map h := by
  rw [Group.frag, hy, List.find?_map]
  congr 2
  funext x
  simp [hfid]

theorem frag_modFrag_self (g : Group) (f : Nat) {h : Frag → Frag} (hfid : ∀ x, (h x).fid = x.fid) :
    (g.modFrag f h).frag f = (g.frag f).map h := by
  rw [frag_map (g := g) rfl (fun x => by split <;> simp [hfid])]
  cases hx : g.frag f with
  | none => rfl
  | some x => simp [frag_fid hx]

theorem frag_modFrag_ne (g : Group) {f k : Nat} {h : Frag → Frag} (hfid : ∀ x, (h x).fid = x.fid) (hk : k ≠ f) :
    (g.modFrag f h).frag k = g.frag k := by
  rw [frag_map (g := g) rfl (fun x => by split <;> simp [hfid])]
  cases hx : g.frag k with
  | none => rfl
  | some x => simp [frag_fid hx, hk]

@[simp] theorem Group.modFrag_levels (g : Group) (f : Nat) (h : Frag → Frag) : (g.modFrag f h).levels = g.levels := rfl
@[simp] theorem Group.modFrag_rest (g : Group) (f : Nat) (h : Frag → Frag) : (g.modFrag f h).rest = g.rest := rfl

/-- A fragment that waits at level `l` and is not `f`. -/
def Group.WaitsAt (g : Group) (f l : Nat) (v : Frag) : Prop :=
  v ∈ g.frags ∧ v.fid ≠ f ∧ v.level = some l ∧ v.st = .waiting

/-- Fragments after a change of `f` were there before, the others as they were. -/
theorem mem_modFrag {g : Group} {f : Nat} {h : Frag → Frag} (hfid : ∀ x, (h x).fid = x.fid) {v : Frag}
    (hv : v ∈ (g.modFrag f h).frags) : ∃ u ∈ g.frags, u.fid = v.fid ∧ (v.fid ≠ f → u = v) := by
  obtain ⟨u, hu, rfl⟩ := List.mem_map.1 hv
  refine ⟨u, hu, ?_, fun hne => ?_⟩
  · split
    · exact (hfid u).symm
    · rfl
  · split at hne
    · next h => exact absurd ((hfid u).trans h) hne
    · next h => rw [if_neg h]

/-- A change of fragment `f` leaves the others as they wait. -/
theorem waitsAt_modFrag {g : Group} {f l : Nat} {h : Frag → Frag} (hfid : ∀ x, (h x).fid = x.fid) {v : Frag} :
    (g.modFrag f h).WaitsAt f l v ↔ g.WaitsAt f l v := by
  refine ⟨fun ⟨hmem, hf, hr⟩ => ?_, fun ⟨hmem, hf, hr⟩ => ⟨List.mem_map.2 ⟨v, hmem, if_neg hf⟩, hf, hr⟩⟩
  obtain ⟨u, hu, -, hsame⟩ := mem_modFrag hfid hmem
  exact ⟨hsame hf ▸ hu, hf, hr⟩

/-! ### Refilling the slots (R176 to R178) -/

@[simp] theorem Group.fill_level (g : Group) (c l : Nat) : (g.fill c).level l = g.level l := rfl
@[simp] theorem Group.fill_rest (g : Group) (c : Nat) : (g.fill c).rest = g.rest := rfl

/-- A fragment that takes a slot notes when; nothing else of it changes. -/
theorem frag_fill {g : Group} {k : Nat} {m : Frag} (c : Nat) (h : g.frag k = some m) :
    ∃ n, (g.fill c).frag k = some { m with since := n } := by
  unfold Group.fill
  dsimp only
  generalize List.take _ _ = new
  rw [frag_map (g := g) rfl fun x => by split <;> rfl, h]
  by_cases hm : new.contains m.fid
  · exact ⟨c, by simp only [Option.map_some, hm, if_true]⟩
  · exact ⟨m.since, by simp only [Option.map_some, hm]; rfl⟩

theorem frag_fill_none {g : Group} {k : Nat} (c : Nat) (h : g.frag k = none) : (g.fill c).frag k = none := by
  unfold Group.fill
  rw [frag_map (g := g) rfl fun x => by split <;> rfl, h]
  rfl

/-! ### An arrival (R172) -/

/-- The group once fragment `f` waits at level `l`, of which the lanes `arr` have arrived. -/
def Group.landing (g : Group) (f l : Nat) (arr : W32) : Group :=
  { g.modFrag f fun y => { y with st := .waiting, fault := false } with
    levels := g.levels.map fun (v : Level) => if v.lid = l then { v with arrived := arr } else v }

/-- The fragment that waits at level `l` beside `f`. -/
def Group.waiter (g : Group) (f l : Nat) : Option Frag :=
  g.frags.find? fun y => y.fid ≠ f ∧ y.level = some l ∧ y.st = .waiting

/-- The group after fragment `f` has arrived at level `l`, merged with the one that waits there; and the fragment. -/
def Group.landed (g : Group) (f l : Nat) (arr : W32) : Group × Nat :=
  match g.waiter f l with
  | some o => ((g.landing f l arr).merge o.fid f, o.fid)
  | none => (g.landing f l arr, f)

/-- The group after level `l` is freed and fragment `f` goes on under `p`. -/
def Group.freed (g : Group) (f l : Nat) (p : Option Nat) : Group :=
  { g with levels := g.levels.filter fun (v : Level) => v.lid ≠ l }.modFrag f
    fun y => { y with st := .runnable, level := p, split := none }

/-- A fragment that does not stand at the join of its level stays as it is; one that does lands, and when every lane of the
level has arrived, the level is freed and the fragment may arrive again. -/
theorem arrive_succ (g : Group) (f k : Nat) :
    (g.arrive f (k + 1) = g ∧
      ∀ x l L, g.frag f = some x → x.level = some l → g.level l = some L → x.pc ≠ L.join) ∨
    ∃ x l L, g.frag f = some x ∧ x.level = some l ∧ g.level l = some L ∧ x.pc = L.join ∧
      (let r := g.landed f l (L.arrived ||| x.lanes)
       g.arrive f (k + 1) =
         if L.arrived ||| x.lanes = L.lanes then (r.1.freed r.2 l L.parent).arrive r.2 k else r.1) := by
  rw [Group.arrive]
  cases hx : g.frag f with
  | none => exact .inl ⟨rfl, by rintro _ _ _ ⟨⟩⟩
  | some x =>
  dsimp only
  cases hl : x.level with
  | none => exact .inl ⟨rfl, by rintro _ _ _ ⟨⟩ hl'; cases hl.symm.trans hl'⟩
  | some l =>
  dsimp only
  cases hL : g.level l with
  | none => exact .inl ⟨rfl, by rintro _ _ _ ⟨⟩ hl' hL'; cases hl.symm.trans hl'; cases hL.symm.trans hL'⟩
  | some L =>
  dsimp only
  by_cases hpc : x.pc = L.join
  · rw [if_neg (not_not.2 hpc)]
    refine .inr ⟨x, l, L, rfl, hl, hL, hpc, ?_⟩
    unfold Group.landed Group.waiter
    cases g.frags.find? fun y => y.fid ≠ f ∧ y.level = some l ∧ y.st = .waiting <;> rfl
  · rw [if_pos hpc]
    exact .inl ⟨rfl, by rintro _ _ _ ⟨⟩ hl' hL'; cases hl.symm.trans hl'; cases hL.symm.trans hL'; exact hpc⟩

/-! ### What an arrival changes -/

theorem level_map {g y : Group} {h : Level → Level} (hy : y.levels = g.levels.map h) (hlid : ∀ x, (h x).lid = x.lid)
    (l : Nat) : y.level l = (g.level l).map h := by
  rw [Group.level, hy, List.find?_map]
  congr 2
  funext x
  simp [hlid]

theorem level_landing (g : Group) (f l : Nat) (arr : W32) (m : Nat) :
    (g.landing f l arr).level m = (g.level m).map fun v => if m = l then { v with arrived := arr } else v := by
  rw [level_map (g := g) rfl fun x => by split <;> rfl]
  cases hm : g.level m with
  | none => rfl
  | some L => simp [level_lid hm]

theorem level_freed (g : Group) (f l : Nat) (p : Option Nat) (m : Nat) :
    (g.freed f l p).level m = if m = l then none else g.level m := by
  unfold Group.freed Group.level
  simp only [Group.modFrag_levels, List.find?_filter]
  split
  · next h => simp [h]
  · next h =>
    congr 1
    funext v
    by_cases hv : v.lid = m <;> simp [hv, h]

@[simp] theorem merge_levels (g : Group) (keep gone : Nat) : (g.merge keep gone).levels = g.levels := by
  unfold Group.merge
  split <;> rfl

@[simp] theorem merge_rest (g : Group) (keep gone : Nat) : (g.merge keep gone).rest = g.rest := by
  unfold Group.merge
  split <;> rfl

theorem level_landed (g : Group) (f l : Nat) (arr : W32) (m : Nat) :
    (g.landed f l arr).1.level m = (g.level m).map fun v => if m = l then { v with arrived := arr } else v := by
  rw [← level_landing g f]
  unfold Group.landed
  cases g.waiter f l with
  | none => rfl
  | some o => simp [Group.level]

theorem rest_landed (g : Group) (f l : Nat) (arr : W32) : (g.landed f l arr).1.rest = g.rest := by
  unfold Group.landed
  cases g.waiter f l with
  | none => rfl
  | some o => exact merge_rest ..

/-- An arrival changes fragments, levels and the log alone. -/
theorem rest_arrive (g : Group) (f k : Nat) : (g.arrive f k).rest = g.rest := by
  induction k generalizing g f with
  | zero => rfl
  | succ k ih =>
    obtain ⟨heq, -⟩ | ⟨x, l, L, -, -, -, -, heq⟩ := arrive_succ g f k
    · rw [heq]
    · rw [heq]
      split
      · rw [ih]
        exact rest_landed ..
      · exact rest_landed ..

/-- What a merge makes of fragment `v`: `a` and `b` are the one that stays and the one that goes (R172, R174). -/
def mergedFrag (keep gone : Nat) (a b v : Frag) : Frag :=
  if v.fid = keep then
    { a with
      lanes := a.lanes ||| b.lanes, out := joinOuts a.out b.out, fault := a.fault && b.fault
      split := if a.split = some gone then b.split else a.split }
  else { v with split := if v.split = some gone then some keep else v.split }

theorem frags_merge {g : Group} {keep gone : Nat} {a b : Frag} (hk : g.frag keep = some a) (hg : g.frag gone = some b) :
    (g.merge keep gone).frags = (g.frags.filter fun v => v.fid ≠ gone).map (mergedFrag keep gone a b) := by
  unfold Group.merge
  rw [hk, hg]
  refine List.map_congr_left fun v _ => ?_
  unfold mergedFrag
  split
  · split <;> simp_all
  · split <;> simp_all

theorem mergedFrag_fid {keep gone : Nat} {a b : Frag} (ha : a.fid = keep) (v : Frag) :
    (mergedFrag keep gone a b v).fid = v.fid := by
  unfold mergedFrag
  split
  · next h => rw [h, ← ha]
  · rfl

/-- The fragment that a merge leaves. -/
theorem frag_merge {g : Group} {keep gone : Nat} {a b : Frag} (hk : g.frag keep = some a) (hg : g.frag gone = some b)
    (hne : keep ≠ gone) : (g.merge keep gone).frag keep = some (mergedFrag keep gone a b a) := by
  have hkept : (g.frags.filter fun v => v.fid ≠ gone).find? (·.fid == keep) = some a := by
    rw [List.find?_filter, ← hk, Group.frag]
    congr 1
    funext v
    by_cases hv : v.fid = keep <;> simp [hv, hne]
  have hmap := frag_map (g := { g with frags := g.frags.filter fun v => v.fid ≠ gone }) (frags_merge hk hg)
    (mergedFrag_fid (frag_fid hk)) keep
  rw [hmap, Group.frag, hkept]
  rfl

/-- Every other fragment after a merge was one before, at the same level and in the same state. -/
theorem mem_merge {g : Group} {keep gone : Nat} {a b : Frag} (hk : g.frag keep = some a) (hg : g.frag gone = some b)
    {v : Frag} (hv : v ∈ (g.merge keep gone).frags) :
    v.fid ≠ gone ∧ ∃ u ∈ g.frags, u.fid = v.fid ∧ (v.fid ≠ keep → u.level = v.level ∧ u.st = v.st) := by
  rw [frags_merge hk hg, List.mem_map] at hv
  obtain ⟨u, hu, rfl⟩ := hv
  obtain ⟨hmem, hgone⟩ := List.mem_filter.1 hu
  have hfid := mergedFrag_fid (b := b) (gone := gone) (frag_fid hk) u
  refine ⟨by simpa [hfid] using hgone, u, hmem, hfid.symm, fun hne => ?_⟩
  rw [hfid] at hne
  rw [mergedFrag, if_neg hne]
  exact ⟨rfl, rfl⟩

theorem frag_landing_self {g : Group} {f l : Nat} {arr : W32} {x : Frag} (hx : g.frag f = some x) :
    (g.landing f l arr).frag f = some { x with st := .waiting, fault := false } := by
  have hmod := frag_modFrag_self g f (h := fun y => { y with st := .waiting, fault := false }) fun _ => rfl
  rw [hx] at hmod
  exact hmod

theorem frag_landing_ne (g : Group) {f l k : Nat} {arr : W32} (hk : k ≠ f) : (g.landing f l arr).frag k = g.frag k :=
  frag_modFrag_ne g (h := fun y => { y with st := .waiting, fault := false }) (fun _ => rfl) hk

theorem waiter_waitsAt {g : Group} {f l : Nat} {o : Frag} (h : g.waiter f l = some o) : g.WaitsAt f l o :=
  ⟨List.mem_of_find?_eq_some h, by simpa using List.find?_some h⟩

theorem waiter_eq_none_iff {g : Group} {f l : Nat} : g.waiter f l = none ↔ ∀ v, ¬g.WaitsAt f l v := by
  simp [Group.waiter, Group.WaitsAt]

/-- With no fragment waiting at the level, the one that lands waits alone. -/
theorem landed_of_none {g : Group} {f l : Nat} (arr : W32) (h : ∀ v, ¬g.WaitsAt f l v) :
    g.landed f l arr = (g.landing f l arr, f) := by
  rw [Group.landed, waiter_eq_none_iff.2 h]

/-- With one that waits at the level, it takes in the one that lands. -/
theorem landed_of_waiting {g : Group} {f l : Nat} (arr : W32) {z : Frag} (hz : g.WaitsAt f l z)
    (huniq : ∀ v, g.WaitsAt f l v → v = z) : g.landed f l arr = ((g.landing f l arr).merge z.fid f, z.fid) := by
  cases hw : g.waiter f l with
  | none => exact absurd hz (waiter_eq_none_iff.1 hw z)
  | some o => rw [Group.landed, hw, huniq o (waiter_waitsAt hw)]

/-- Fragments after `f` landed were there before, the others as they were. -/
theorem mem_landed {g : Group} {f l : Nat} {arr : W32} {x : Frag} (hx : g.frag f = some x) {v : Frag}
    (hv : v ∈ (g.landed f l arr).1.frags) :
    ∃ u ∈ g.frags, u.fid = v.fid ∧ (v.fid ≠ (g.landed f l arr).2 → v.fid ≠ f ∧ u.level = v.level ∧ u.st = v.st) := by
  have hland {v : Frag} (hv : v ∈ (g.landing f l arr).frags) : ∃ u ∈ g.frags, u.fid = v.fid ∧ (v.fid ≠ f → u = v) :=
    mem_modFrag (h := fun y => { y with st := .waiting, fault := false }) (fun _ => rfl) hv
  unfold Group.landed at hv ⊢
  cases hw : g.waiter f l with
  | none =>
    rw [hw] at hv
    obtain ⟨u, hu, hfid, hsame⟩ := hland hv
    exact ⟨u, hu, hfid, fun hne => ⟨hne, by rw [hsame hne], by rw [hsame hne]⟩⟩
  | some o =>
    rw [hw] at hv
    obtain ⟨hmem, hof, -⟩ := waiter_waitsAt hw
    obtain ⟨a, ha⟩ : ∃ a, (g.landing f l arr).frag o.fid = some a := by
      rw [frag_landing_ne g hof, ← Option.ne_none_iff_exists']
      exact fun hnone => frag_eq_none_iff.1 hnone o hmem rfl
    obtain ⟨hgone, u, hu, hfid, hsame⟩ := mem_merge ha (frag_landing_self hx) hv
    obtain ⟨t, ht, htu, htsame⟩ := hland hu
    have heq : t = u := htsame (hfid ▸ hgone)
    exact ⟨t, ht, htu.trans hfid, fun hne => ⟨hgone, heq ▸ hsame hne⟩⟩

theorem mem_freed {g : Group} {f l : Nat} {p : Option Nat} {v : Frag} (hv : v ∈ (g.freed f l p).frags) :
    ∃ u ∈ g.frags, u.fid = v.fid ∧ (v.fid ≠ f → u = v) :=
  mem_modFrag (g := g) (h := fun y => { y with st := .runnable, level := p, split := none }) (fun _ => rfl) hv

theorem frag_freed_none {g : Group} {j : Nat} (f l : Nat) (p : Option Nat) (h : g.frag j = none) :
    (g.freed f l p).frag j = none := frag_eq_none_iff.2 fun v hv => by
  obtain ⟨u, hu, hfid, -⟩ := mem_freed hv
  rw [← hfid]
  exact frag_eq_none_iff.1 h u hu

theorem frag_landed_none {g : Group} {f j : Nat} {x : Frag} (l : Nat) (arr : W32) (hx : g.frag f = some x)
    (h : g.frag j = none) : (g.landed f l arr).1.frag j = none := frag_eq_none_iff.2 fun v hv => by
  obtain ⟨u, hu, hfid, -⟩ := mem_landed hx hv
  rw [← hfid]
  exact frag_eq_none_iff.1 h u hu

/-- An arrival makes no fragment. -/
theorem frag_arrive_none {g : Group} {j : Nat} (f k : Nat) (h : g.frag j = none) : (g.arrive f k).frag j = none := by
  induction k generalizing g f with
  | zero => exact h
  | succ k ih =>
    obtain ⟨heq, -⟩ | ⟨x, l, L, hx, -, -, -, heq⟩ := arrive_succ g f k
    · rwa [heq]
    · have hland := frag_landed_none l (L.arrived ||| x.lanes) hx h
      rw [heq]
      split
      · exact ih _ (frag_freed_none _ _ _ hland)
      · exact hland

/-! ### Where a fragment goes -/

theorem frag_freed {g : Group} {f l : Nat} {p : Option Nat} {x : Frag} (hx : g.frag f = some x) :
    (g.freed f l p).frag f = some { x with st := .runnable, level := p, split := none } := by
  have hmod := frag_modFrag_self g f (h := fun y => { y with st := .runnable, level := p, split := none }) fun _ => rfl
  rw [hx] at hmod
  exact hmod

/-- A fragment that does not stand at the join of its level stays as it is. -/
theorem arrive_of_not_join {g : Group} {f : Nat} (k : Nat)
    (h : ∀ x l L, g.frag f = some x → x.level = some l → g.level l = some L → x.pc ≠ L.join) : g.arrive f k = g := by
  cases k with
  | zero => rfl
  | succ k =>
    obtain ⟨heq, -⟩ | ⟨x, l, L, hx, hl, hL, hpc, -⟩ := arrive_succ g f k
    · exact heq
    · exact absurd hpc (h x l L hx hl hL)

section
variable {g : Group} {f l : Nat} {x : Frag} {L : Level} (hx : g.frag f = some x) (hl : x.level = some l)
  (hL : g.level l = some L) (hpc : x.pc = L.join)
include hx hl hL hpc

theorem arrive_at_join (n : Nat) :
    let r := g.landed f l (L.arrived ||| x.lanes)
    g.arrive f (n + 1) =
      if L.arrived ||| x.lanes = L.lanes then (r.1.freed r.2 l L.parent).arrive r.2 n else r.1 := by
  obtain ⟨-, hno⟩ | ⟨x', l', L', hx', hl', hL', -, heq⟩ := arrive_succ g f n
  · exact absurd hpc (hno x l L hx hl hL)
  · obtain rfl : x = x' := Option.some.inj (hx.symm.trans hx')
    obtain rfl : l = l' := Option.some.inj (hl.symm.trans hl')
    obtain rfl : L = L' := Option.some.inj (hL.symm.trans hL')
    exact heq

end

/-- What the statement says of the lanes that have arrived at level `l`, of data `L`, of the group `g`: merged, they are
fragment `k`, which is `m` but for its slot, of the group `y`. -/
def ComesTo (g y : Group) (f l : Nat) (L : Level) (arr : W32) (k : Nat) (m : Frag) : Prop :=
  (arr ≠ L.lanes → (∃ n, y.frag k = some { m with since := n }) ∧ (y.level l).map (·.arrived) = some arr) ∧
  (arr = L.lanes → (∀ p P, L.parent = some p → g.level p = some P → m.pc ≠ P.join) →
    (∃ n, y.frag k = some { m with st := .runnable, level := L.parent, split := none, since := n }) ∧ y.level l = none) ∧
  ∀ p P, arr = L.lanes → L.parent = some p → p ≠ l → g.level p = some P → m.pc = P.join →
    (∀ v, ¬g.WaitsAt f p v) → P.arrived ||| m.lanes ≠ P.lanes →
    (∃ n, y.frag k = some { m with level := some p, split := none, since := n }) ∧ y.level l = none ∧
      (y.level p).map (·.arrived) = some (P.arrived ||| m.lanes)

/-- Lanes that arrive at a level are, in the end, where R172 puts the fragment that holds them once they landed. -/
theorem comesTo_arrive {g : Group} {f l k : Nat} {x m : Frag} {L : Level} (hx : g.frag f = some x)
    (hl : x.level = some l) (hL : g.level l = some L) (hpc : x.pc = L.join)
    (hk : (g.landed f l (L.arrived ||| x.lanes)).2 = k)
    (hm : (g.landed f l (L.arrived ||| x.lanes)).1.frag k = some m) (hst : m.st = .waiting) (hfault : m.fault = false)
    (n c : Nat) : ComesTo g ((g.arrive f (n + 2)).fill c) f l L (L.arrived ||| x.lanes) k m := by
  have harrive := arrive_at_join hx hl hL hpc (n + 1)
  have hlev := level_landed g f l (L.arrived ||| x.lanes)
  have hmem {v : Frag} := mem_landed (arr := L.arrived ||| x.lanes) (l := l) hx (v := v)
  generalize L.arrived ||| x.lanes = arr at *
  generalize g.landed f l arr = r at *
  subst hk
  dsimp only at harrive
  have hlevp (p : Nat) (hp : p ≠ l) : (r.1.freed r.2 l L.parent).level p = g.level p := by
    simp [level_freed, hlev, hp]
  have hlevl : (r.1.freed r.2 l L.parent).level l = none := by simp [level_freed]
  have hfreed := frag_freed (l := l) (p := L.parent) hm
  refine ⟨fun hmiss => ?_, fun hall hpar => ?_, fun p P hall hp hpl hP hjoin hnone hmiss => ?_⟩
  · rw [harrive, if_neg hmiss]
    exact ⟨frag_fill c hm, by simp [hlev, hL]⟩
  · rw [harrive, if_pos hall, arrive_of_not_join]
    · exact ⟨frag_fill c hfreed, hlevl⟩
    · intro x' p P hx' hp hP
      obtain rfl := Option.some.inj (hfreed.symm.trans hx')
      by_cases hpl : p = l
      · rw [hpl, hlevl] at hP
        cases hP
      · exact hpar p P hp ((hlevp p hpl).symm.trans hP)
  · have hwait (v : Frag) : ¬(r.1.freed r.2 l L.parent).WaitsAt r.2 p v := by
      rintro ⟨hv, hne, hvp, hvst⟩
      obtain ⟨u, hu, -, hsame⟩ := mem_freed hv
      obtain rfl := hsame hne
      obtain ⟨t, ht, hfid, hkeep⟩ := hmem hu
      obtain ⟨hf, hlevel, hstate⟩ := hkeep hne
      exact hnone t ⟨ht, hfid ▸ hf, hlevel.trans hvp, hstate.trans hvst⟩
    have hP' := (hlevp p hpl).trans hP
    have hagain := arrive_at_join hfreed hp hP' hjoin n
    dsimp only at hagain
    rw [if_neg hmiss, landed_of_none _ hwait] at hagain
    rw [harrive, if_pos hall, hagain]
    refine ⟨?_, ?_, ?_⟩
    · have hsame : ({ m with st := .waiting, level := L.parent, split := none, fault := false } : Frag) =
          { m with level := some p, split := none } := by rw [hp, ← hst, ← hfault]
      exact frag_fill c ((frag_landing_self hfreed).trans (congrArg some hsame))
    · simp [level_landing, hlevl]
    · simp [level_landing, hP']

section
variable {g : Group} {f l : Nat} {x : Frag} {L : Level} (hx : g.frag f = some x) (hl : x.level = some l)
  (hL : g.level l = some L) (hpc : x.pc = L.join) (n c : Nat)
include hx hl hL hpc

/-- With no fragment waiting at the level, the one that arrives there is what the arrived lanes are. -/
theorem comesTo_alone (hnone : ∀ v, ¬g.WaitsAt f l v) :
    ComesTo g ((g.arrive f (n + 2)).fill c) f l L (L.arrived ||| x.lanes) f { x with st := .waiting, fault := false } := by
  have hland := landed_of_none (L.arrived ||| x.lanes) hnone
  refine comesTo_arrive hx hl hL hpc (by rw [hland]) ?_ rfl rfl n c
  rw [hland]
  exact frag_landing_self hx

/-- A fragment that waits at the level takes the lanes and outstanding words of the one that arrives, which is no more. -/
theorem comesTo_merged {z : Frag} (hz : g.frag z.fid = some z) (hw : g.WaitsAt f l z)
    (huniq : ∀ v, g.WaitsAt f l v → v = z) :
    ((g.arrive f (n + 2)).fill c).frag f = none ∧
      ComesTo g ((g.arrive f (n + 2)).fill c) f l L (L.arrived ||| x.lanes) z.fid { z with
        lanes := z.lanes ||| x.lanes, out := joinOuts z.out x.out, fault := false
        split := if z.split = some f then x.split else z.split } := by
  obtain ⟨-, hne, -, hst⟩ := id hw
  have hland := landed_of_waiting (L.arrived ||| x.lanes) hw huniq
  have hkeep (arr : W32) : (g.landing f l arr).frag z.fid = some z := (frag_landing_ne g hne).trans hz
  constructor
  · have hgone : (g.landed f l (L.arrived ||| x.lanes)).1.frag f = none := by
      rw [hland]
      exact frag_eq_none_iff.2 fun v hv => (mem_merge (hkeep _) (frag_landing_self hx) hv).1
    refine frag_fill_none c ?_
    rw [arrive_at_join hx hl hL hpc (n + 1)]
    split
    · exact frag_arrive_none _ _ (frag_freed_none _ _ _ hgone)
    · exact hgone
  · refine comesTo_arrive hx hl hL hpc (by rw [hland]) ?_ ?_ rfl n c
    · rw [hland, frag_merge (hkeep _) (frag_landing_self hx) hne]
      simp [mergedFrag]
    · exact hst

end

/-- Where lanes come to is the same told of the group before its fragment went to the join. -/
theorem ComesTo.of_modFrag {g y : Group} {f l k : Nat} {L : Level} {arr : W32} {m : Frag} {h : Frag → Frag}
    (hfid : ∀ x, (h x).fid = x.fid) (hc : ComesTo (g.modFrag f h) y f l L arr k m) : ComesTo g y f l L arr k m := by
  obtain ⟨hmiss, hfree, houter⟩ := hc
  exact ⟨hmiss, hfree, fun p P harr hp hpl hP hjoin hnone =>
    houter p P harr hp hpl hP hjoin fun v hv => hnone v ((waitsAt_modFrag hfid).1 hv)⟩

end Sys2Proof.Machine

namespace Sys2Proof.Proofs
open Sys2Proof.Machine Sys2Proof.Claims

/-- Settles O41: the group of the fragment that went to `pc` is that of its arrival there, with the slots refilled. -/
theorem fragmentsArriveAtTheirJoin : Obligations.FragmentsArriveAtTheirJoin := by
  intro s g f pc x hx t y
  let h (x : Frag) : Frag := { x with pc := pc }
  have hfid (x : Frag) : (h x).fid = x.fid := rfl
  have hy : y = (((s.group g).modFrag f h).arrive f ((s.group g).levels.length + 1)).fill s.clock :=
    State.group_modGroup ..
  have hx1 : ((s.group g).modFrag f h).frag f = some (h x) := by rw [frag_modFrag_self _ _ hfid, hx]; rfl
  refine ⟨rfl, fun g' hg => State.group_modGroup_ne _ _ _ _ hg, ?_, fun hno => ?_, fun l L hl hL hpc => ?_⟩
  · have hrest : y.rest = (s.group g).rest := by rw [hy, Group.fill_rest, rest_arrive, Group.modFrag_rest]
    exact congrArg (fun z : Group => { z with
      frags := (s.group g).frags, levels := (s.group g).levels, slots := (s.group g).slots
      spilled := (s.group g).spilled, log := (s.group g).log }) hrest
  · have hstay : ((s.group g).modFrag f h).arrive f ((s.group g).levels.length + 1) = (s.group g).modFrag f h :=
      arrive_of_not_join _ fun x' l L hx' hl hL => by
        obtain rfl := Option.some.inj (hx1.symm.trans hx')
        exact hno l L hl hL
    obtain ⟨n, hn⟩ := frag_fill s.clock hx1
    rw [hy, hstay]
    exact ⟨n, hn, rfl, rfl⟩
  · obtain ⟨n, hn⟩ : ∃ n, (s.group g).levels.length + 1 = n + 2 := by
      have hpos : 0 < (s.group g).levels.length := List.length_pos_of_mem (List.mem_of_find?_eq_some hL)
      exact ⟨(s.group g).levels.length - 1, by omega⟩
    rw [hn] at hy
    rw [hy]
    refine ⟨fun hnone => ?_, fun z hz hw huniq => ?_⟩
    · exact (comesTo_alone hx1 hl hL hpc n s.clock fun v hv => hnone v ((waitsAt_modFrag hfid).1 hv)).of_modFrag hfid
    · obtain ⟨hgone, hcomes⟩ := comesTo_merged hx1 hl hL hpc n s.clock
        ((frag_modFrag_ne _ hfid hw.2.1).trans hz) ((waitsAt_modFrag hfid).2 hw)
        fun v hv => huniq v ((waitsAt_modFrag hfid).1 hv)
      exact ⟨hgone, hcomes.of_modFrag hfid⟩

end Sys2Proof.Proofs
end

section
/-!
SUPPORT. The words that convert, pack, move, shuffle, reduce, scan and count: what each writes by its row of the table, the
steps of REDC and SCAN, and the fields of CVT, PACK and UNPACK. Settles O38.
-/
namespace Sys2Proof.Machine

open Sys2Proof.Claims

/-! ### Words that write one register in the acting lanes -/

theorem natBit_toNat {n : Nat} (x : BitVec n) (i : Nat) : natBit x.toNat i = x.getLsbD i := by
  rw [natBit_eq_testBit, BitVec.testBit_toNat]

/-- The rows of class 00 take the types of R52. -/
theorem aluTypes_le {o t : Nat} {sp : LaneSpec} (ho : o < 0x57) (hsp : aluSpec o = some sp) (ht : t ∈ sp.tys) :
    t ≤ 14 := by
  have hall : ∀ o < 0x57, ((aluSpec o).elim [] (·.tys)).all (· ≤ 14) = true := by decide
  have hrow := hall o ho
  rw [hsp] at hrow
  simpa using List.all_eq_true.1 hrow t ht

section
variable {i : Instr} {w : LaneW} {s : State} {e : LaneEnv} {o t : Nat} (h : LaneLegal i w s e)
  (hi : laneCode i = some (0, o, w))
include h hi

theorem lane_type_le (ho : o < 0x57) : w.ty.toNat ≤ 14 := by
  obtain ⟨sp, hsp, hty⟩ := h.type_mem hi
  exact aluTypes_le ho hsp hty

/-- A word whose effect is `f` in each acting lane writes any values of its type that agree with it there, and its flags. -/
theorem laneMap_wrote_mod {F : LaneEnv → State} {f r : Nat → Nat × Nat} (hx : exec i s = lane 0 o w s F)
    (hF : F e = s.laneMap e t w.vd.toNat f) (ht : t ≤ 14)
    (hv : ∀ j ∈ e.act, (f j).1 % 2 ^ typeWidth t = (r j).1 % 2 ^ typeWidth t) (hfl : ∀ j ∈ e.act, (f j).2 = (r j).2) :
    ∃ u, exec i s = .next u ∧ LaneWroteReg s u e w.vd.toNat t (fun j => (r j).1) (fun j => (r j).2) := by
  refine lane_effect h hi hx ?_
  rw [hF]
  obtain ⟨hnext, hvregs, hmasks, hflags⟩ := h.laneMap (d := w.vd.toNat) ht f
  refine ⟨hnext, ?_, hmasks, fun k => (hflags k).trans (or_congr_right (exists_congr fun j => and_congr_right fun hj => ?_))⟩
  · rwa [writtenV_congr ht hv] at hvregs
  · rw [hfl j hj]

/-- The same with values that are equal. -/
theorem laneMap_wrote {F : LaneEnv → State} {f r : Nat → Nat × Nat} (hx : exec i s = lane 0 o w s F)
    (hF : F e = s.laneMap e t w.vd.toNat f) (ht : t ≤ 14) (hr : ∀ j ∈ e.act, f j = r j) :
    ∃ u, exec i s = .next u ∧ LaneWroteReg s u e w.vd.toNat t (fun j => (r j).1) (fun j => (r j).2) :=
  laneMap_wrote_mod h hi hx hF ht (fun j hj => by rw [hr j hj]) fun j hj => by rw [hr j hj]

end

/-! ### REDC and SCAN (R165, R166) -/

/-- One more value in a chain, with the flags of the steps so far. -/
def chainStep (t op : Nat) (r : Rnd) (a : Nat × Nat) (x : Nat) : Nat × Nat :=
  ((redcStep t op r a.1 x).1, a.2 ||| (redcStep t op r a.1 x).2)

theorem cons_running (t op : Nat) (r : Rnd) (acc : Nat × Nat) (l : List Nat) :
    acc :: running t op r acc l = l.scanl (chainStep t op r) acc := by
  induction l generalizing acc with
  | nil => simp [running]
  | cons b l ih =>
    rw [List.scanl_cons, ← ih]
    rfl

/-- The combinations so far, at each place, are the chains of the values up to it. -/
theorem prefixes_getElem? {t op i : Nat} {r : Rnd} {xs : List Nat} (hi : i < xs.length) :
    (prefixes t op r xs)[i]? = some (chain t op r (xs.take (i + 1))) := by
  cases xs with
  | nil => simp at hi
  | cons b l =>
    have hle : i ≤ l.length := by simpa [Nat.lt_succ_iff] using hi
    rw [prefixes, cons_running, List.getElem?_scanl, if_pos hle]
    rfl

theorem prefixes_getLastD {t op : Nat} {r : Rnd} {xs : List Nat} (hxs : xs ≠ []) (d : Nat × Nat) :
    (prefixes t op r xs).getLastD d = chain t op r xs := by
  cases xs with
  | nil => exact absurd rfl hxs
  | cons b l =>
    rw [prefixes, cons_running, List.getLastD_eq_getLast?, List.getLast?_scanl]
    rfl

/-- A test that the first `n` elements pass and no other does keeps those. -/
theorem filter_eq_take {l : List Nat} {n : Nat} {p : Nat → Bool} (hlow : ∀ m (_ : m < l.length), m < n → p l[m] = true)
    (hhigh : ∀ m (_ : m < l.length), n ≤ m → p l[m] = false) : l.filter p = l.take n := by
  have hpre : (l.take n).filter p = l.take n := List.filter_eq_self.2 fun a ha => by
    obtain ⟨m, hm, rfl⟩ := List.mem_take_iff_getElem.1 ha
    exact hlow m (by omega) (by omega)
  have hpost : (l.drop n).filter p = [] := List.filter_eq_nil_iff.2 fun a ha => by
    obtain ⟨m, hm, rfl⟩ := List.mem_drop_iff_getElem.1 ha
    simp [hhigh (n + m) (by omega) (by omega)]
  rw [← List.take_append_drop n l, List.filter_append, hpre, hpost, List.append_nil, List.take_append_drop]

/-- In an ascending list, the elements below one that stands in it are those before it. -/
theorem filter_below_getElem {l : List Nat} (hl : l.Pairwise (· < ·)) {i : Nat} (hi : i < l.length) (excl : Bool) :
    (l.filter fun k => k < l[i] ∨ (k = l[i] ∧ excl = false)) = l.take (if excl then i else i + 1) := by
  have hlt := List.pairwise_iff_getElem.1 hl
  have hle (m n : Nat) (hm : m < l.length) (hn : n < l.length) (hmn : m ≤ n) : l[m] ≤ l[n] := by
    rcases Nat.eq_or_lt_of_le hmn with rfl | hmn
    · exact Nat.le_refl _
    · exact Nat.le_of_lt (hlt m n hm hn hmn)
  cases excl with
  | true =>
    refine filter_eq_take (fun m hm hmi => ?_) fun m hm him => ?_
    · simpa using hlt m i hm hi hmi
    · simpa using hle i m hi hm him
  | false =>
    refine filter_eq_take (fun m hm hmi => ?_) fun m hm him => ?_
    · simpa [← Nat.le_iff_lt_or_eq] using hle m i hm hi (Nat.le_of_lt_succ hmi)
    · simpa [← Nat.le_iff_lt_or_eq] using hlt i m hi hm him

/-- The values of SCAN, inclusive or after the identity, are the chains of the lanes at or below each, or below it. -/
theorem scanned_getElem? {t op i : Nat} {r : Rnd} {xs : List Nat} (hi : i < xs.length) (excl : Bool) :
    (if excl then (identityT t op, 0) :: prefixes t op r xs else prefixes t op r xs)[i]? =
      some (chain t op r (xs.take (if excl then i else i + 1))) := by
  cases excl with
  | false => exact prefixes_getElem? hi
  | true =>
    cases i with
    | zero => rfl
    | succ i => exact prefixes_getElem? (by omega)

/-- What SCAN gives each acting lane (R166). -/
theorem zip_scanned {act : List Nat} (hact : act.Pairwise (· < ·)) (t op : Nat) (r : Rnd) (b : Nat → Nat) (excl : Bool) :
    act.zip (if excl then (identityT t op, 0) :: prefixes t op r (act.map b) else prefixes t op r (act.map b)) =
      act.map fun j => (j, chain t op r ((act.filter fun k => k < j ∨ (k = j ∧ excl = false)).map b)) := by
  refine List.ext_getElem? fun i => ?_
  by_cases hi : i < act.length
  · have hval := scanned_getElem? (t := t) (op := op) (r := r) (xs := act.map b) (by simpa using hi) excl
    rw [List.getElem?_map, List.getElem?_eq_getElem hi, Option.map_some, filter_below_getElem hact hi, List.map_take]
    exact List.getElem?_zip_eq_some.2 ⟨List.getElem?_eq_getElem hi, hval⟩
  · rw [List.getElem?_eq_none (by rw [List.length_zip]; omega), List.getElem?_eq_none (by rw [List.length_map]; omega)]

/-! ### Counts of mask bits (R167, R169) -/

theorem popN_mask (q : W32) : popN 32 q.toNat = ((List.range 32).filter fun i => q.getLsbD i).length :=
  popN_eq 32 q.toNat

theorem lowestBit_mask (q : W32) : lowestBit 32 q.toNat = ((List.range 32).takeWhile fun i => !q.getLsbD i).length := by
  obtain ⟨hle, hlow, hbit⟩ := lowestBit_spec 32 q.toNat
  refine (length_takeWhile_range hle (fun i hi => ?_) fun hlt => ?_).symm
  · rw [← BitVec.testBit_toNat, hlow i hi]
    rfl
  · rw [← BitVec.testBit_toNat, hbit hlt]
    rfl

/-! ### Fields (R159 to R161) -/

/-- A field replaced in a register, as far as the register goes. -/
theorem setBits_mod_eq_withField (x lo n v : Nat) : setBits x lo n v % 2 ^ 32 = withField x lo n v := by
  refine eq_ofBits (Nat.mod_lt _ (by norm_num)) fun i hi => ?_
  rw [Nat.testBit_mod_two_pow, testBit_setBits]
  simp [hi]

theorem withField_lt (x lo n v : Nat) : withField x lo n v < 2 ^ 32 := ofBits_lt ..

/-- Element `k` of width `n`, given by its first and last bit. -/
theorem bits_eq_elemOf {n : Nat} (hn : 0 < n) (x k : Nat) : bits x (n * (k + 1) - 1) (n * k) = elemOf x n k := by
  have hwidth : n * (k + 1) - 1 + 1 - n * k = n := by
    rw [Nat.mul_succ]
    omega
  rw [bits, elemOf, hwidth]

theorem fmtBits_pos {f : Nat} (hf : f < 32) : 0 < fmtBits f := by
  have hall : ∀ f < 32, 0 < fmtBits f := by decide
  exact hall f hf

/-- The low bits of a register do not depend on its sign. -/
theorem lowBits_asInt {n : Nat} (hn : n ≤ 32) (sg : Bool) (x : Nat) : lowBits n (asInt sg 32 x) = x % 2 ^ n := by
  unfold asInt
  split
  · have hpow : (2 : Int) ^ 32 = 2 ^ n * 2 ^ (32 - n) := by rw [← pow_add, Nat.add_sub_cancel' hn]
    rw [lowBits, hpow, Int.sub_mul_emod_self_left]
    exact lowBits_natCast n x
  · exact lowBits_natCast n x

/-- An element of PACK (R160). -/
theorem narrow_eq {t n x : Nat} (ht : t < 8) (hn : typeWidth t = n) (hn32 : n ≤ 32) (sat : Bool) (hx : x < 2 ^ 32) :
    narrow (intS t) sat n x =
      if sat then clampTo (decide (t < 4)) n (asInt (decide (t < 4)) 32 x) else x % 2 ^ n := by
  subst hn
  rw [← clampT_eq (.inl ht), ← lowBits_asInt hn32 (decide (t < 4)), narrow, clampT, intDecode_eq_asInt _ hx,
    intW_eq (.inl ht), wrapN_eq_lowBits, wrapN_eq_lowBits]
  cases sat <;> rfl

/-- An element of UNPACK, extended by the sign of its type (R161). -/
theorem extend_eq {n v : Nat} (hv : v < 2 ^ n) (hn : n ≤ 32) (sg : Bool) :
    (if sg then wrapN 32 (sintN n v) else v) = lowBits 32 (asInt sg n v) := by
  cases sg with
  | true => rw [if_pos rfl, wrapN_eq_lowBits, sintN_eq_asInt hv]
  | false =>
    have hmod : v % 2 ^ 32 = v := Nat.mod_eq_of_lt (hv.trans_le (Nat.pow_le_pow_right (by norm_num) hn))
    simpa [asInt] using hmod.symm

/-! ### Moves, shuffles, reductions, scans and counts -/

section
variable {w : LaneW} {s : State} {e : LaneEnv}

/-- REDC gives every acting lane the chain of all of them (R165). -/
theorem redc_wrote (h : LaneLegal (.redc w) w s e) :
    let r := chain w.ty.toNat (w.mod.toNat % 8) (e.y.rnd w) (e.act.map (e.b w))
    ∃ u, exec (.redc w) s = .next u ∧ LaneWroteReg s u e w.vd.toNat w.ty.toNat (fun _ => r.1) (fun _ => r.2) := by
  refine laneMap_wrote h (i := .redc w) rfl (r := fun _ => chain _ _ _ _) (f := fun _ =>
    (prefixes w.ty.toNat (w.mod.toNat % 8) (e.y.rnd w) (e.act.map (e.b w))).getLastD (0, 0))
    (show execRedc w s = _ from rfl) rfl (lane_type_le h rfl (by decide)) fun j hj => prefixes_getLastD ?_ _
  simpa using List.ne_nil_of_mem hj

/-- SCAN gives each acting lane the chain of those at or below it, or below it (R166). -/
theorem scan_wrote (h : LaneLegal (.scan w) w s e) :
    let r (j : Nat) := chain w.ty.toNat (w.mod.toNat % 8) (e.y.rnd w)
      ((e.act.filter fun k => k < j ∨ (k = j ∧ w.mod.getLsbD 3 = false)).map (e.b w))
    ∃ u, exec (.scan w) s = .next u ∧
      LaneWroteReg s u e w.vd.toNat w.ty.toNat (fun j => (r j).1) (fun j => (r j).2) := by
  intro r
  refine lane_effect h rfl (show _ = execScan w s from rfl) ?_
  simp only [natBit_toNat, zip_scanned h.acts.1]
  exact h.laneMap (lane_type_le (o := 0x49) h rfl (by decide)) r

/-- VOTE ballot gives every acting lane the acting lanes whose bit is set (R167). -/
theorem ballot_wrote (h : LaneLegal (.vote w) w s e) (hm : w.mod.toNat % 4 = 2) :
    ∃ u, exec (.vote w) s = .next u ∧ LaneWroteReg s u e w.vd.toNat 6
      (fun _ => ofBits 32 fun i => decide (i ∈ e.act) && (e.y.mask w.vb.toNat).getLsbD i) (fun _ => 0) := by
  have hballot : maskOf 32 (e.act.filter (natBit (e.y.mask w.vb.toNat).toNat)) =
      ofBits 32 fun i => decide (i ∈ e.act) && (e.y.mask w.vb.toNat).getLsbD i := by
    rw [maskOf_eq_ofBits]
    simp [natBit_toNat]
  refine laneMap_wrote h rfl (show _ = execVote w s from rfl)
    (f := fun _ => (maskOf 32 (e.act.filter (natBit (e.y.mask w.vb.toNat).toNat)), 0)) ?_ (by decide)
    (r := fun _ => (ofBits 32 fun i => decide (i ∈ e.act) && (e.y.mask w.vb.toNat).getLsbD i, 0))
    fun j _ => congrArg (·, 0) hballot
  simp only [hm]

/-- SEL copies a register operand whole, and writes any other by its type (R151). -/
theorem sel_wrote (h : LaneLegal (.laneSel w) w s e) :
    let t := w.ty.toNat
    let copy := if t = 3 ∨ t = 7 then t else 14
    let c (j : Nat) := (e.y.mask w.vc.toNat).getLsbD j
    ∃ u, exec (.laneSel w) s = .next u ∧ LaneWrote s u e
      (writtenV e w.vd.toNat (fun j => if c j = true ∨ w.bsc = false then copy else t)
        (fun j => if c j then whole e t w.va.toNat j else if w.bsc then e.b w j else whole e t w.vb.toNat j))
      e.y.mask (fun _ => 0) := by
  intro t copy c
  have ht : t ≤ 14 := lane_type_le (o := 0x1C) h rfl (by decide)
  have hcopy : copy = if tyPair t then t else 14 := (if_congr tyPair_iff rfl rfl).symm
  have hcopy14 : copy ≤ 14 := by
    dsimp only [copy]
    split <;> omega
  have hty (j : Nat) : (if c j = true ∨ w.bsc = false then copy else t) ≤ 14 := by split <;> assumption
  refine lane_effect h rfl (show _ = execLaneSel w s from rfl) ?_
  have hvals : (e.act.flatMap fun j =>
      if natBit (e.y.mask w.vc.toNat).toNat j then
        resultV (if tyPair t then t else 14) w.vd.toNat j (e.y.operand t w.va.toNat j)
      else if w.bsc then resultV t w.vd.toNat j (e.b w j)
      else resultV (if tyPair t then t else 14) w.vd.toNat j (e.y.operand t w.vb.toNat j)) =
      e.act.flatMap fun j => resultV (if c j = true ∨ w.bsc = false then copy else t) w.vd.toNat j
        (if c j then whole e t w.va.toNat j else if w.bsc then e.b w j else whole e t w.vb.toNat j) := by
    refine congrArg (List.flatMap · e.act) (funext fun j => ?_)
    rw [natBit_toNat, operand_eq_whole, operand_eq_whole, ← hcopy]
    by_cases hc : c j
    · rw [if_pos hc, if_pos (.inl hc), if_pos hc]
    · cases hb : w.bsc <;> simp [c, hc]
  have hw := h.laneWrite_results (d := w.vd.toNat) (fl₀ := 0) (fl := fun _ => 0) hty (val := fun j =>
    if c j then whole e t w.va.toNat j else if w.bsc then e.b w j else whole e t w.vb.toNat j) (by simp)
  rw [← hvals] at hw
  exact hw

end

/-! ### Conversion, packing and unpacking (R159 to R161) -/

/-- What the checks of R65 say of a lane word beyond its table row: no MOD code that the row refuses, none of the extra
conditions. -/
theorem mod_and_extra_of_offences {nv c o : Nat} {w : LaneW} {sp : LaneSpec} (h : laneOffences nv c o w sp = []) :
    sp.badMod w.mod.toNat = false ∧ laneExtra nv c o w = [] := by
  simp only [laneOffences, List.append_eq_nil_iff] at h
  obtain ⟨⟨⟨-, hmod⟩, -⟩, hextra⟩ := h
  refine ⟨?_, hextra⟩
  by_contra hbad
  simp [hbad] at hmod

section
variable {w : LaneW} {s : State} {e : LaneEnv}

/-- A CVT between lane types names a destination type of R52. -/
theorem cvt_type_le (h : LaneLegal (.cvt w) w s e) (h1 : w.mod.toNat % 4 ≠ 1) (h2 : w.mod.toNat % 4 ≠ 2) :
    w.fmt.toNat % 16 ≤ 14 := by
  obtain ⟨sp, hsp, hoff⟩ := laneCheck_eq_none (h.checks 0 0x38 w rfl).2
  obtain ⟨hmod, hextra⟩ := mod_and_extra_of_offences hoff
  obtain rfl := Option.some.inj hsp
  have h3 : w.mod.toNat % 4 ≠ 3 := by simpa using hmod
  have h0 : w.mod.toNat % 4 = 0 := by omega
  simp [laneExtra, h0] at hextra
  omega

/-- CVT from an operand format decodes an element of VB and encodes its value in the lane type (R159). -/
theorem cvt_from_format (h : LaneLegal (.cvt w) w s e) (h1 : w.mod.toNat % 4 = 1) :
    let ct := agetD {} (s.wg e.g.wg).cts (w.p2.toNat / 32 % 8)
    let f := w.fmt.toNat
    let r (j : Nat) := tyEncode w.ty.toNat (e.y.rnd w) w.sat (fmtIsInt f) (fmtDecode
      (fun i => (cget 0 ct.ent (256 * ct.cur + i)).toNat) f
      (elemOf (e.y.operandB e.stream 14 w j) (fmtBits f) (w.p2.toNat % 32)))
    ∃ u, exec (.cvt w) s = .next u ∧ LaneWroteReg s u e w.vd.toNat w.ty.toNat (fun j => (r j).1) (fun j => (r j).2) := by
  intro ct f r
  refine laneMap_wrote h rfl (show _ = execCvt w s from rfl) (f := r) ?_ (lane_type_le (o := 0x38) h rfl (by decide))
    fun _ _ => rfl
  simp only [h1, bits_eq_elemOf (fmtBits_pos w.fmt.isLt)]
  rfl

/-- CVT to an operand format puts the encoded element in its field of VD (R159). -/
theorem cvt_to_format (h : LaneLegal (.cvt w) w s e) (h2 : w.mod.toNat % 4 = 2) :
    let f := w.fmt.toNat
    let r (j : Nat) := fmtEncode f (e.y.rnd w) w.sat (tyIsInt w.ty.toNat) (tyDecode w.ty.toNat (e.b w j))
    ∃ u, exec (.cvt w) s = .next u ∧ LaneWroteReg s u e w.vd.toNat 14
      (fun j => withField (e.y.vreg w.vd.toNat j).toNat (fmtBits f * (w.p2.toNat % 32)) (fmtBits f) (r j).1)
      (fun j => (r j).2) := by
  intro f r
  let lo := fmtBits f * (w.p2.toNat % 32)
  let old (j : Nat) := (e.y.vreg w.vd.toNat j).toNat
  refine laneMap_wrote_mod h rfl (show _ = execCvt w s from rfl)
    (r := fun j => (withField (old j) lo (fmtBits f) (r j).1, (r j).2))
    (f := fun j => (setBits (old j) lo (fmtBits f) (r j).1, (r j).2)) ?_ (by decide) (fun j _ => ?_) fun _ _ => rfl
  · simp only [h2]
    rfl
  · exact (setBits_mod_eq_withField ..).trans (Nat.mod_eq_of_lt (withField_lt ..)).symm

/-- CVT between lane types encodes the value of VB (R159). -/
theorem cvt_between_types (h : LaneLegal (.cvt w) w s e) (h1 : w.mod.toNat % 4 ≠ 1) (h2 : w.mod.toNat % 4 ≠ 2) :
    let r (j : Nat) := tyEncode (w.fmt.toNat % 16) (e.y.rnd w) w.sat (tyIsInt w.ty.toNat) (tyDecode w.ty.toNat (e.b w j))
    ∃ u, exec (.cvt w) s = .next u ∧
      LaneWroteReg s u e w.vd.toNat (w.fmt.toNat % 16) (fun j => (r j).1) (fun j => (r j).2) := by
  intro r
  refine laneMap_wrote h rfl (show _ = execCvt w s from rfl) (f := r) ?_ (cvt_type_le h h1 h2) fun _ _ => rfl
  simp only [h1, h2, if_false]
  rfl

/-- PACK and UNPACK take the 8-bit and 16-bit integers and the packed types. -/
theorem pack_type {o : Nat} {i : Instr} (h : LaneLegal i w s e) (hi : laneCode i = some (0, o, w)) (ho : o = 0x39 ∨ o = 0x3A) :
    (w.ty.toNat = 11 ∨ w.ty.toNat = 12) ∨ (w.ty.toNat = 1 ∨ w.ty.toNat = 5) ∨ w.ty.toNat = 0 ∨ w.ty.toNat = 4 := by
  obtain ⟨sp, hsp, hty⟩ := h.type_mem hi
  rcases ho with rfl | rfl <;> obtain rfl := Option.some.inj hsp <;> simp at hty <;> omega

/-- PACK puts two narrowed elements side by side, those of 8 bits in half of VD (R160). -/
theorem pack_wrote (h : LaneLegal (.pack w) w s e) :
    let t := w.ty.toNat
    let a (j : Nat) := (e.y.vreg w.va.toNat j).toNat
    let b (j : Nat) := e.y.operandB e.stream 14 w j
    let nar (n x : Nat) : Nat := if w.sat then clampTo (decide (t < 4)) n (asInt (decide (t < 4)) 32 x) else x % 2 ^ n
    let r (j : Nat) : Nat :=
      if t = 11 ∨ t = 12 then a j % 65536 + 65536 * (b j % 65536)
      else if t = 1 ∨ t = 5 then nar 16 (a j) + 65536 * nar 16 (b j)
      else withField (e.y.vreg w.vd.toNat j).toNat (if w.mod.getLsbD 0 then 16 else 0) 16
        (nar 8 (a j) + 256 * nar 8 (b j))
    ∃ u, exec (.pack w) s = .next u ∧ LaneWroteReg s u e w.vd.toNat 14 r fun _ => 0 := by
  intro t a b nar r
  have ha (j : Nat) : e.y.operand 14 w.va.toNat j < 2 ^ 32 := (e.y.vreg w.va.toNat j).isLt
  have hb (j : Nat) : e.y.operandB e.stream 14 w j < 2 ^ 32 := operandB_lt ..
  refine laneMap_wrote_mod h rfl (show _ = execPack w s from rfl) rfl (by decide) (r := fun j => (r j, 0)) (fun j _ => ?_)
    fun _ _ => rfl
  dsimp only [r]
  rcases pack_type h rfl (.inl rfl) with hp | h16 | h8
  · rw [if_pos (tyPacked_iff.2 hp), if_pos hp, Nat.mul_comm 65536]
    rfl
  · have hp : ¬(t = 11 ∨ t = 12) := by omega
    have hw : typeWidth t = 16 := by rcases h16 with h | h <;> rw [show t = _ from h] <;> rfl
    have hnar (x : Nat) (hx : x < 2 ^ 32) := narrow_eq (t := t) (by omega) hw (by decide) w.sat hx
    rw [if_neg (tyPacked_iff.not.2 hp), if_neg hp, if_pos h16, if_pos h16, hnar _ (ha j), hnar _ (hb j),
      Nat.mul_comm 65536]
    rfl
  · have hp : ¬(t = 11 ∨ t = 12) := by omega
    have h16 : ¬(t = 1 ∨ t = 5) := by omega
    have hw : typeWidth t = 8 := by rcases h8 with h | h <;> rw [show t = _ from h] <;> rfl
    have hnar (x : Nat) (hx : x < 2 ^ 32) := narrow_eq (t := t) (by omega) hw (by decide) w.sat hx
    rw [if_neg (tyPacked_iff.not.2 hp), if_neg hp, if_neg h16, if_neg h16, hnar _ (ha j), hnar _ (hb j), natBit_toNat,
      Nat.mul_comm 256]
    exact (setBits_mod_eq_withField ..).trans (Nat.mod_eq_of_lt (withField_lt ..)).symm

/-- UNPACK extends an integer element of VB, or gives the value of a packed one in f32 (R161). -/
theorem unpack_wrote (h : LaneLegal (.unpack w) w s e) :
    let t := w.ty.toNat
    let b (j : Nat) := e.y.operandB e.stream 14 w j
    let n := if t = 1 ∨ t = 5 then 16 else 8
    let r (j : Nat) : Nat × Nat :=
      if t = 11 ∨ t = 12 then fin1 ffF32 .rne ((tyFF t).decode (elemOf (b j) 16 (w.mod.toNat % 4)))
      else (lowBits 32 (asInt (decide (t < 4)) n (elemOf (b j) n (w.mod.toNat % 4))), 0)
    ∃ u, exec (.unpack w) s = .next u ∧ LaneWroteReg s u e w.vd.toNat 14 (fun j => (r j).1) (fun j => (r j).2) := by
  intro t b n r
  refine laneMap_wrote h rfl (show _ = execUnpack w s from rfl) rfl (by decide) fun j _ => ?_
  dsimp only [r]
  by_cases hp : t = 11 ∨ t = 12
  · rw [if_pos (tyPacked_iff.2 hp), if_pos hp]
    rfl
  · have hn : n ≤ 32 := by
      dsimp only [n]
      split <;> norm_num
    rw [if_neg (tyPacked_iff.not.2 hp), if_neg hp]
    exact congrArg (·, 0) (extend_eq (Nat.mod_lt _ (by positivity)) hn (intS t))

end

end Sys2Proof.Machine

namespace Sys2Proof.Proofs
open Sys2Proof.Machine Sys2Proof.Claims

section
variable {w : LaneW} {s : State} {e : LaneEnv}

/-- R158, R162 to R169: the words of the table, each by its own row. -/
theorem moveWords_wrote {p : Instr × Nat × (Nat → Nat × Nat)} (hp : p ∈ moveWords w e) (h : LaneLegal p.1 w s e) :
    ∃ u, exec p.1 s = .next u ∧ LaneWroteReg s u e w.vd.toNat p.2.1 (fun j => (p.2.2 j).1) (fun j => (p.2.2 j).2) := by
  simp only [moveWords, List.mem_cons, List.not_mem_nil, or_false] at hp
  rcases hp with rfl | rfl | rfl | rfl | rfl | rfl | rfl | rfl | rfl | rfl | rfl
  · exact laneMap_wrote h rfl (show execFclass w s = _ from rfl) rfl (show 6 ≤ 14 by decide) fun j _ => perHalf_eq_halves ..
  · exact laneMap_wrote h rfl (show execLaneMov w s = _ from rfl) rfl (lane_type_le h rfl (by decide)) fun j _ => by
      rw [operand_eq_whole]
  · exact laneMap_wrote h rfl (show execLaneMovi w s = _ from rfl) rfl (lane_type_le h rfl (by decide)) fun j _ => rfl
  · exact laneMap_wrote h rfl (show execMovs w s = _ from rfl) rfl (lane_type_le h rfl (by decide)) fun j _ => rfl
  · exact laneMap_wrote h rfl (show execLaneid w s = _ from rfl) rfl (show 6 ≤ 14 by decide) fun j _ => rfl
  · exact laneMap_wrote h rfl (show execShfl w s = _ from rfl) rfl (lane_type_le h rfl (by decide)) fun j _ => by
      simp only [natBit_toNat, operand_eq_whole]
      rfl
  · exact laneMap_wrote h rfl (show execBcast w s = _ from rfl) rfl (lane_type_le h rfl (by decide)) fun j _ => by
      simp only [natBit_toNat, operand_eq_whole]
      rfl
  · exact redc_wrote h
  · exact scan_wrote h
  · exact laneMap_wrote h rfl (show execQpop w s = _ from rfl) rfl (show 6 ≤ 14 by decide) fun j _ => by rw [popN_mask]
  · exact laneMap_wrote h rfl (show execQff w s = _ from rfl) rfl (show 6 ≤ 14 by decide) fun j _ => by rw [lowestBit_mask]

/-- R159 to R161: the words of the table, each by its own row. -/
theorem packWords_wrote {p : Instr × Nat × (Nat → Nat × Nat)}
    (hp : p ∈ packWords w e (agetD {} (s.wg e.g.wg).cts (w.p2.toNat / 32 % 8))) (h : LaneLegal p.1 w s e) :
    ∃ u, exec p.1 s = .next u ∧ LaneWroteReg s u e w.vd.toNat p.2.1 (fun j => (p.2.2 j).1) (fun j => (p.2.2 j).2) := by
  simp only [packWords, List.mem_cons, List.not_mem_nil, or_false] at hp
  rcases hp with rfl | rfl | rfl
  · by_cases h1 : w.mod.toNat % 4 = 1
    · simpa [h1] using cvt_from_format h h1
    by_cases h2 : w.mod.toNat % 4 = 2
    · simpa [h2] using cvt_to_format h h2
    · simpa [h1, h2] using cvt_between_types h h1 h2
  · simpa only [apply_ite Prod.fst, apply_ite Prod.snd, ite_self] using pack_wrote h
  · simpa only [apply_ite Prod.fst, apply_ite Prod.snd] using unpack_wrote h

end

/-- Settles O38: every word of the two tables by its row, the ballot, and SEL. -/
theorem movesConversionsAndReductionsWriteTheirResult :
    Obligations.MovesConversionsAndReductionsWriteTheirResult := by
  intro w s e
  refine ⟨fun p hp h => ?_, ballot_wrote, sel_wrote⟩
  rcases List.mem_append.1 hp with hp | hp
  · exact moveWords_wrote hp h
  · exact packWords_wrote hp h

end Sys2Proof.Proofs
end
